-- ==== Sys2Proof/Word.lean ====
section
/-! DEFINITION. The word types every other file uses (R31, R111): a 64-bit register word, a byte, and
the sparse map in which the model keeps what the spec numbers. -/

namespace Sys2Proof

/-- A register or scalar word, 64 bits (R31, R39). -/
abbrev Word := BitVec 64

/-- One byte of memory. -/
abbrev Byte := BitVec 8

/-- A sparse map: pairs of a number and a value, numbers strictly rising, no pair at the default value.
A unit the spec numbers (a core, a ring, a counter) that is not listed is at its default, which each
reader of a map names. -/
abbrev SMap (α : Type) := List (Nat × α)

end Sys2Proof
end

