-- ==== Sys2Proof/Syntax.lean ====
section
/-! DEFINITION. The commands of the block: one constructor per row of spec/opcode_table.json, with the row's
operands. A command for an instruction of a core names the context that issues it and the fields of its word
(R142, R143); a command for a register access names the cluster that makes it (R365); a command for an event names
the unit it happens at and what arrives from outside the module. -/

namespace Sys2Proof

/-- A context of a core (R40): B bulk class, F frame class. -/
inductive Ctx where
  | B
  | F
  deriving DecidableEq, Repr

/-- The context that issues: the core's number, 0 to 767 (R11), and the context. -/
structure CtxAt where
  core : Nat
  ctx : Ctx
  deriving DecidableEq, Repr

/-- A half of the device (R15); also the control cluster of that half (R362). -/
inductive Half where
  | W
  | E
  deriving DecidableEq, Repr

/-- The size of a scalar load or store (R152): 1, 2, 4 or 8 bytes. -/
inductive MemSize where
  | b
  | h
  | w
  | d
  deriving DecidableEq, Repr

/-- Where a tile instruction runs: the weight stage and the feed stage of the array pipe (R83), the move pipe (R51). -/
inductive Stage where
  | weight
  | feed
  | move
  deriving DecidableEq, Repr

/-- The two engines of a spring (R260). -/
inductive Engine where
  | compute
  | move
  deriving DecidableEq, Repr

/-- A function that reports its readiness (R33): its kind, and its number within the kind. Stitches are
numbered 0 W, 1 E, 2 N, 3 S (R37). -/
inductive Fn where
  | field (n : Nat)
  | stitch (n : Nat)
  | stack (n : Nat)
  | spring (n : Nat)
  | lake (n : Nat)
  | link (n : Nat)
  | chk (n : Nat)
  | cluster (h : Half)
  | mgmt (h : Half)
  | time (h : Half)
  deriving DecidableEq, Repr

/-- A unit that is recalibrated (R358). -/
inductive RecalUnit where
  | stack (n : Nat)
  | lake (n : Nat)
  | link (n : Nat)
  deriving DecidableEq, Repr

/-- What waits on a counter (R216): a context in sc.wait, or a ring whose head is a WAIT descriptor. -/
inductive Waiter where
  | ctx (k : CtxAt)
  | ring (r : Nat)
  deriving DecidableEq, Repr

/-- A chain port (R330). -/
inductive ChainSide where
  | cin
  | cout
  deriving DecidableEq, Repr

/-- A flit slot of a codeword (R311, R313): 2 kind bits and 64 bytes, byte 0 in bits 7 to 0. -/
structure Flit where
  kind : BitVec 2
  bits : BitVec 512
  deriving DecidableEq, Repr

/-- What the code of a receiver says: of a codeword on a link (R310, R319), or of the beat that an entry of the fabric sends, at the next
router (R201): good, corrected, or uncorrectable. [DEDUCED: log entry 48] -/
inductive Fec where
  | clean
  | corrected
  | uncorrectable
  deriving DecidableEq, Repr

/-- A codeword on a link (R311, R314): its number modulo 2^16, and its ten flits. -/
structure Codeword where
  num : Nat
  flits : List Flit
  deriving DecidableEq, Repr

/-- What a half claims in a heartbeat (R371): the SEQ of a valid copy, or NONE; nothing yet while its copy is not checked.
[DEDUCED: log entry 68] -/
inductive Claim where
  | unchecked
  | none
  | seq (n : Nat)
  deriving DecidableEq, Repr

/-- A heartbeat (R371): the claim and the role of the half that sends it. -/
structure Heartbeat where
  claim : Claim
  senior : Bool
  deriving DecidableEq, Repr

/-- What the power controller samples every 10 µs (R409, R411, R418, R421): the 24 sensors of each field, the
temperature of each other die in the order of PWR_DIE, in °C; the measured field rails, the input and the 13 fixed
rails in the order of R421, in mV; the module power in W. -/
structure PowerSample where
  sensors : List (List Nat)
  dieTemp : List Nat
  vmeas : List Nat
  inputMv : Nat
  watts : Nat
  fixedMv : List Nat
  deriving DecidableEq, Repr

/-- The temperature of each field: that of its hottest sensor (R409). -/
def PowerSample.fieldTemp (p : PowerSample) : List Nat := p.sensors.map fun ts => ts.foldl max 0

/-- A data-plane entry as it is carried out: its place in its router's table, and what becomes of the beat that it sends on its way to the
next router or edge engine (R179, R201). -/
structure SlotEntry where
  place : Nat
  wire : Fec
  deriving DecidableEq, Repr

/-- What a measurement of a reference yields (R344, R345): the phase error in ns, and the reference's frequency as an offset from SYSCLK's,
in 2^-32 ns per grid cycle (log entry 115). -/
structure Measurement where
  err : Int
  freq : Int
  deriving DecidableEq, Repr

/-- The passage of a TIME message through this device (R334): its residence in 2^-16 ns, and the leader's frequency that it shows, as in
`Measurement`. -/
structure Passage where
  residence : Nat
  freq : Int
  deriving DecidableEq, Repr

/-- The rise of the input (R419, R422): its voltage in mV, and STRAP_RECOVER as it stands then. -/
structure PowerRise where
  inputMv : Nat
  strap : Bool
  deriving DecidableEq, Repr

/-- The check of a half's copy (R369, R371): whether a read of the flash fails. -/
structure CopyCheck where
  half : Half
  readFails : Bool
  deriving DecidableEq, Repr

/-- A file that arrives for the recovery service (R377): the name that was asked for, and its bytes. -/
structure RecoveryFile where
  name : List Byte
  image : List Byte
  deriving DecidableEq, Repr

/-- The commands, one constructor per row of spec/opcode_table.json. [DESIGN CHOICE: log entry 99]
[DESIGN CHOICE: log entry 99, DESIGN CHOICE: log entry 121] -/
inductive Instr where
  -- scalar and control instructions (R152)
  | nop (k : CtxAt)
  | add (k : CtxAt) (d a b : BitVec 5)
  | sub (k : CtxAt) (d a b : BitVec 5)
  | and (k : CtxAt) (d a b : BitVec 5)
  | or (k : CtxAt) (d a b : BitVec 5)
  | xor (k : CtxAt) (d a b : BitVec 5)
  | sll (k : CtxAt) (d a b : BitVec 5)
  | srl (k : CtxAt) (d a b : BitVec 5)
  | sra (k : CtxAt) (d a b : BitVec 5)
  | slt (k : CtxAt) (d a b : BitVec 5)
  | sltu (k : CtxAt) (d a b : BitVec 5)
  | min (k : CtxAt) (d a b : BitVec 5)
  | max (k : CtxAt) (d a b : BitVec 5)
  | minu (k : CtxAt) (d a b : BitVec 5)
  | maxu (k : CtxAt) (d a b : BitVec 5)
  | mul (k : CtxAt) (d a b : BitVec 5)
  | mulh (k : CtxAt) (d a b : BitVec 5)
  | mulhu (k : CtxAt) (d a b : BitVec 5)
  | addi (k : CtxAt) (d a : BitVec 5) (x : BitVec 28)
  | andi (k : CtxAt) (d a : BitVec 5) (x : BitVec 28)
  | ori (k : CtxAt) (d a : BitVec 5) (x : BitVec 28)
  | xori (k : CtxAt) (d a : BitVec 5) (x : BitVec 28)
  | slti (k : CtxAt) (d a : BitVec 5) (x : BitVec 28)
  | slli (k : CtxAt) (d a : BitVec 5) (x : BitVec 28)
  | srli (k : CtxAt) (d a : BitVec 5) (x : BitVec 28)
  | srai (k : CtxAt) (d a : BitVec 5) (x : BitVec 28)
  | li (k : CtxAt) (d : BitVec 5) (imm : BitVec 32)
  | lih (k : CtxAt) (d : BitVec 5) (imm : BitVec 32)
  | ld (k : CtxAt) (sz : MemSize) (d a : BitVec 5) (x : BitVec 28)
  | ldu (k : CtxAt) (sz : MemSize) (d a : BitVec 5) (x : BitVec 28)
  | st (k : CtxAt) (sz : MemSize) (a b : BitVec 5) (x : BitVec 28)
  | beq (k : CtxAt) (a b : BitVec 5) (x : BitVec 28)
  | bne (k : CtxAt) (a b : BitVec 5) (x : BitVec 28)
  | blt (k : CtxAt) (a b : BitVec 5) (x : BitVec 28)
  | bge (k : CtxAt) (a b : BitVec 5) (x : BitVec 28)
  | bltu (k : CtxAt) (a b : BitVec 5) (x : BitVec 28)
  | bgeu (k : CtxAt) (a b : BitVec 5) (x : BitVec 28)
  | bdnz (k : CtxAt) (d : BitVec 5) (x : BitVec 28)
  | jal (k : CtxAt) (d : BitVec 5) (x : BitVec 28)
  | jr (k : CtxAt) (d a : BitVec 5)
  | rdtime (k : CtxAt) (d : BitVec 5)
  | rdline (k : CtxAt) (d : BitVec 5)
  | rdid (k : CtxAt) (d : BitVec 5)
  | endCtx (k : CtxAt)
  | evWait (k : CtxAt) (d : BitVec 5)
  -- vector instructions (R154); w is the width field FN[1:0]
  | vld (k : CtxAt) (d a : BitVec 5) (x : BitVec 28)
  | vst (k : CtxAt) (a b : BitVec 5) (x : BitVec 28)
  | vbcast (k : CtxAt) (w : BitVec 2) (d a : BitVec 5)
  | vget (k : CtxAt) (d a : BitVec 5) (x : BitVec 28)
  | vadd (k : CtxAt) (w : BitVec 2) (d a b : BitVec 5)
  | vsub (k : CtxAt) (w : BitVec 2) (d a b : BitVec 5)
  | vmul (k : CtxAt) (w : BitVec 2) (d a b : BitVec 5)
  | vmin (k : CtxAt) (w : BitVec 2) (d a b : BitVec 5)
  | vmax (k : CtxAt) (w : BitVec 2) (d a b : BitVec 5)
  | vneg (k : CtxAt) (w : BitVec 2) (d a : BitVec 5)
  | vabs (k : CtxAt) (w : BitVec 2) (d a : BitVec 5)
  | vfma (k : CtxAt) (w : BitVec 2) (d a b c : BitVec 5)
  | vsum (k : CtxAt) (w : BitVec 2) (d a : BitVec 5)
  | vcmpGt (k : CtxAt) (w : BitVec 2) (d a b : BitVec 5)
  | vcmpGe (k : CtxAt) (w : BitVec 2) (d a b : BitVec 5)
  | vcmpEq (k : CtxAt) (w : BitVec 2) (d a b : BitVec 5)
  | vand (k : CtxAt) (d a b : BitVec 5)
  | vor (k : CtxAt) (d a b : BitVec 5)
  | vxor (k : CtxAt) (d a b : BitVec 5)
  | vsel (k : CtxAt) (d a b c : BitVec 5)
  | vexp (k : CtxAt) (w : BitVec 2) (d a : BitVec 5)
  | vlog2 (k : CtxAt) (w : BitVec 2) (d a : BitVec 5)
  | vrsqrt (k : CtxAt) (w : BitVec 2) (d a : BitVec 5)
  | vtanh (k : CtxAt) (w : BitVec 2) (d a : BitVec 5)
  | vcvt (k : CtxAt) (mode : BitVec 2) (d a b c : BitVec 5) (x : BitVec 28)
  | vtrd (k : CtxAt) (d a b : BitVec 5) (x : BitVec 28)
  | vtwr (k : CtxAt) (d a b : BitVec 5) (x : BitVec 28)
  -- tile instructions (R158)
  | tcfg (k : CtxAt) (pair : Bool) (d a : BitVec 5)
  | tfree (k : CtxAt) (x : BitVec 28)
  | tclr (k : CtxAt) (accs : BitVec 2)
  | tld (k : CtxAt) (d a b : BitVec 5) (x : BitVec 28)
  | tldTr (k : CtxAt) (d a b : BitVec 5) (x : BitVec 28)
  | tst (k : CtxAt) (a b c : BitVec 5)
  | tstTr (k : CtxAt) (a b c : BitVec 5)
  | tstAdd (k : CtxAt) (a b c : BitVec 5)
  | tdrain (k : CtxAt) (acc toTiles : Bool) (d b c : BitVec 5)
  | tdrainC (k : CtxAt) (acc toTiles : Bool) (d b c : BitVec 5)
  | tdrainF (k : CtxAt) (acc : Bool) (x : BitVec 28)
  | twl (k : CtxAt) (pair : Bool) (a : BitVec 5)
  | fcfg (k : CtxAt) (a : BitVec 5)
  | tmma (k : CtxAt) (form : BitVec 4) (acc : Bool) (mode : BitVec 2) (a b c : BitVec 5) (x : BitVec 28)
  | tmmat (k : CtxAt) (form : BitVec 4) (acc : Bool) (mode : BitVec 2) (a b c : BitVec 5) (x : BitVec 28)
  -- counters, rings and phase markers (R165)
  | scInc (k : CtxAt) (x : BitVec 28)
  | scIncR (k : CtxAt) (a : BitVec 5) (x : BitVec 28)
  | scWait (k : CtxAt) (ring : Bool) (d a b : BitVec 5) (x : BitVec 28)
  | scRd (k : CtxAt) (ring : Bool) (d : BitVec 5) (x : BitVec 28)
  | rgPost (k : CtxAt) (a : BitVec 5) (x : BitVec 28)
  | phBgn (k : CtxAt) (x : BitVec 28)
  | phEnd (k : CtxAt) (x : BitVec 28)
  -- what goes on inside a core
  | releaseTakesEffect (k : CtxAt)
  | contextEntersFaulted (k : CtxAt)
  | tileOpBegin (k : CtxAt) (stage : Stage)
  | rowGroupBegin (k : CtxAt) (stage : Stage)
  | rowGroupComplete (k : CtxAt) (stage : Stage)
  | tileInstructionComplete (k : CtxAt) (stage : Stage)
  | pondBroadcastBegin (pond : Nat) (c : Ctx)
  | lineEventDelivery (core : Nat) (ev : Nat)
  | interruptBoundaryReached (k : CtxAt) (stage : Stage)
  | saveComplete (core : Nat)
  | restoreComplete (core : Nat)
  | contextEnable (who : Half) (k : CtxAt)
  | contextHalt (who : Half) (k : CtxAt)
  | fReset (who : Half) (core : Nat)
  | bReset (who : Half) (core : Nat)
  | registerWrite (who : Half) (addr size : Nat) (v : Word)
  -- the fabric (R176 to R202); n is the entry's place in the router's table
  | voteAndEntry (router n : Nat) (parity : BitVec 3)
  | voteGoEntry (router n : Nat) (parity : Bool)
  | dataSlotEntry (router : Nat) (entry : SlotEntry)
  | gridStart (who : Half) (v : Word)
  | fStop (who : Half) (router : Nat)
  | bStop (who : Half) (router : Nat)
  | gridCtl (who : Half) (v : Word)
  -- counters and waits (R203 to R218)
  | incrementLands (places : List Nat)
  | waitTimeoutExpiry (w : Waiter)
  | syncClr (who : Half) (core : Nat) (v : Word)
  | syncInc (who : Half) (core : Nat) (v : Word)
  -- edge engines (R219 to R251)
  | edgeRingPost (who : Half) (ring : Nat) (v : Word)
  | descriptorNop (ring : Nat)
  | copy (ring : Nat)
  | sin (ring : Nat)
  | sout (ring : Nat)
  | gather (ring : Nat)
  | scatter (ring : Nat)
  | csld (ring : Nat)
  | csrd (ring : Nat)
  | ild (ring : Nat)
  | sld (ring : Nat)
  | sprg (ring : Nat)
  | chk (ring : Nat)
  | wait (ring : Nat)
  | descriptorComplete (ring : Nat)
  | requestAccepted (id : Nat)
  | readDataReturn (id : Nat) (interfaceError : Bool)
  | eccWriteBack (unit : Nat)
  | arbiterGrant (arb : Nat)
  | arbiterPreempt (arb : Nat)
  | clear (who : Half) (arb : Nat)
  | arbPrio (who : Half) (arb req : Nat) (v : Word)
  | edgeXsCfg (who : Half) (engine n : Nat) (v : Word)
  | init (who : Half) (ring : Nat)
  | enable (who : Half) (ring : Nat) (on : Bool)
  | resume (who : Half) (ring : Nat)
  | retry (who : Half) (ring : Nat)
  | skip (who : Half) (ring : Nat)
  | reset (who : Half) (ring : Nat)
  | resettingComplete (ring : Nat)
  -- springs (R260 to R288)
  | springCommandAccept (spring : Nat)
  | gacc (spring : Nat)
  | adam (spring : Nat)
  | mom (spring : Nat)
  | cast (spring : Nat)
  | lrinit (spring : Nat)
  | lrp (spring : Nat)
  | lrorth (spring : Nat)
  | lrq (spring : Nat)
  | lrres (spring : Nat)
  | gath (spring : Nat)
  | snap (spring : Nat)
  | springCommandComplete (spring : Nat) (eng : Engine)
  | springResume (who : Half) (spring : Nat)
  | dropC (who : Half) (spring : Nat)
  | dropM (who : Half) (spring : Nat)
  -- links (R310 to R329)
  | codewordTransmit (link : Nat)
  | codewordReceive (link : Nat) (cw : Codeword) (fec : Fec)
  | controlFlitReceive (link : Nat)
  | write (link : Nat)
  | read (link : Nat)
  | resp (link : Nat)
  | inc (link : Nat)
  | ack (link : Nat)
  | unreach (link : Nat)
  | blockLockTimeout (link : Nat)
  | linkRtoExpiry (tag : Nat)
  | linkTrainingComplete (link rtt pdev plink : Nat)
  | linkCtlEnable (who : Half) (link : Nat) (on : Bool)
  | retrain (who : Half) (link : Nat)
  -- the timing chain (R330 to R338); stamps are in units of 2^-16 ns
  | time (side : ChainSide) (msg : BitVec 256) (passage : Passage)
  | frame (side : ChainSide) (msg : BitVec 256) (residence : Nat)
  | alarm (side : ChainSide) (msg : BitVec 256)
  | probeSend (side : ChainSide) (stamp : Nat)
  | probe (side : ChainSide) (msg : BitVec 256) (residence : Nat)
  | echo (side : ChainSide) (msg : BitVec 256) (stamp : Nat)
  | chainLockLoss (side : ChainSide)
  | chainAlarmTx (who : Half) (v : Word)
  -- reference time and service (R339 to R361)
  | lineEvent (n : Nat)
  | referenceMeasurement (m : Measurement)
  | ppsEdge (h : Half) (m : Measurement)
  | ptpEventMessage (h : Half) (frame : List Byte)
  | timeSet (who : Half) (v : Word)
  | timeCfg (who : Half) (v : Word)
  | timeFmt (who : Half) (v : Word)
  | timeNow (who : Half)
  | timePlogBase (who : Half) (v : Word)
  | phaseLogEntryWrite (k : CtxAt)
  | recalibrationComplete (u : RecalUnit) (ok : Bool)
  | qwStarved (u : RecalUnit)
  | svcMarginMinClr (who : Half) (v : Word)
  -- reset, boot and control (R362 to R387, R419 to R423)
  | resetNRise (strapRecover : Bool)
  | powerUp (rise : PowerRise)
  | copyCheckComplete (check : CopyCheck)
  | heartbeatSend (h : Half)
  | heartbeatReceive (h : Half) (hb : Heartbeat)
  | silent (h : Half)
  | lost (h : Half)
  | handover (who : Half)
  | recoveryImageWrite (h : Half) (file : RecoveryFile)
  | mgmtFrameReceive (h : Half) (frame : List Byte) (dst : Nat)
  | mgmtBlockLockTimeout (h : Half)
  | clusterAccess (who : Half) (store : Bool) (addr size : Nat) (v : Word)
  | readyBitRise (f : Fn)
  | thawDeadlineExpiry (f : Fn)
  | clusterMachineCheck (h : Half) (sram : Bool)
  | fieldSelfTest (who : Half) (field : Nat)
  | stackRecalibration (who : Half) (stack : Nat)
  | lakeChannelRecalibration (who : Half) (channel : Nat)
  | linkRecalibration (who : Half) (link : Nat)
  | selfTestComplete (field : Nat) (ok : Bool)
  | ctrlPart (who : Half) (v : Word)
  | secFloor (who : Half) (v : Word)
  | revoke (who : Half) (v : Word)
  | extend (who : Half) (v : Word)
  | attestationStart (who : Half) (v : Word)
  | attestationComplete (h : Half)
  -- check units (R388 to R400)
  | chkDescriptorRun (chkUnit : Nat)
  | chkResult (chkUnit : Nat)
  -- faults, frost and power (R401 to R418)
  | fltQidx (who : Half) (v : Word)
  | fltCtlEnter (who : Half)
  | devreset (who : Half)
  | thermalSample (p : PowerSample)
  | railOffSetpointTimeout (field : Nat)
  | fixedRailTimeout (rail : Nat)
  | registerRead (who : Half) (addr size : Nat)
  | recalibrationDue (u : RecalUnit)
  | chainLockRegained (side : ChainSide)
  | boundaryScan (tms tdi : Bool)
  -- the rows without operands: frames and references, the chain, reset, frost and power
  | roundStart
  | chainTimeSend
  | bypassOpen
  | frameStart
  | referenceLoss
  | holdoverExpiry
  | sliceStart
  | deadlineLineBegin
  | quietWindowStart
  | resetNFall
  | inputPowerFail
  | sysclkFault
  | frostEntry
  | frostQuiet
  | railStep
  | spreadLiftStep
  | spreadTimeout
  | adjacentRailTimeout
  | inputRangeTimeout
  | sysclkGood
  deriving DecidableEq, Repr

end Sys2Proof
end

