-- ==== Sys2Proof/Decode.lean ====
section
/-! DEFINITION. The command that a word spells by the bits of spec/opcode_table.json. The table gives its rows no bits: each is a
command from outside (a register access, an event at a unit, an instruction that a context issues), so no word spells one. -/

namespace Sys2Proof

/-- The command of a word of the table: none, for the table gives no row any bits. [DEDUCED: log entry 37] -/
def decodeTableWord (nbits w : Nat) : Option Instr :=
  match nbits, w with
  | _, _ => none

end Sys2Proof
end

