-- ==== Sys2Proof/Machine/Bits.lean ====
section
/-! DEFINITION. Bit fields, bytes and sparse maps: the helpers that every other file of the machine uses. Bytes are
little-endian throughout (R111). -/

namespace Sys2Proof.Machine

open Sys2Proof

/-! ### Fields of numbers -/

/-- Bits [lo + n - 1 : lo] of a number. -/
def fld (v lo n : Nat) : Nat := v / 2 ^ lo % 2 ^ n

/-- Bits [lo + n - 1 : lo] of a register word. -/
def Word.fld (v : Word) (lo n : Nat) : Nat := Machine.fld v.toNat lo n

/-- Bit i of a register word. -/
def Word.bit (v : Word) (i : Nat) : Bool := v.getLsbD i

/-- A word with bits [lo + n - 1 : lo] replaced. -/
def Word.put (v : Word) (lo n x : Nat) : Word :=
  let m : Word := BitVec.ofNat 64 ((2 ^ n - 1) * 2 ^ lo)
  (v &&& ~~~m) ||| (BitVec.ofNat 64 (x % 2 ^ n * 2 ^ lo))

/-- A word with bit i set to b. -/
def Word.putBit (v : Word) (i : Nat) (b : Bool) : Word := Word.put v i 1 b.toNat

/-- A counter field that adds n and saturates at the largest value of its width. -/
def satAdd (w c n : Nat) : Nat := min (c + n) (2 ^ w - 1)

/-- A word with the counter in bits [lo + w - 1 : lo] raised by n and saturated. -/
def Word.count (v : Word) (lo w n : Nat) : Word := Word.put v lo w (satAdd w (Word.fld v lo w) n)

/-- A word with the field at lo raised to x if x is larger. -/
def Word.raise (v : Word) (lo w x : Nat) : Word := Word.put v lo w (max (Word.fld v lo w) (min x (2 ^ w - 1)))

/-- Round a number up to a multiple. -/
def ceilDiv (a b : Nat) : Nat := (a + b - 1) / b

/-! ### Bytes -/

/-- The n bytes of a number, least significant first. -/
def toBytes : Nat → Nat → List Byte
  | 0, _ => []
  | n + 1, v => BitVec.ofNat 8 v :: toBytes n (v / 256)

/-- The number that bytes spell, least significant first. -/
def ofBytes : List Byte → Nat
  | [] => 0
  | b :: bs => b.toNat + 256 * ofBytes bs

/-- n bytes of a list from a place, zeros beyond its end. -/
def bytesAt (bs : List Byte) (i n : Nat) : Nat := ofBytes ((bs.drop i).take n)

/-- A list of numbers, each w bits wide, packed from the least significant bit (R50). -/
def packNat (w : Nat) : List Nat → Nat
  | [] => 0
  | x :: xs => x % 2 ^ w + 2 ^ w * packNat w xs

/-- The n fields of w bits of a number, from its least significant bit (R50). -/
def unpackNat (w : Nat) : Nat → Nat → List Nat
  | 0, _ => []
  | n + 1, v => v % 2 ^ w :: unpackNat w n (v / 2 ^ w)

/-- A list cut into pieces of n items; `fuel` bounds the pieces. -/
def chunks {α : Type} (n : Nat) : Nat → List α → List (List α)
  | 0, _ => []
  | k + 1, xs => xs.take n :: chunks n k (xs.drop n)

/-- Sign extension of a number of w bits. -/
def sextInt (w v : Nat) : Int := if v % 2 ^ w < 2 ^ (w - 1) then (v % 2 ^ w : Nat) else (v % 2 ^ w : Nat) - (2 ^ w : Nat)

/-- The ASCII bytes of a string. -/
def ascii (s : String) : List Byte := s.toList.map fun c => BitVec.ofNat 8 c.toNat

/-- The index of the first item that a test accepts. -/
def findIdx? {α : Type} (p : α → Bool) : List α → Nat → Option Nat
  | [], _ => none
  | x :: xs, i => if p x then some i else findIdx? p xs (i + 1)

/-- An item of a list replaced. -/
def setAt {α : Type} : List α → Nat → α → List α
  | [], _, _ => []
  | _ :: xs, 0, y => y :: xs
  | x :: xs, i + 1, y => x :: setAt xs i y

/-- Fold a step over the numbers from i upward, n times. -/
def forN {σ : Type} (f : Nat → σ → σ) : Nat → Nat → σ → σ
  | _, 0, s => s
  | i, n + 1, s => forN f (i + 1) n (f i s)

/-! ### Sparse maps -/

/-- The entry at a number. -/
def SMap.get? {α : Type} : SMap α → Nat → Option α
  | [], _ => none
  | (k, v) :: m, i => if k = i then some v else SMap.get? m i

/-- The entry at a number, or the default. -/
def SMap.getD {α : Type} (m : SMap α) (i : Nat) (d : α) : α := (SMap.get? m i).getD d

/-- A map without any entry at a number. -/
def SMap.erase {α : Type} : SMap α → Nat → SMap α
  | [], _ => []
  | (k, v) :: m, i => if k = i then SMap.erase m i else (k, v) :: SMap.erase m i

/-- A map with an entry set, numbers kept rising. -/
def SMap.insert {α : Type} : SMap α → Nat → α → SMap α
  | [], i, x => [(i, x)]
  | (k, v) :: m, i, x =>
    if i < k then (i, x) :: (k, v) :: m
    else if i = k then (i, x) :: m
    else (k, v) :: SMap.insert m i x

/-- A map with an entry set; an entry at the default is not listed. -/
def SMap.set {α : Type} [DecidableEq α] (m : SMap α) (i : Nat) (x d : α) : SMap α :=
  if x = d then SMap.erase m i else SMap.insert m i x

/-- Numbers strictly rising, all above a bound when one is given. -/
def SMap.rising {α : Type} : Option Nat → SMap α → Bool
  | _, [] => true
  | b, (k, _) :: m => (match b with | none => true | some n => decide (n < k)) && SMap.rising (some k) m

/-- The canonical form of a map: numbers strictly rising, no entry at the default. -/
def SMap.wf {α : Type} [DecidableEq α] (d : α) (m : SMap α) : Bool :=
  SMap.rising none m && m.all fun p => p.2 ≠ d

end Sys2Proof.Machine
end

