-- ==== Sys2Proof/Config.lean ====
section
/-! DEFINITION. What a part fixes and the free values: constants with no body, so that nothing can be proved of them. -/

namespace Sys2Proof.Config

/-- A free value of w bits. The machine applies it to State.free, a count of the free values drawn, so each is fresh. It
stands where the spec leaves a value undefined: registers s1 to s31 and v0 to v31 of a context that was never enabled
or was reset (R42, R77). Log entry 1. [DESIGN CHOICE: log entry 1] -/
opaque freeBits (w : Nat) : Nat → BitVec w

/-- The digest that key slot n of the OTP holds from manufacture (R380). Log entry 2. [DESIGN CHOICE: log entry 2] -/
opaque otpKey : Nat → BitVec 512

/-- The 57-byte identity secret of the OTP (R380). Log entry 2. -/
opaque otpSecret : BitVec 456

/-- Word w of the identity certificate of the OTP (R380, R383). Log entry 2. -/
opaque otpCert : Nat → BitVec 64

/-- How many of the sixteen sequence-floor entries are written at manufacture (R380, R381). Log entry 2. -/
opaque otpFloorsUsed : Fin 17

/-- The floor in entry n of the OTP at manufacture (R380, R381). Log entry 2. -/
opaque otpFloor : Nat → BitVec 64

/-- The voltage in mV that the table fused per part gives for a field at a temperature in °C (R410). Log entry 3.
[DESIGN CHOICE: log entry 3] -/
opaque railTable : Nat → Nat → Nat

/-- Parity symbol n of the RS(544,514) code of IEEE 802.3dj over a payload (R310, R311). Log entry 111.
[PRESUMED: log entry 111] -/
opaque rsParity : Nat → Nat → BitVec 10

/-- The bytes of RESP packets beyond 1,024 that the bridge of a half (0 west, 1 east) can hold for the links (R323). Log entry 112.
[DESIGN CHOICE: log entry 112] -/
opaque respStaging : Nat → Nat

/-- How many TIME periods beyond the first pass without a TIME message before a direction of the chain has failed (R334). Log entry 104.
[DESIGN CHOICE: log entry 104] -/
opaque chainSilence : Nat

/-- The time in ns after RESET_N rises at which a chain port (0 CHAIN_IN, 1 CHAIN_OUT) is ready (R335). [DESIGN CHOICE: log entry 104] -/
opaque chainReady : Nat → Nat

/-- The delay of the time path that the time unit of a half measures in thaw, in 2^-16 ns (R20). Log entry 105.
[DESIGN CHOICE: log entry 105] -/
opaque pathDelay : Nat → Nat

/-- A byte of the boot ROM of a half (R362). Log entry 108. [DESIGN CHOICE: log entry 108] -/
opaque romByte : Nat → Nat → BitVec 8

/-- The MAC address of the management port of a half (R377). [PRESUMED: log entry 109] -/
opaque macAddr : Nat → BitVec 48

/-- The IPv4 link-local address that the ROM of a half takes (R377). [PRESUMED: log entry 109] -/
opaque linkLocal : Nat → BitVec 32

/-- Whether an instruction register's contents are an instruction that drives lands, as EXTEST does (R433): the spec gives no codes.
[PRESUMED: log entry 39] -/
opaque drivesLands : List Bool → Bool

end Sys2Proof.Config
end

