-- ==== Sys2Proof/Machine/State.lean ====
section
/-! DEFINITION. The machine's state as plain data: every register, queue, buffer, counter, mode and pin the spec gives
the K768 (INVENTORY.md, '## State', lists each with its rule), the reasons a step can stop, and the state after reset.
A unit that a sparse map does not list is at the default its reader names; each default is its reset value. -/

namespace Sys2Proof.Machine

open Sys2Proof

/-- Why a step stops with a fault. Each is a behaviour the spec calls undefined and gives no effect for.
[DEDUCED: log entry 93] -/
inductive Fault where
  /-- Raised by a register write that sets a bit of a field marked "Reserved: reads 0, write 0" (R10: "The effect
  of writing 1 is undefined"). Safe: the hardware does something, the model stops. -/
  | reservedBitWritten (addr : Nat)
  /-- Raised by a tcfg whose register sets a bit of a TCFG entry that R48 marks "Reserved: reads 0, write 0" (R10, as above).
  Safe. -/
  | reservedEntryBit (tile : Nat)
  deriving DecidableEq, Repr

/-- Why a step is refused: it has no meaning in the model. -/
inductive Refusal where
  /-- Raised by an arm of exec whose command has no meaning yet. Safe. -/
  | notModelled (mnemonic : String)
  deriving DecidableEq, Repr

/-- The error state of a stored unit (R45, R170, R247): `corr` a single bad bit or symbol, which a read corrects;
`bad n` the next n readings are uncorrectable. The environment sets it; no command of the table does. -/
inductive Mark where
  | corr
  | bad (n : Nat)
  deriving DecidableEq, Repr

/-- Stored state whose uncorrectable error nothing contains (R406, last row): the indices of a ring, the slot table of a router, the route
table of a half, an arbiter, the buffers of a half's bridge, a time unit. [DESIGN CHOICE: log entry 101] -/
inductive Stored where
  | ringIndex (r : Nat)
  | slotTable (router : Nat)
  | routes (h : Half)
  | arbiter (a : Nat)
  | bridge (h : Half)
  | timeUnit (h : Half)
  deriving DecidableEq, Repr

/-! ### The core (R39 to R78) -/

/-- CORE_STATUS states of a context (R78). -/
inductive CtxState where
  | disabled
  | running
  | frozen
  | evwait
  | faulted
  deriving DecidableEq, Repr

/-- A sc.wait in progress (R167): the counter waited on, its target, the timeout in ns and the elapsed nanoseconds at
issue (R214), the destination register, the instruction's index, and whether a NaN trap of an earlier instruction will
fault the context once the wait ends (R139). -/
structure ScWait where
  ring : Bool
  num : Nat
  target : BitVec 32
  timeout : Nat
  since : Nat
  dst : BitVec 5
  pc : Nat
  trapped : Bool
  deriving DecidableEq, Repr

/-- Why a RUNNING context issues nothing now: nothing holds it; a sc.wait (R167); an end whose earlier instructions are
not done (R153); a fault or trap on its way to FAULTED with the pc it will show (R66, R139). -/
inductive Hold where
  | none
  | scWait (w : ScWait)
  | ending
  | faulting (pc : Nat)
  deriving DecidableEq, Repr

/-- The feeder configuration of a context (R100): mode, target format, the 16-entry table, 48 scales, 48 zero points. -/
structure FeederCfg where
  affine : Bool
  target : Nat
  table : List (BitVec 16)
  scale : List (BitVec 32)
  zero : List (BitVec 8)
  deriving DecidableEq, Repr

/-- Latched weights (R57, R81, R84): the order of issue of the twl that latched them, the source tile, single or pair form, the TCFG
entries and the feeder configuration captured at issue, and the rows and scale planes read, of Tw and, in the pair form, of
Tw + 1. -/
structure WLatch where
  seq : Nat
  src : Nat
  pair : Bool
  cfg0 : BitVec 32
  cfg1 : BitVec 32
  fc : FeederCfg
  rows0 : List (BitVec 768)
  sc0 : List (BitVec 48)
  rows1 : List (BitVec 768)
  sc1 : List (BitVec 48)
  deriving DecidableEq, Repr

/-- Where a drain delivers (R161): a tile pair, the core store, a hand-off partition. -/
inductive DrainDst where
  | tiles (d : Nat)
  | store (base stride : Nat)
  | handoff (p : Nat)
  deriving DecidableEq, Repr

/-- What a store does with each element (R159): plain, transposed, or added. -/
inductive StoreKind where
  | plain
  | tr
  | add
  deriving DecidableEq, Repr

/-- A product (R162): the form code, transposed or forward, the accumulator bit, the operand source mode, the operand
tile, the base and stride of a streamed operand, the participant mask and source member of a broadcast, .cj, half. -/
structure Product where
  form : Nat
  transposed : Bool
  acc : Bool
  mode : Nat
  tile : Nat
  base : Nat
  stride : Nat
  mask : Nat
  member : Nat
  cj : Bool
  half : Nat
  deriving DecidableEq, Repr

/-- What a queued tile instruction does (R51, R158), with the operands captured at issue (R42). -/
inductive TileOpc where
  | tld (d base stride memFmt : Nat) (tr : Bool)
  | tst (a base stride : Nat) (kind : StoreKind)
  | drain (acc : Bool) (clear : Bool) (dst : DrainDst)
  | twl (a : Nat) (pair : Bool)
  | prod (p : Product)
  | vtrd (d tile row : Nat)
  | vtwr (tile row : Nat) (data : BitVec 1536)
  deriving DecidableEq, Repr

/-- A tile instruction queued or on a pipe (R51, R58): its order of issue, its index, what it does, the opcode field of its
word (for a trap record), its number of rows, the TCFG entries of its tile and of the tile after it, the feeder
configuration, all captured at issue (R62, R84); the tiles whose weights a product depends on (R57); the weights a product
uses once begun; whether it has begun on its pipe, the first row not done, whether a row group is under way, whether the
participants of a broadcast have agreed (R102), whether it has trapped on a NaN (R138), the accumulators that it takes as
holding +0 (R55: bit 0 ACCA, bit 1 ACCB), for a tdrain.c whether an accumulating instruction issued after it governs the
ACCINUSE bit (R55), and whether it was stopped with its row in TSTART (R61). -/
structure TileOp where
  seq : Nat
  pc : Nat
  opc : TileOpc
  op : Nat
  rows : Nat
  cfg0 : BitVec 32
  cfg1 : BitVec 32
  fc : FeederCfg
  wsrc : List Nat
  weights : Option WLatch
  started : Bool
  row : Nat
  inGroup : Bool
  agreed : Bool
  nan : Bool
  clears : BitVec 2
  superseded : Bool
  stopped : Bool
  deriving DecidableEq, Repr

/-- What a held release does (R148): sc.inc, sc.inc.r, rg.post, ph.end. -/
inductive ReleaseOp where
  | scInc (n : Nat) (amount : BitVec 32)
  | scIncR (dev core n : Nat) (amount : BitVec 32)
  | rgPost (ring count : Nat)
  | phEnd (id : Nat)
  deriving DecidableEq, Repr

/-- A held release (R148) with its order of issue and its index. -/
structure Release where
  seq : Nat
  pc : Nat
  op : ReleaseOp
  deriving DecidableEq, Repr

/-- An open phase (R169): its id, the reference time at its issue, and the count of timebase steps then (R307). -/
structure OpenPhase where
  id : Nat
  start : Word
  steps : Nat
  deriving DecidableEq, Repr

/-- A phase-log entry waiting to be written (R307, R308), but for SEQ. -/
structure PlogEntry where
  start : Word
  fin : Word
  frame : BitVec 32
  line : BitVec 16
  phase : Nat
  unmatched : Bool
  lost : Bool
  stepped : Bool
  deriving DecidableEq, Repr

/-- One context of a core (R40). `sregs` lists s1 to s31 and `vregs` v0 to v31, an unlisted register reading 0.
`latch` is the active weight set when its weights are valid, `shadow` the weights of a twl that has loaded and not
completed: the pending latch of R84. `fresh` holds until the context is first enabled (R42). -/
structure Context where
  state : CtxState
  pc : Nat
  hold : Hold
  sregs : SMap Word
  vregs : SMap (BitVec 1536)
  tcfg : SMap (BitVec 32)
  tinuse : BitVec 16
  accinuse : BitVec 2
  tstart : BitVec 18
  queue : List TileOp
  fc : FeederCfg
  latch : Option WLatch
  shadow : Option WLatch
  seq : Nat
  releases : List Release
  phase : Option OpenPhase
  plog : List PlogEntry
  plogLost : Bool
  fresh : Bool
  deriving DecidableEq, Repr

/-- The operand reuse latch of the activation feeders (R97): whose it is, and the tile and TCFG entry fed last. Its rows
are those of the tile, since any write of the tile invalidates it. -/
structure ReuseLatch where
  ctx : Ctx
  tile : Nat
  cfg : BitVec 32
  deriving DecidableEq, Repr

/-- A row of a streamed operand in the queue of the activation feeders (R96): the context and the order of issue of its product, its
number, and the bits of its tile row (of the second tile of a pair in `data1`) with its scale bytes. -/
structure FeedRow where
  ctx : Ctx
  seq : Nat
  row : Nat
  data : BitVec 768
  scales : BitVec 48
  data1 : BitVec 768
  deriving DecidableEq, Repr

/-- Where the core stands between its contexts (R70, R73): nothing under way; B's pipes on their way to a boundary;
the save; the restore. -/
inductive Switch where
  | idle
  | stopping
  | saving
  | restoring
  deriving DecidableEq, Repr

/-- One core (R39, R40): its two contexts, who issues, the switch under way, whether a save image of B stands with the tiles and
accumulators in it (a tile with whether its scale plane is there, R71), whether
the weights of B are to be latched again when it resumes (R73), the event F will report (R68), the pending events (R69),
the grid cycle of the event that started a switch-in, the stages of B that have stopped (R59), the tiles (tile × 64 +
row), scale planes, accumulator rows (acc × 64 + row, element j in bits 34j + 33 to 34j), the reuse latch, the rows that the activation feeders hold queued (R96), and the units whose parity is bad
(R406: 0 to 15 tiles, 16 and 17 accumulators, 18 latches, 19 feeder configuration, 32 to 47 scale planes). -/
structure Core where
  f : Context
  b : Context
  active : Ctx
  switch : Switch
  saved : Bool
  imageTiles : List (Nat × Bool)
  imageAccs : List Nat
  relatch : Bool
  fEvent : Option Nat
  fDst : BitVec 5
  events : List Nat
  eventCycle : Option Nat
  stopped : List Stage
  tiles : SMap (BitVec 768)
  scales : SMap (BitVec 48)
  accs : SMap (BitVec 1632)
  reuse : Option ReuseLatch
  feed : List FeedRow
  badParity : List Nat
  deriving DecidableEq, Repr

/-! ### Counters (R203 to R218) -/

/-- A core counter (R203, R211). -/
structure Counter where
  value : BitVec 32
  poisoned : Bool
  deriving DecidableEq, Repr

/-- Who sent an increment, as SYNC_ERRREC1 names it (R216, R218). -/
structure IncSource where
  dev : Nat
  kind : Nat
  ctx : Ctx
  num : Nat
  addr : Nat
  deriving DecidableEq, Repr

/-- An increment on its way to a core counter of this device (R208, R209). -/
structure IncMsg where
  core : Nat
  n : Nat
  amount : BitVec 32
  src : IncSource
  deriving DecidableEq, Repr

/-! ### The fabric (R176 to R202) -/

/-- The state of a part of a router's table (R198). -/
inductive PartState where
  | empty
  | loaded
  | active
  | stopping
  deriving DecidableEq, Repr

/-- One part of a router's table (R193, R198): its state, the round in which it was last stopped, its entries (R197) and its
stream descriptors (R183), by stream number. -/
structure Part where
  state : PartState
  stopRound : Nat
  entries : List (BitVec 64)
  descs : SMap (BitVec 256)
  deriving DecidableEq, Repr

/-- A stream at a router (R184, R187, R201): the three counts, the go latched this round, whether the instance of the
go before it is sent in this round, the vote result a decider holds, the rounds deferred, the halt cause (0 none) and
whether the halt of a reset is due at the end of the round, the round in which it halted, the beats of the present instance
that have left a source (their numbers; for a source X the cycles they left at), the beats that have come to a target, and
whether that instance met an uncorrectable beat. [DEDUCED: log entry 15] -/
structure Endpoint where
  committed : BitVec 32
  sent : BitVec 32
  arrived : BitVec 32
  go : Bool
  sending : Bool
  decided : Option Bool
  defer : Nat
  halt : Nat
  haltDue : Bool
  haltRound : Nat
  beatsSent : List Nat
  beatsIn : Nat
  uncorr : Bool
  deriving DecidableEq, Repr

/-- A router (R176, R185): its two parts, its streams, the size of each hand-off partition in rows, and the rows each
partition holds, oldest first. -/
structure Router where
  f : Part
  b : Part
  streams : SMap Endpoint
  hoffRows : List Nat
  hoff : SMap (List (BitVec 1536))
  deriving DecidableEq, Repr

/-- A beat (R177): valid, tag, data, numeric flags, and whether it carries an uncorrectable error or one corrected at
the next router input. -/
structure Beat where
  valid : Bool
  tag : BitVec 16
  data : BitVec 3072
  flags : BitVec 4
  uncorr : Bool
  corr : Bool
  deriving DecidableEq, Repr

/-- A beat on its way to a router's input port (R181), by the grid cycle that launched it, and whether an entry has taken
it. -/
structure BeatMsg where
  router : Nat
  port : Nat
  launched : Nat
  beat : Beat
  taken : Bool
  deriving DecidableEq, Repr

/-- A bit of the vote plane on its way (R177, R187): a vote, or a go. -/
structure VoteMsg where
  router : Nat
  port : Nat
  launched : Nat
  go : Bool
  bit : Bool
  deriving DecidableEq, Repr

/-- A readiness sampled for the AND entries of a cycle (R187): the router, the stream, whether it is that of the edge engine, which
left it two cycles before (R180, R199), the grid cycle it is for, and the bit. -/
structure ReadySample where
  router : Nat
  stream : Nat
  edge : Bool
  due : Nat
  bit : Bool
  deriving DecidableEq, Repr

/-- A core-store read for an entry of source L, begun three cycles before it (R180): the router, the stream, the beat, the grid cycle
of the entry, the bytes as read, and whether they could be corrected. -/
structure BeatRead where
  router : Nat
  stream : Nat
  beat : Nat
  due : Nat
  bytes : List Byte
  good : Bool
  deriving DecidableEq, Repr

/-- A beat on its way into a core store, or over the edge link into staging (R180): the router and stream of its entry, whether it goes
to the edge engine, the entry's beat number, the grid cycle in which it is written. -/
structure BeatWrite where
  router : Nat
  stream : Nat
  edge : Bool
  place : Nat
  due : Nat
  beat : Beat
  deriving DecidableEq, Repr

/-- A go on its way to an edge engine (R180, R199): the router and stream of its entry, and the grid cycle of its arrival. -/
structure EdgeGo where
  router : Nat
  stream : Nat
  due : Nat
  deriving DecidableEq, Repr

/-- The fabric as a whole (R178, R198, R202): whether the round counter runs, the round, the cycle in it, the cycles
since it started, the round length in force, GRID_START.PENDING, the entries already carried out in this cycle (router,
place), what is on the wires; the readiness sampled (R187), the reads begun and the writes and edge gos under way (R180); the increments
that change their counters in the next cycle (R189, R208); the counters cleared (core × 64 + n) and the increments landed in this
cycle (R213). -/
structure Grid where
  running : Bool
  round : Nat
  cycle : Nat
  now : Nat
  len : Nat
  startPending : Bool
  fired : List (Nat × Nat)
  beats : List BeatMsg
  votes : List VoteMsg
  samples : List ReadySample
  reads : List BeatRead
  writes : List BeatWrite
  edgeGos : List EdgeGo
  due : List IncMsg
  cleared : List Nat
  landed : List IncMsg
  deriving DecidableEq, Repr

/-! ### Edge engines, ports and arbiters (R219 to R259) -/

/-- The state of a ring (R225). -/
inductive RingState where
  | disabled
  | running
  | trapped
  | error
  | resetting
  deriving DecidableEq, Repr

/-- How far a descriptor in flight has come: reading, writing, waiting for its unit (a spring or a check unit), its
data effects performed, failed with a cause (R231), skipped (R250). -/
inductive JobStage where
  | reading
  | writing
  | unit
  | done
  | failed (cause : Nat)
  | skipped
  deriving DecidableEq, Repr

/-- A descriptor in flight (R219, R226, R232): its ring index, its 64 bytes (byte 0 in bits 7 to 0), how far it has
come, its requests still out, the bytes gathered so far by place, the numbers of its completion record, whether a NaN
trap is due, whether the list of a GATHER or SCATTER has been read, whether a byte of a CHK descriptor stayed uncorrectable (R398), and
the instances it has moved (of a CHK descriptor: 1 where
GATE withholds its increment, R396). -/
structure Job where
  idx : BitVec 32
  desc : BitVec 512
  stage : JobStage
  out : Nat
  buf : List Host.Cell
  restarts : Nat
  retries : Nat
  nan : Bool
  listed : Bool
  spoiled : Bool
  moved : Nat
  deriving DecidableEq, Repr

/-- A descriptor held at the head of its ring (R232): its HOLD code, and for a WAIT what it waits for with its 64 bytes. -/
structure Head where
  code : Nat
  wait : Option (ScWait × BitVec 512)
  deriving DecidableEq, Repr

/-- A ring (R222 to R225, R257). `copy` is the engine's copy of a descriptor that failed at the head, before it started (R231,
R250). -/
structure Ring where
  state : RingState
  enable : Bool
  pi : BitVec 32
  si : BitVec 32
  counter : BitVec 32
  poisoned : Bool
  failIdx : BitVec 32
  cause : Nat
  head : Option Head
  copy : Option (BitVec 512)
  jobs : List Job
  deriving DecidableEq, Repr

/-- An edge stream (R199, R221): FILLED or DRAINED; the three counts of the engine's endpoint, the go it has latched this round, whether the
instance of the go before is sent in this round, the cycles in which it has sent beats in this round, the beats that have come of the
present instance, and whether one of them was uncorrectable. -/
structure EdgeStream where
  count : BitVec 32
  committed : BitVec 32
  sent : BitVec 32
  arrived : BitVec 32
  go : Bool
  sending : Bool
  beatsSent : List Nat
  beatsIn : Nat
  uncorr : Bool
  deriving DecidableEq, Repr

/-- A staging slot (R219): one beat's data, and whether it holds an uncorrectable error. -/
structure Slot where
  data : BitVec 3072
  uncorr : Bool
  deriving DecidableEq, Repr

/-- A memory request (R242): its number, its port's arbiter (R252), its requester, its class, its address and length,
the data of a write, the descriptor it serves (ring and ring index) with the place in its buffer, whether it holds a slot and its turn among
the accepted ones (R243), how many of its readings were uncorrectable, its interface replays in succession (R407), the elapsed time at its
issue, whether a B request was served before it while it waited in its slot, or it has met a port without a slot for it (R349: both of F
requests). -/
structure Req where
  id : Nat
  arb : Nat
  requester : Nat
  frame : Bool
  isWrite : Bool
  addr : Nat
  len : Nat
  data : List Byte
  ring : Nat
  idx : BitVec 32
  place : Nat
  accepted : Bool
  order : Nat
  tries : Nat
  replays : Nat
  since : Nat
  passed : Bool
  starved : Bool
  deriving DecidableEq, Repr

/-- An arbiter (R253): the holder of the grant with the PRIO it was granted at, the beats moved under the grant, the
requester last granted at each PRIO, the transfer's requests, and the grid cycle since which each requester that waits
has been requesting (R256). -/
structure Arbiter where
  holder : Option Nat
  prio : Nat
  moved : Nat
  last : SMap Nat
  xfer : List Req
  since : SMap Nat
  deriving DecidableEq, Repr

/-- A remote request that waits for its ACK or RESP (R323, R327): its TAG, whether it is a WRITE, its ring and ring
index (or the spring and command number), the place in the job that its data belongs to, the bytes still due, and the
elapsed time at which it was sent, and whether it failed (a spring's, until its command sees it). -/
structure TagRec where
  tag : Nat
  isWrite : Bool
  spring : Bool
  ring : Nat
  idx : BitVec 32
  addr : Nat
  due : Nat
  since : Nat
  failed : Bool
  deriving DecidableEq, Repr

/-- A remote request that waits in its edge engine for one of its 512 (R219): its ring and ring index, whether it is a WRITE, the device,
address and length, the place in the job that its data belongs to, the data of a WRITE. -/
structure FarReq where
  ring : Nat
  idx : BitVec 32
  isWrite : Bool
  dev : Nat
  addr : Nat
  len : Nat
  place : Nat
  data : List Byte
  deriving DecidableEq, Repr

/-! ### Springs (R260 to R288) -/

/-- A command at a spring (R264, R266): the ring and ring index it came from, its class, its number, its descriptor, the
first chunk not written, whether a NaN was written, and whether it has finished. -/
structure SpringCmd where
  ring : Nat
  idx : BitVec 32
  frame : Bool
  no : Nat
  desc : BitVec 512
  chunk : Nat
  nan : Bool
  finished : Bool
  deriving DecidableEq, Repr

/-- A spring (R260, R266, R284 to R286): commands on the command path, commands accepted and not completed, the command
number each engine runs, the failed command of each engine with its cause, TRAPPED, out of service. -/
structure Spring where
  arriving : List SpringCmd
  queue : List SpringCmd
  compute : Option Nat
  move : Option Nat
  failC : Option (SpringCmd × Nat)
  failM : Option (SpringCmd × Nat)
  trapped : Bool
  out : Bool
  deriving DecidableEq, Repr

/-! ### Links and the chain (R310 to R338) -/

/-- The state of a link (R337). -/
inductive LinkState where
  | disabled
  | training
  | up
  | down
  | partnerFrost
  deriving DecidableEq, Repr

/-- What a link or a switch carries whole: a packet with its body flits (R315), or a synchronisation flit (R316), or a control flit
(R314), which no switch sees. -/
inductive LinkUnit where
  | packet (head : BitVec 512) (body : List (BitVec 512))
  | sync (flit : BitVec 512)
  | control (flit : BitVec 512)
  deriving DecidableEq, Repr

/-- A link (R312 to R323): its enable, its state and the cause of its last exit, its partner, the number of its next
codeword, the replay buffer, the codeword to replay from, the codeword replayed last and its replays in succession (R320), the number it
expects next, the codeword a NAK names, the queue of units with their requesters (R252), the packets sent under the present grant, the flits of
the packet on the wire, the credits it holds by VC and the flits
freed and not yet returned, and what it has received: control flits; the packet being taken in, with the number of the
codeword of its head, and the one that was being taken in when that codeword began; what came in codewords that its PCRC may
still call back (R319); whole units; and the F flits that entered the egress lately, with their flit times (R325). `cut`: the slot sent
last carried a VC2 flit (R324); `wire`: the slots of the codeword sent last; `init`: the partner's device and link number from its INIT
flit, while the link trains (R314); `retrained`: the link has trained again since its partner signalled FROST (R329). -/
structure Link where
  enable : Bool
  state : LinkState
  cause : Nat
  pdev : Nat
  plink : Nat
  txNum : Nat
  replay : List Codeword
  replayAt : Option Nat
  lastNak : Option Nat
  replays : Nat
  rxNum : Nat
  nak : Option Nat
  queue : List (Nat × LinkUnit)
  xfer : List (Nat × LinkUnit)
  sending : List (BitVec 512)
  credits : SMap Nat
  freed : SMap Nat
  control : List (BitVec 512)
  taking : Option (BitVec 512 × List (BitVec 512) × Nat)
  takeAt : Option (BitVec 512 × List (BitVec 512) × Nat)
  unchecked : List (Nat × LinkUnit)
  received : List LinkUnit
  fwin : List (Nat × Nat)
  lfrost : Bool
  cut : Bool
  wire : List Flit
  init : Option (Nat × Nat)
  retrained : Bool
  deriving DecidableEq, Repr

/-- A chain port (R330, R333): lock, VALID and the delay of its segment in 2^-16 ns, the last measurements (newest first), the
departure stamp of the PROBE in flight, and the elapsed ns at which the next is due. -/
structure ChainPort where
  lock : Bool
  valid : Bool
  delay : Nat
  meas : List Nat
  probe : Option Nat
  probeDue : Nat
  deriving DecidableEq, Repr

/-- The timing chain (R332 to R336, R338): its two ports, whether this leader has given way, the HOPS of the TIME
messages in each direction (none while not usable), the direction followed, the origin followed, holdover, the message
counts by type, the bypasses, the messages sent and not yet taken from the ports (newest last), and the elapsed ns at which
a leader's next TIME is due. -/
structure Chain where
  cin : ChainPort
  cout : ChainPort
  gaveWay : Bool
  cwHops : Option Nat
  ccwHops : Option Nat
  cwSeen : Nat
  ccwSeen : Nat
  usingCcw : Bool
  leader : Nat
  ring : Nat
  holdover : Bool
  seqs : SMap Nat
  bypassOpen : Bool
  tx : List (ChainSide × BitVec 256)
  timeDue : Nat
  deriving DecidableEq, Repr

/-! ### Reference time and service (R339 to R361) -/

/-- The state of a time unit (R344). -/
inductive TimeState where
  | free
  | acquiring
  | locked
  | holdover
  deriving DecidableEq, Repr

/-- The time of the unit that is not active (R339, R340): its count with its fraction, the part below 2^-32 ns in 47ths, its frame count and
line number, the time at which its frame began, what it still slews out, and the error that a step will remove with the instant of the
reference's frame start at which it does, in 2^-32 ns. -/
structure Clock where
  ns : Word
  frac : BitVec 32
  residue : Nat
  frame : BitVec 48
  line : BitVec 16
  frameAt : Nat
  slew : Int
  stepPending : Option (Int × Nat)
  deriving DecidableEq, Repr

/-- Reference time (R339 to R347): the count, frame, line and corrections of the active unit, and those of the other in `other`. `active` is
the active unit (R340). `residue` is the part
of the ratio of grid cycle to nanosecond below 2^-32 ns, in 47ths; `elapsed` the nanoseconds the timebase has advanced
since reset but for its steps (R214); `fmt` and `lev` the format and line events in force (R347); `frameAt` the time at
which the frame in progress began, in 2^-32 ns; `setPending` the step of TIME_SET and `stepPending` that of a phase error, with the instant of the reference's frame
start at which it is taken (R345), in 2^-32 ns; `rate` the last estimate of how far the reference's frequency is from SYSCLK's, in 2^-32 ns
per grid cycle (R344), `lastRef` the elapsed ns at which the reference was last seen, `linePhase` how far the line syncs of this frame come
after their places in it (R343, REF_SYNC), in 2^-32 ns; `pathDelay` the time path's delay that each unit has measured (R20); `slew` what is still to be slewed out, in 2^-32 ns; `delivered` the line events already out in this frame; `out`
those on their way, with the cores reached; `good` the successive measurements within LOCK_NS; `steps` the steps since
reset, for STEPPED; `chainFrame` the instant and count of a FRAME message (R341); `holdSince` when HOLDOVER began. -/
structure Time where
  ns : Word
  frac : BitVec 32
  residue : Nat
  frame : BitVec 48
  line : BitVec 16
  state : TimeState
  active : Half
  elapsed : Nat
  good : Nat
  fmt : Word
  lev : List Word
  frameAt : Nat
  setPending : Option Word
  stepPending : Option (Int × Nat)
  slew : Int
  other : Clock
  rate : Int
  lastRef : Nat
  linePhase : Int
  pathDelay : List (Option Nat)
  delivered : List Nat
  out : List (Nat × List Nat)
  plogNext : BitVec 32
  steps : Nat
  ptp : List (Half × Word × List Byte)
  chainFrame : Option (Nat × Nat)
  holdSince : Nat
  deriving DecidableEq, Repr

/-- A recalibration (R358): its unit, the elapsed ns at which it fell due or was asked for, whether it runs, whether it was requested
through CTRL_REQ (R379), and whether it has fallen due by itself. -/
structure Recal where
  unit : RecalUnit
  since : Nat
  running : Bool
  requested : Bool
  due : Bool
  deriving DecidableEq, Repr

/-- The service controls (R354 to R361): the values of SVC_SHARE_CFG, SVC_DEADLINE and SVC_QW in force, the share, the
run of frames, the slice and whether it is held, the ph.end count of this frame, its margin once known, whether the
frame before missed, the recalibrations due or running, the field self-tests pending or running (R379): field, running, and
the F requests of the last 10 µs (R350): elapsed ns, stack, pseudo-channel; whether this frame's quiet window has begun; when
each unit was last calibrated, in elapsed ns, and a stack's temperature then (R358), by number (stacks 0 to 15, lake channels from
16, links from 80). -/
structure Svc where
  shareCfg : Word
  deadline : Word
  qw : Word
  share : Nat
  run : Nat
  slice : Nat
  held : Bool
  count : Nat
  margin : Option Nat
  missed : Bool
  recals : List Recal
  tests : List (Nat × Bool)
  fReqs : List (Nat × Nat × Nat)
  qwDone : Bool
  calLast : SMap Nat
  calTemp : SMap Nat
  deriving DecidableEq, Repr

/-! ### Control, boot and trust (R362 to R387) -/

/-- A control cluster (R362, R407): in service, its private space, the last word an access returned to it and whether
that access took an access-fault exception, the frames its management port has received, and those it has sent (R366, R377).
[DESIGN CHOICE: log entry 35] -/
structure Cluster where
  inService : Bool
  priv : List Host.Cell
  rdata : Word
  accessFault : Bool
  frames : Nat
  sent : List (List Byte)
  deriving DecidableEq, Repr

/-- What one half knows in thaw (R371 to R375): its flash and whether it is fitted, whether its copy is checked and with
which reason (0 valid), the elapsed ns at which it was checked, the SEQ of its header, its claim, the heartbeat last heard from the
peer, whether the one before claimed SENIOR, the elapsed ns at which it was heard, whether this half is senior, its successive
heartbeats that claimed SENIOR, the elapsed ns at which its next is due, and the messages it has sent that the peer has not
taken. -/
structure Boot where
  flash : List Host.Cell
  fitted : Bool
  checked : Bool
  reason : Nat
  checkedAt : Nat
  seqRead : Nat
  claim : Claim
  peer : Option Heartbeat
  peerBefore : Bool
  peerAt : Nat
  senior : Bool
  sentSenior : Nat
  hbDue : Nat
  tx : List Heartbeat
  deriving DecidableEq, Repr

/-- The device's configuration once accepted (R370, R373) and the election (R372): the SEQ and the key slot of the copy in use,
whether a HANDOVER is pending and the halves that have taken a heartbeat since, the last equinox cause, the elapsed ns of the
acceptance and of the rise of each ready bit, and the functions out of service until the next thaw (R407). -/
structure DevConfig where
  accepted : Bool
  elected : Bool
  senior : Half
  useB : Bool
  noConf : Bool
  mismatch : Bool
  devid : Nat
  interleave : Nat
  mgmtFec : Nat
  autorun : Nat
  handover : Bool
  eqxCause : Nat
  acceptNs : Nat
  seq : Nat
  slot : Nat
  rises : List (Fn × Nat)
  hoSeen : List Half
  outs : List Fn
  deriving DecidableEq, Repr

/-- A security engine and its OTP (R380 to R384): the digests of the key slots, the identity secret, the certificate's words, the
revoke bits and the floors. `extData` and `nonce` are SEC_EXT_DATA and SEC_NONCE, `attAddr` SEC_ATT.ADDR. -/
structure Sec where
  keys : List (BitVec 512)
  secret : BitVec 456
  cert : List Word
  revoked : BitVec 4
  floors : List Word
  idPub : BitVec 456
  mrs : List (BitVec 512)
  extData : List Word
  nonce : List Word
  attAddr : Nat
  attNonce : Option (List Word)
  attDone : Bool
  mrLock : Bool
  wign : Bool
  deriving DecidableEq, Repr

/-! ### Check units, faults, power, scan (R388 to R433) -/

/-- A session of a check unit (R388, R389, R394, R398): its register, BROKEN, the number of the parameter set it took at its last START,
the values (poly, init, xorout, pctl) that its latest descriptor captured when it began, the register before that descriptor, and that
descriptor with its ring. -/
structure Session where
  crc : Word
  broken : Bool
  pset : Nat
  params : List Word
  before : Word
  latest : Option (Nat × BitVec 512)
  deriving DecidableEq, Repr

/-- A CHK descriptor at its unit (R395, R398): ring, ring index, descriptor, its bytes, whether they have run, and whether some of them were
uncorrectable. -/
structure ChkJob where
  ring : Nat
  idx : BitVec 32
  desc : BitVec 512
  bytes : List Byte
  ran : Bool
  bad : Bool
  deriving DecidableEq, Repr

/-- A check unit (R388). -/
structure ChkUnit where
  queue : List ChkJob
  sessions : SMap Session
  deriving DecidableEq, Repr

/-- A fault record about to be raised (R402), but for SEQ, LOST, TIME and PROGRAM_ID. -/
structure Rec where
  cls : Nat
  cause : Nat
  action : Nat
  kind : Nat
  num : Nat
  ctx : Nat
  dev : Nat
  iaddr : Nat
  addr : Nat
  d0 : Word
  d1 : Word
  d2 : Word
  deriving DecidableEq, Repr

/-- The fault queue and frost (R401, R412, R413, R417): the number of the next record, HEAD, TAIL, the records by index
modulo 512, whether LOST is due; the frost signal sent with its first cause (class, cause, SEQ), frost reached, quiet; the records of a
command that may raise several, with whether each brings frost, until they enter in the order of their classes (R401: none but while
such a command is carried out). -/
structure Faults where
  seq : BitVec 32
  head : BitVec 32
  tail : BitVec 32
  recs : SMap (BitVec 512)
  lostDue : Bool
  signal : Option (Nat × Nat × BitVec 32)
  inFrost : Bool
  quiet : Bool
  batch : Option (List (Rec × Bool))
  deriving DecidableEq, Repr

/-- Power, clock and reset (R409 to R426): the pins, the sample taken last and the highest since read, the set-points
and the lift of a SPREAD in mV, the dies above their warning level (fields 0 to 3, then PWR_DIE from 4), SYSCLK good, and the
elapsed ns since which the fields have differed by more than 25 °C, measured adjacent rails by more than 60 mV, a rail (by
field) from its set-point by more than 25 mV, the input has been outside 40 to 60 V and a fixed rail (by its number) outside its
band; a rail above 0.86 V is needed (R410); the elapsed ns of the last rail step and of the last lift step. -/
structure Power where
  resetN : Bool
  pwrGood : Bool
  frostN : Bool
  coolReq : Bool
  sysclkGood : Bool
  strap : Bool
  sample : PowerSample
  vset : List Nat
  lift : List Nat
  spread : Bool
  warned : List Nat
  spreadSince : Option Nat
  adjSince : Option Nat
  offSince : SMap Nat
  inputSince : Option Nat
  fixedSince : SMap Nat
  ceiling : Bool
  railAt : Option Nat
  liftAt : Option Nat
  deriving DecidableEq, Repr

/-- The states of an IEEE 1149.1 TAP controller (R433). -/
inductive Tap where
  | reset
  | idle
  | selDr
  | capDr
  | shDr
  | ex1Dr
  | paDr
  | ex2Dr
  | upDr
  | selIr
  | capIr
  | shIr
  | ex1Ir
  | paIr
  | ex2Ir
  | upIr
  deriving DecidableEq, Repr

/-- The three chained TAPs (R433), which share TCK, TMS and TRST_N: the controller's state, the shift bits and the
instruction of each from TDI to TDO, their bypass bits, and TDO. -/
structure Scan where
  tap : Tap
  shift : List (List Bool)
  ir : List (List Bool)
  tdo : Option Bool
  deriving DecidableEq, Repr

/-- The part (R1, R3, R385): ordering code (0 QK768-H16-L2T-C, 1 QK768-H16-L1T-C), stepping, serial number.
[PRESUMED: log entry 4] -/
structure PartId where
  l1t : Bool
  stepping : BitVec 16
  serial : BitVec 32
  deriving DecidableEq, Repr

/-- The state of the K768.

`pending` is the queue of waiting commands, first in first out; `free` counts the free values drawn (the model's own).
`regs` holds, by local address, every register whose content is no other field's, an unlisted register being at its
reset value. `mem` is HBM, the lake and the core stores by local address (R24); `imem` the instruction memories, core ×
8192 + index; `marks` and `imarks` the error state of their words; `glitches` how many interface errors in succession the next command
to a 64-byte unit meets (R247, R407: the environment sets it); `broken` the stored state with an uncorrectable error (R406: the
environment sets it); `writeBacks` the units to be written back (R247); `far` the remote requests that wait in their engines (R219).
`cores`, `counters` (core × 64 + n), `routers`, `rings`, `streams` (engine × 32 + n), `staging` (engine × 2048 + slot),
`arbs`, `springs`, `links`, `chks` list units by number. -/
structure State where
  pending : List Instr
  free : Nat
  part : PartId
  power : Power
  boots : List Boot
  config : DevConfig
  clusters : List Cluster
  secs : List Sec
  regs : SMap Word
  mem : List Host.Cell
  marks : SMap Mark
  imem : SMap Word
  imarks : SMap Mark
  glitches : SMap Nat
  broken : List Stored
  writeBacks : List Nat
  cores : SMap Core
  counters : SMap Counter
  incs : List IncMsg
  grid : Grid
  routers : SMap Router
  rings : SMap Ring
  streams : SMap EdgeStream
  staging : SMap Slot
  reqs : List Req
  nextReq : Nat
  far : List FarReq
  arbs : SMap Arbiter
  springs : SMap Spring
  links : SMap Link
  tags : List TagRec
  nextTag : Nat
  chain : Chain
  time : Time
  svc : Svc
  chks : SMap ChkUnit
  faults : Faults
  programId : Word
  scan : Scan
  deriving DecidableEq, Repr

/-! ### Reset values -/

/-- The reset configuration of the feeders (R100). -/
def FeederCfg.reset : FeederCfg :=
  ⟨true, 3, List.replicate 16 0, List.replicate 48 0x3F800000, List.replicate 48 0⟩

/-- A context after reset (R78): DISABLED, nothing in use. -/
def Context.reset : Context :=
  { state := .disabled, pc := 0, hold := .none, sregs := [], vregs := [], tcfg := [], tinuse := 0, accinuse := 0,
    tstart := 0, queue := [], fc := .reset, latch := none, shadow := none, seq := 0, releases := [], phase := none,
    plog := [], plogLost := false, fresh := true }

/-- A core after reset. -/
def Core.reset : Core :=
  { f := .reset, b := .reset, active := .B, switch := .idle, saved := false, imageTiles := [], imageAccs := [],
    relatch := false, fEvent := none, fDst := 0, events := [], eventCycle := none, stopped := [], tiles := [], scales := [], accs := [], reuse := none,
    feed := [], badParity := [] }

/-- A counter after reset (R203): 0, not poisoned. -/
def Counter.reset : Counter := ⟨0, false⟩

/-- An empty part of a slot table (R198). -/
def Part.reset : Part := ⟨.empty, 0, [], []⟩

/-- A stream at a router when its part becomes ACTIVE (R198). -/
def Endpoint.reset : Endpoint :=
  { committed := 0, sent := 0, arrived := 0, go := false, sending := false, decided := none, defer := 0, halt := 0,
    haltDue := false, haltRound := 0, beatsSent := [], beatsIn := 0, uncorr := false }

/-- A router after reset. -/
def Router.reset : Router := ⟨.reset, .reset, [], List.replicate 16 0, []⟩

/-- The fabric after reset (R178, R202): not running, round 0, 1,024 cycles. -/
def Grid.reset : Grid := ⟨false, 0, 0, 0, 1024, false, [], [], [], [], [], [], [], [], [], []⟩

/-- A ring after reset (R225): DISABLED, its counter 0. -/
def Ring.reset : Ring :=
  { state := .disabled, enable := false, pi := 0, si := 0, counter := 0, poisoned := false, failIdx := 0, cause := 0,
    head := none, copy := none, jobs := [] }

/-- An edge stream after reset (R221). -/
def EdgeStream.reset : EdgeStream := ⟨0, 0, 0, 0, false, false, [], 0, false⟩

/-- A staging slot never written. -/
def Slot.reset : Slot := ⟨0, false⟩

/-- An arbiter after reset: no grant. -/
def Arbiter.reset : Arbiter := ⟨none, 0, 0, [], [], []⟩

/-- A spring after reset. -/
def Spring.reset : Spring := ⟨[], [], none, none, none, none, false, false⟩

/-- A link after reset (R337): DISABLED. -/
def Link.reset : Link :=
  { enable := false, state := .disabled, cause := 0, pdev := 0, plink := 0, txNum := 0, replay := [], replayAt := none,
    lastNak := none, replays := 0, rxNum := 0, nak := none, queue := [], xfer := [], sending := [], credits := [], freed := [], control := [],
    taking := none, takeAt := none, unchecked := [], received := [], fwin := [], lfrost := false,
    cut := false, wire := [], init := none, retrained := false }

/-- A chain port after reset. -/
def ChainPort.reset : ChainPort := ⟨false, false, 0, [], none, 0⟩

/-- The timing chain after reset: bypasses closed (R335). -/
def Chain.reset : Chain :=
  { cin := .reset, cout := .reset, gaveWay := false, cwHops := none, ccwHops := none, cwSeen := 0,
    ccwSeen := 0, usingCcw := false, leader := 0,
    ring := 0, holdover := false, seqs := [], bypassOpen := false, tx := [], timeDue := 0 }

/-- A time unit after reset (R339): 0. -/
def Clock.reset : Clock := ⟨0, 0, 0, 0, 0, 0, 0, none⟩

/-- Reference time after reset (R344, R360): FREE from 0. [DEDUCED: log entry 75] -/
def Time.reset : Time :=
  { ns := 0, frac := 0, residue := 0, frame := 0, line := 0, state := .free, active := .W, elapsed := 0, good := 0,
    fmt := 0x4650209, lev := List.replicate 16 0, frameAt := 0, setPending := none, stepPending := none, slew := 0,
    other := Clock.reset, rate := 0, lastRef := 0, linePhase := 0, pathDelay := [none, none],
    delivered := [], out := [], plogNext := 0, steps := 0, ptp := [], chainFrame := none, holdSince := 0 }

/-- The service controls after reset (R361): the share 64, nothing held. -/
def Svc.reset : Svc :=
  { shareCfg := 0x4040, deadline := 0, qw := 0, share := 64, run := 0, slice := 0, held := false, count := 0,
    margin := none, missed := false, recals := [], tests := [], fReqs := [], qwDone := false, calLast := [],
    calTemp := [] }

/-- A control cluster after reset. -/
def Cluster.reset : Cluster := ⟨true, [], 0, false, 0, []⟩

/-- A half of the boot logic after reset. [DESIGN CHOICE: log entry 5] -/
def Boot.reset : Boot :=
  { flash := [], fitted := true, checked := false, reason := 0, checkedAt := 0, seqRead := 0, claim := .unchecked, peer := none,
    peerBefore := false, peerAt := 0, senior := false, sentSenior := 0, hbDue := 0, tx := [] }

/-- No configuration accepted. -/
def DevConfig.reset : DevConfig :=
  { accepted := false, elected := false, senior := .W, useB := false, noConf := false, mismatch := false, devid := 0,
    interleave := 0, mgmtFec := 0, autorun := 0, handover := false, eqxCause := 0, acceptNs := 0, seq := 0, slot := 0,
    rises := [], hoSeen := [], outs := [] }

/-- A security engine after reset (R382, R387), its OTP as at manufacture. -/
def Sec.reset : Sec :=
  { keys := (List.range 4).map Config.otpKey, secret := Config.otpSecret, cert := (List.range 128).map Config.otpCert,
    revoked := 0, floors := (List.range Config.otpFloorsUsed.val).map Config.otpFloor, idPub := 0, mrs := List.replicate 8 0, extData := List.replicate 8 0,
    nonce := List.replicate 4 0, attAddr := 0, attNonce := none, attDone := false, mrLock := false, wign := false }

/-- A session that no descriptor has begun (R394). -/
def Session.reset : Session := ⟨0, false, 0, [], 0, none⟩

/-- A check unit after reset. -/
def ChkUnit.reset : ChkUnit := ⟨[], []⟩

/-- The fault queue after reset (R401): lost. -/
def Faults.reset : Faults := ⟨0, 0, 0, [], false, none, false, false, none⟩

/-- No sample taken. -/
def PowerSample.zero : PowerSample := ⟨List.replicate 4 (List.replicate 24 0), List.replicate 34 0, List.replicate 4 0, 0, 0, List.replicate 13 0⟩

/-- Powered and held in reset (R426, second column). [DESIGN CHOICE: log entry 38] -/
def Power.reset : Power :=
  { resetN := false, pwrGood := true, frostN := true, coolReq := false, sysclkGood := true, strap := false,
    sample := PowerSample.zero, vset := List.replicate 4 0, lift := List.replicate 4 0, spread := false, warned := [],
    spreadSince := none, adjSince := none, offSince := [], inputSince := none,
    fixedSince := [], ceiling := false, railAt := none, liftAt := none }

/-- The three TAPs in Test-Logic-Reset, BYPASS loaded. -/
def Scan.reset : Scan := ⟨.reset, [[], [], []], List.replicate 3 (List.replicate 4 true), none⟩

/-- The machine in reset, powered, RESET_N low (R416, R422, R426): what the rising edge of RESET_N finds. Every register is at
the reset value of its table; what the spec gives no value for is in log entries 2, 4 and 5. [DESIGN CHOICE: log entry 6] -/
def State.reset : State :=
  { pending := [], free := 0, part := ⟨false, 0x4132, 1⟩, power := .reset, boots := [.reset, .reset], config := .reset,
    clusters := [.reset, .reset], secs := [.reset, .reset], regs := [], mem := [], marks := [], imem := [], imarks := [],
    glitches := [], broken := [], writeBacks := [], cores := [], counters := [], incs := [], grid := .reset, routers := [], rings := [], streams := [],
    staging := [], reqs := [], nextReq := 0, far := [], arbs := [], springs := [], links := [], tags := [], nextTag := 0x10000,
    chain := .reset, time := .reset, svc := .reset, chks := [], faults := .reset, programId := 0, scan := .reset }

end Sys2Proof.Machine
end

