-- ==== Sys2Proof/Machine/Geometry.lean ====
section
/-! DEFINITION. Where each unit lies and how a local address decodes (R11 to R32, R241). -/

namespace Sys2Proof.Machine

open Sys2Proof

/-! ### The compute die -/

def coreX (c : Nat) : Nat := c % 32
def coreY (c : Nat) : Nat := c / 32

/-- The field of a core (R11): 0 NW, 1 NE, 2 SW, 3 SE. -/
def coreField (c : Nat) : Nat := (if coreY c < 12 then 0 else 2) + (if coreX c < 16 then 0 else 1)

/-- The pond of a core (R13). -/
def corePond (c : Nat) : Nat := coreY c / 2 * 16 + coreX c / 2

/-- A core's number within its pond (R101). -/
def pondMember (c : Nat) : Nat := coreY c % 2 * 2 + coreX c % 2

/-- The core that is member m of pond p. -/
def pondCore (p m : Nat) : Nat := (p / 16 * 2 + m / 2) * 32 + (p % 16 * 2 + m % 2)

/-- The number of a half: 0 west, 1 east. -/
def halfNum : Half → Nat
  | .W => 0
  | .E => 1

def otherHalf : Half → Half
  | .W => .E
  | .E => .W

/-- The half that a stack lies in (R15). -/
def stackHalf (s : Nat) : Half := if s % 8 < 4 then .W else .E

/-- The engine that owns a ring (R14). -/
def ringEngine (r : Nat) : Nat := r / 128

/-- The core beside an edge engine (R14). -/
def engineCore (e : Nat) : Nat := if e < 32 then e else 23 * 32 + (e - 32)

/-- The number of a context in a record: 0 B, 1 F. -/
def ctxNum : Ctx → Nat
  | .B => 0
  | .F => 1

/-- The value of CORE_ID (R78). -/
def coreIdWord (c : Nat) : Word :=
  BitVec.ofNat 64 (coreField c * 2 ^ 28 + corePond c * 2 ^ 20 + coreY c * 2 ^ 15 + coreX c * 2 ^ 10 + c)

/-! ### The local address map (R24) -/

/-- The bytes of HBM that are populated, by the interleave in force (R24, R27). -/
def hbmEnd (il : Nat) : Nat := if il = 1 then 0x12A05F00000 else 0x12A05F20000

/-- The first address of the core stores. -/
def storeBase : Nat := 0x40000000000

/-- The bytes of a core store (R39). -/
def storeSize : Nat := 0x180000

/-- The local address of an offset of a core store (R26). -/
def storeAddr (c off : Nat) : Nat := storeBase + c * 0x200000 + off

/-- The first address of the lake region. -/
def lakeBase : Nat := 0x20000000000

/-- The ends of the lake's three parts (R28): program part, partition W, partition E. -/
def lakeEnd (l1t : Bool) : Nat := if l1t then 0x2DF84758000 else 0x3CDEF9D8000
def partWEnd (l1t : Bool) : Nat := if l1t then 0x2E6F7CEC000 else 0x3D562F6C000
def partEEnd (l1t : Bool) : Nat := if l1t then 0x2EE6B280000 else 0x3DCD6500000

/-- What an address of the local map reaches. -/
inductive Region where
  | hbm
  | lake
  | partition (h : Half)
  | store (core off : Nat)
  | regs
  | hole
  deriving DecidableEq, Repr

/-- The number of register blocks (R30). -/
def blockCount : Nat := 19

/-- The region of a local address (R24, R26, R28, R30). -/
def regionOf (l1t : Bool) (il a : Nat) : Region :=
  if a < 0x20000000000 then (if a < hbmEnd il then .hbm else .hole)
  else if a < 0x40000000000 then
    (if a < lakeEnd l1t then .lake
     else if a < partWEnd l1t then .partition .W
     else if a < partEEnd l1t then .partition .E
     else .hole)
  else if a < 0x40060000000 then
    (if (a - storeBase) % 0x200000 < storeSize then .store ((a - storeBase) / 0x200000) ((a - storeBase) % 0x200000)
     else .hole)
  else if 0x7F000000000 ≤ a ∧ a < 0x7F000000000 + blockCount * 0x1000000 then .regs
  else .hole

/-- The stack of an HBM address and the offset in it (R27, R241). -/
def hbmPlace (il a : Nat) : Nat × Nat :=
  if il = 0 then (a / 2 ^ 12 % 16, a / 2 ^ 16 * 2 ^ 12 + a % 2 ^ 12)
  else if il = 1 then (a / 2 ^ 16 % 16, a / 2 ^ 20 * 2 ^ 16 + a % 2 ^ 16)
  else (a / 80000000000, a % 80000000000)

/-- The HBM address of an offset of a stack (R261). -/
def hbmAddr (il s o : Nat) : Nat :=
  if il = 0 then o / 2 ^ 12 * 2 ^ 16 + s * 2 ^ 12 + o % 2 ^ 12
  else if il = 1 then o / 2 ^ 16 * 2 ^ 20 + s * 2 ^ 16 + o % 2 ^ 16
  else s * 80000000000 + o

/-- The last offset of a stack (R261). -/
def lastOffset (il : Nat) : Nat := if il = 1 then 79999991807 else 79999999999

/-- The lake channel of a lake address (R28). A cluster partition's first 4 KiB lie in the first fitted channel of its die, which the spec
leaves open. [DESIGN CHOICE: log entry 116] -/
def lakeChannel (l1t : Bool) (a : Nat) : Nat :=
  let perDie := if l1t then 16 else 32
  let die (i : Nat) : Nat := if i < perDie then i else 32 + (i - perDie)
  if a < lakeEnd l1t then die ((a - lakeBase) / 2 ^ 12 % (2 * perDie))
  else if a < partWEnd l1t then (a - lakeEnd l1t) / 2 ^ 12 % perDie
  else 32 + (a - partWEnd l1t) / 2 ^ 12 % perDie

/-- A lake channel is fitted on the ordering code (R17). -/
def channelFitted (l1t : Bool) (n : Nat) : Bool := n < 64 && (!l1t || n % 32 < 16)

/-- The half of a lake channel, a link or a check unit (R17). -/
def channelHalf (n : Nat) : Half := if n < 32 then .W else .E
def linkHalf (n : Nat) : Half := if n < 18 then .W else .E
def chkHalf (n : Nat) : Half := if n < 8 then .W else .E

/-- The fields that two stitches of R12 join: 0 W (NW, SW), 1 E (NE, SE), 2 N (NW, NE), 3 S (SW, SE). -/
def stitchFields (n : Nat) : Nat × Nat :=
  match n with
  | 0 => (0, 2)
  | 1 => (1, 3)
  | 2 => (0, 1)
  | _ => (2, 3)

end Sys2Proof.Machine
end

