-- ==== Sys2Proof/Machine/Number.lean ====
section
/-! DEFINITION. Number formats, exact values, and rounding (R111 to R126, R437): every engine forms an exact value and rounds it
once. An exact value is a sign, a magnitude m × 2^e, or an infinity or a NaN. -/

namespace Sys2Proof.Machine

open Sys2Proof

/-- The numeric flags of R137: bit 0 INVALID, 1 OVERFLOW, 2 UNDERFLOW, 3 INEXACT. -/
abbrev NFlags := BitVec 4

def NFlags.none : NFlags := 0
def NFlags.invalid : NFlags := 1
def NFlags.overflow : NFlags := 2
def NFlags.underflow : NFlags := 4
def NFlags.inexact : NFlags := 8

/-- A flag when a condition holds. -/
def NFlags.when (c : Bool) (f : NFlags) : NFlags := if c then f else 0

/-- An exact value: a NaN (signalling or quiet, R113), an infinity with its sign, or (-1)^neg × m × 2^e. -/
inductive Val where
  | nan (sig : Bool)
  | inf (neg : Bool)
  | fin (neg : Bool) (m : Nat) (e : Int)
  deriving DecidableEq, Repr

def Val.zero (neg : Bool) : Val := .fin neg 0 0

/-- An integer as an exact value. -/
def Val.ofInt (i : Int) : Val := .fin (decide (i < 0)) i.natAbs 0

def Val.isNan : Val → Bool
  | .nan _ => true
  | _ => false

def Val.isZero : Val → Bool
  | .fin _ m _ => m == 0
  | _ => false

/-- The value is a signalling NaN. -/
def Val.isSig : Val → Bool
  | .nan s => s
  | _ => false

def Val.isNeg : Val → Bool
  | .nan _ => false
  | .inf n => n
  | .fin n _ _ => n

/-- Sign flipped (R113: NaN kept). -/
def Val.negate : Val → Val
  | .nan s => .nan s
  | .inf n => .inf (!n)
  | .fin n m e => .fin (!n) m e

/-- A value times 2^k. -/
def Val.scale (v : Val) (k : Int) : Val :=
  match v with
  | .fin n m e => .fin n m (e + k)
  | v => v

/-- m × 2^e in units of 2^q, for q at most e. -/
def alignTo (m : Nat) (e q : Int) : Nat := m * 2 ^ (e - q).toNat

/-- The exact product, and whether it is INVALID (R118: infinity times zero; a signalling operand). -/
def Val.mul (a b : Val) : Val × Bool :=
  match a, b with
  | .nan s, b => (.nan false, s || b.isSig)
  | _, .nan s => (.nan false, s)
  | .inf n, .inf k => (.inf (n != k), false)
  | .inf n, .fin k m _ => if m = 0 then (.nan false, true) else (.inf (n != k), false)
  | .fin k m _, .inf n => if m = 0 then (.nan false, true) else (.inf (n != k), false)
  | .fin n m e, .fin k m' e' => (.fin (n != k) (m * m') (e + e'), false)

/-- The exact sum, and whether it is INVALID (R118: opposite infinities; a signalling operand). The sum of two zeros
is -0 only when both are, and x + (-x) is +0. -/
def Val.add (a b : Val) : Val × Bool :=
  match a, b with
  | .nan s, b => (.nan false, s || b.isSig)
  | _, .nan s => (.nan false, s)
  | .inf n, .inf k => if n = k then (.inf n, false) else (.nan false, true)
  | .inf n, .fin _ _ _ => (.inf n, false)
  | .fin _ _ _, .inf n => (.inf n, false)
  | .fin n m e, .fin k m' e' =>
    if m = 0 && m' = 0 then (.fin (n && k) 0 0, false)
    else
      let q := min e e'
      let x : Int := (if n then -1 else 1) * (alignTo m e q : Nat)
      let y : Int := (if k then -1 else 1) * (alignTo m' e' q : Nat)
      if x + y = 0 then (.zero false, false) else (.fin (decide (x + y < 0)) (x + y).natAbs q, false)

/-- How two values compare, NaN apart: a < b. -/
def Val.lt (a b : Val) : Bool :=
  match a, b with
  | .nan _, _ => false
  | _, .nan _ => false
  | .inf n, .inf k => n && !k
  | .inf n, .fin _ _ _ => n
  | .fin _ _ _, .inf k => !k
  | .fin n m e, .fin k m' e' =>
    let q := min e e'
    let x : Int := (if n then -1 else 1) * (alignTo m e q : Nat)
    let y : Int := (if k then -1 else 1) * (alignTo m' e' q : Nat)
    decide (x < y)

/-- Equality of values: zeros of either sign are equal, a NaN equals nothing. -/
def Val.eq (a b : Val) : Bool := !a.isNan && !b.isNan && !(a.lt b) && !(b.lt a)

/-! ### Formats -/

/-- What a conversion out of range gives (R112). -/
inductive Special where
  /-- Infinities and NaNs as in IEEE 754 (FP32, BF16, FP16), signalling NaNs included. -/
  | ieee
  /-- F8G: infinity and NaN, every NaN quiet. -/
  | f8g
  /-- F8A: no infinity, NaN 0x7F and 0xFF, saturating. -/
  | f8a
  /-- F4A: neither infinity nor NaN, saturating. -/
  | f4a
  deriving DecidableEq, Repr

/-- A floating-point element format (R111, R112): exponent bits, fraction bits, bias, special values. -/
structure Fmt where
  eb : Nat
  fb : Nat
  bias : Nat
  special : Special
  deriving DecidableEq, Repr

def Fmt.fp32 : Fmt := ⟨8, 23, 127, .ieee⟩
def Fmt.bf16 : Fmt := ⟨8, 7, 127, .ieee⟩
def Fmt.fp16 : Fmt := ⟨5, 10, 15, .ieee⟩
def Fmt.f8a : Fmt := ⟨4, 3, 7, .f8a⟩
def Fmt.f8g : Fmt := ⟨5, 2, 15, .f8g⟩
def Fmt.f4a : Fmt := ⟨2, 1, 1, .f4a⟩

/-- The width of an element in bits. -/
def Fmt.width (f : Fmt) : Nat := 1 + f.eb + f.fb

/-- The canonical NaN (R113); 0 for F4A, which has none (R120). -/
def Fmt.nan (f : Fmt) : Nat :=
  match f.special with
  | .ieee => (2 ^ f.eb - 1) * 2 ^ f.fb + 2 ^ (f.fb - 1)
  | .f8g => 0x7E
  | .f8a => 0x7F
  | .f4a => 0

/-- The magnitude bits of the largest finite value (R112). -/
def Fmt.maxFin (f : Fmt) : Nat :=
  match f.special with
  | .ieee => (2 ^ f.eb - 1) * 2 ^ f.fb - 1
  | .f8g => 0x7B
  | .f8a => 0x7E
  | .f4a => 0x7

/-- The magnitude bits of infinity, for a format that has one. -/
def Fmt.infBits (f : Fmt) : Nat := (2 ^ f.eb - 1) * 2 ^ f.fb

def Fmt.hasInf (f : Fmt) : Bool := f.special = .ieee || f.special = .f8g

/-- The bits of a result: sign and magnitude. -/
def Fmt.signed (f : Fmt) (neg : Bool) (mag : Nat) : Nat := neg.toNat * 2 ^ (f.eb + f.fb) + mag

/-- The value of magnitude bits that are finite (R112). -/
def Fmt.finVal (f : Fmt) (neg : Bool) (mag : Nat) : Val :=
  let ex := mag / 2 ^ f.fb
  let fr := mag % 2 ^ f.fb
  if ex = 0 then .fin neg fr (1 - (f.bias : Int) - f.fb)
  else .fin neg (2 ^ f.fb + fr) ((ex : Int) - f.bias - f.fb)

/-- The value of an element (R112, R113). -/
def Fmt.decode (f : Fmt) (x : Nat) : Val :=
  let neg := x / 2 ^ (f.eb + f.fb) % 2 = 1
  let mag := x % 2 ^ (f.eb + f.fb)
  let top := mag / 2 ^ f.fb = 2 ^ f.eb - 1
  let fr := mag % 2 ^ f.fb
  match f.special with
  | .ieee => if top then (if fr = 0 then .inf neg else .nan (fr < 2 ^ (f.fb - 1))) else f.finVal neg mag
  | .f8g => if top then (if fr = 0 then .inf neg else .nan false) else f.finVal neg mag
  | .f8a => if mag = 0x7F then .nan false else f.finVal neg mag
  | .f4a => f.finVal neg mag

/-- The nearest multiple of 2^q to m × 2^e, ties to even, counted in units of 2^q, and whether it is exact. -/
def nearest (m : Nat) (e q : Int) : Nat × Bool :=
  if q ≤ e then (alignTo m e q, true)
  else
    let d := 2 ^ (q - e).toNat
    let n := m / d
    let r := m % d
    if 2 * r < d then (n, r = 0) else if 2 * r > d then (n + 1, false) else (n + n % 2, false)

/-- The exponent of the grid of step 4 of R120 at a magnitude m × 2^e: the step is 2^(grid). -/
def Fmt.grid (f : Fmt) (m : Nat) (e : Int) : Int := max ((m.log2 : Int) + e) (1 - (f.bias : Int)) - f.fb

/-- The magnitude bits of n × 2^q on the format's grid; above the largest finite value the bits run on without bound. -/
def Fmt.bitsOf (f : Fmt) (n : Nat) (q : Int) : Nat :=
  -- n < 2^(fb+1) + 1; a carry moves to the next exponent
  let (n, q) := if n = 2 ^ (f.fb + 1) then (2 ^ f.fb, q + 1) else (n, q)
  if n < 2 ^ f.fb then n else ((q + f.fb + f.bias).toNat) * 2 ^ f.fb + (n - 2 ^ f.fb)

/-- |v| is below the smallest normal value. -/
def Fmt.tiny (f : Fmt) (m : Nat) (e : Int) : Bool := decide ((m.log2 : Int) + e < 1 - (f.bias : Int))

/-- The result and flags of a magnitude out of range (R112, step 5 of R120). -/
def Fmt.outOfRange (f : Fmt) (neg : Bool) : Nat × NFlags :=
  (f.signed neg (if f.hasInf then f.infBits else f.maxFin), NFlags.overflow ||| NFlags.inexact)

/-- What R120 gives for a value that is NaN, zero or infinite. -/
def Fmt.special? (f : Fmt) (v : Val) : Option (Nat × NFlags) :=
  match v with
  | .nan sig =>
    some (f.nan, if f.special = .f4a then NFlags.invalid else NFlags.when sig NFlags.invalid)
  | .inf neg => some (if f.hasInf then (f.signed neg f.infBits, 0) else f.outOfRange neg)
  | .fin neg m _ => if m = 0 then some (f.signed neg 0, 0) else none

/-- round(v, fmt), the round-to-nearest-even conversion of R120: the element and the flags. -/
def Fmt.round (f : Fmt) (v : Val) : Nat × NFlags :=
  match f.special? v, v with
  | some r, _ => r
  | none, .fin neg m e =>
    let q := f.grid m e
    let (n, exact) := nearest m e q
    let mag := f.bitsOf n q
    if f.maxFin < mag then f.outOfRange neg
    else (f.signed neg mag,
      NFlags.when (!exact && f.tiny m e) NFlags.underflow ||| NFlags.when (!exact) NFlags.inexact)
  | none, _ => (f.nan, 0)

/-- The rounding generator (R123). -/
def roundingGen (seed index : Word) : Nat :=
  let x := seed ^^^ (index * 0x9E3779B97F4A7C15)
  let x := (x ^^^ (x >>> 30)) * 0xBF58476D1CE4E5B9
  let x := (x ^^^ (x >>> 27)) * 0x94D049BB133111EB
  let x := x ^^^ (x >>> 31)
  (x >>> 32).toNat

/-- A stochastic conversion (R124) with the number r drawn. -/
def Fmt.stochastic (f : Fmt) (r : Nat) (v : Val) : Nat × NFlags :=
  match f.special? v, v with
  | some x, _ => x
  | none, .fin neg m e =>
    let q := f.grid m e
    if (nearest m e q).2 then f.round v
    else
      let d := 2 ^ (q - e).toNat
      let lo := m / d
      let frac := (m % d) * 2 ^ 32 / d
      let n := if r < frac then lo + 1 else lo
      let mag := f.bitsOf n q
      if f.maxFin < mag then f.outOfRange neg
      else (f.signed neg mag, NFlags.when (f.tiny m e) NFlags.underflow ||| NFlags.inexact)
  | none, _ => (f.nan, 0)

/-- How an element is rounded: to nearest even, or stochastically with the number drawn. -/
inductive Rounding where
  | rne
  | sr (r : Nat)
  deriving DecidableEq, Repr

def Fmt.convert (f : Fmt) (w : Rounding) (v : Val) : Nat × NFlags :=
  match w with
  | .rne => f.round v
  | .sr r => f.stochastic r v

/-- A conversion to a signed integer of n bits (R114), as its two's complement pattern. -/
def toIntFmt (n : Nat) (v : Val) : Nat × NFlags :=
  let big (neg : Bool) : Nat × NFlags :=
    (if neg then 2 ^ (n - 1) else 2 ^ (n - 1) - 1, NFlags.overflow ||| NFlags.inexact)
  match v with
  | .nan _ => (0, NFlags.invalid)
  | .inf neg => big neg
  | .fin neg m e =>
    let (k, exact) := nearest m e 0
    if (!neg && 2 ^ (n - 1) - 1 < k) || (neg && 2 ^ (n - 1) < k) then big neg
    else ((if neg then (2 ^ n - k) % 2 ^ n else k), NFlags.when (!exact) NFlags.inexact)

/-! ### Tile format codes (R49) -/

/-- The floating-point format of an element code: 0 FP32, 1 BF16, 2 FP16, 3 and 8 F8A, 4 and 9 F8G, 5 and 10 F4A, and FP16
for the parts of CX16 (11). -/
def fmtOf (code : Nat) : Fmt :=
  match code with
  | 0 => .fp32
  | 1 => .bf16
  | 2 => .fp16
  | 3 => .f8a
  | 4 => .f8g
  | 5 => .f4a
  | 8 => .f8a
  | 9 => .f8g
  | 10 => .f4a
  | _ => .fp16

/-- The element width in bits (R49). -/
def fmtWidth (code : Nat) : Nat :=
  match code with
  | 0 => 32
  | 1 => 16
  | 2 => 16
  | 3 => 8
  | 4 => 8
  | 5 => 4
  | 6 => 8
  | 7 => 4
  | 8 => 8
  | 9 => 8
  | 10 => 4
  | _ => 32

/-- The largest COLS of a format (R49). -/
def fmtMaxCols (code : Nat) : Nat :=
  match code with
  | 0 => 24
  | 1 => 48
  | 2 => 48
  | 3 => 96
  | 4 => 96
  | 5 => 192
  | 6 => 96
  | 7 => 192
  | 8 => 96
  | 9 => 96
  | 10 => 192
  | _ => 24

/-- BF8A, BF8G and BF4A carry a scale plane. -/
def fmtBlock (code : Nat) : Bool := code = 8 || code = 9 || code = 10

def fmtIs4 (code : Nat) : Bool := code = 5 || code = 7 || code = 10

/-- A format code of a floating-point element that is neither integer nor CX16. -/
def fmtFloat (code : Nat) : Bool := code ≤ 5 || fmtBlock code

/-- The value of an element under its block scale (R115, R116): 2^(S - 127), or NaN under code 0xFF. -/
def scaled (v : Val) (s : Nat) : Val := if s = 0xFF then .nan false else v.scale ((s : Int) - 127)

/-! ### Blocks (R125, R126) -/

/-- The scale of a block format's largest element, emax of R125. -/
def blockEmax (code : Nat) : Int :=
  match code with
  | 8 => 8
  | 9 => 15
  | _ => 2

/-- The largest of two finite magnitudes. -/
def maxMag (a b : Nat × Int) : Nat × Int :=
  let q := min a.2 b.2
  if alignTo a.1 a.2 q < alignTo b.1 b.2 q then b else a

/-- amax of R125. -/
def amax (vs : List Val) : Nat × Int :=
  vs.foldl (fun a v => match v with
    | .fin _ m e => maxMag a (m, e)
    | _ => a) (0, 0)

/-- The scale code S of a block (R125), and whether it was clamped at 254. -/
def blockScale (code : Nat) (vs : List Val) : Nat × Bool :=
  if vs.any Val.isNan then (0xFF, false)
  else
    let (m, e) := amax vs
    if m = 0 then (127, false)
    else
      let f := fmtOf code
      let s0 : Int := (m.log2 : Int) + e - blockEmax code + 127
      let e' := e + 127 - s0
      let q := f.grid m e'
      let s := if f.maxFin < f.bitsOf (nearest m e' q).1 q then s0 + 1 else s0
      if s < 0 then (0, false) else if 254 < s then (254, true) else (s.toNat, false)

/-- An element of a block (R126) under scale S, with the clamp of S known. -/
def blockElem (code : Nat) (w : Rounding) (s : Nat) (clamped : Bool) (v : Val) : Nat × NFlags :=
  let f := fmtOf code
  match v with
  | .nan _ => (0, 0)
  | .inf neg => if f.hasInf then (f.signed neg f.infBits, 0) else f.outOfRange neg
  | .fin neg m e =>
    if m = 0 then (f.signed neg 0, 0)
    else
      let (x, fl) := f.convert w (.fin neg m (e + 127 - s))
      if fl &&& NFlags.overflow = 0 then (x, fl)
      else (f.signed neg f.maxFin, NFlags.when clamped NFlags.overflow ||| NFlags.inexact)

/-- A block of 32 values in a block format: its scale code, its elements and the flags (R125, R126). -/
def quantBlock (code : Nat) (ws : List Rounding) (vs : List Val) : Nat × List Nat × NFlags :=
  let (s, clamped) := blockScale code vs
  if s = 0xFF then (s, vs.map fun _ => 0, NFlags.when (vs.any Val.isSig) NFlags.invalid)
  else
    let rs := (vs.zip ws).map fun (v, w) => blockElem code w s clamped v
    (s, rs.map (·.1), rs.foldl (fun a r => a ||| r.2) 0)

/-! ### The accumulator format (R117, R118) -/

/-- An accumulator element: sign in bit 31, E10[7:0] in bits 30 to 23, the fraction in bits 22 to 0, E10[9:8] in bits
33 and 32. -/
def accPack (neg : Bool) (e10 fr : Nat) : BitVec 34 :=
  BitVec.ofNat 34 (e10 / 256 * 2 ^ 32 + neg.toNat * 2 ^ 31 + e10 % 256 * 2 ^ 23 + fr)

/-- The value of an accumulator element (R117): E10 of 0 is zero whatever the fraction holds. -/
def accDecode (x : BitVec 34) : Val :=
  let v := x.toNat
  let neg := fld v 31 1 = 1
  let e10 := fld v 32 2 * 256 + fld v 23 8
  let fr := fld v 0 23
  if e10 = 0 then .zero neg
  else if e10 = 1023 then (if fr = 0 then .inf neg else .nan false)
  else .fin neg (2 ^ 23 + fr) ((e10 : Int) - 511 - 23)

/-- acc_round (R118). -/
def accRound (v : Val) : BitVec 34 × NFlags :=
  match v with
  | .nan _ => (accPack false 1023 0x400000, 0)
  | .inf neg => (accPack neg 1023 0, 0)
  | .fin neg m e =>
    if m = 0 then (accPack neg 0 0, 0)
    else
      let q := (m.log2 : Int) + e - 23
      let (n, exact) := nearest m e q
      let (n, q) := if n = 2 ^ 24 then (2 ^ 23, q + 1) else (n, q)
      let x := q + 23 + 511
      if 1022 < x then (accPack neg 1022 (2 ^ 23 - 1), NFlags.overflow ||| NFlags.inexact)
      else if x < 1 then (accPack neg 0 0, NFlags.underflow ||| NFlags.inexact)
      else (accPack neg x.toNat (n - 2 ^ 23), NFlags.when (!exact) NFlags.inexact)

/-- One accumulation: acc_round of a stored element plus an exact term, with the flags. -/
def accAdd (s : BitVec 34) (t : Val) : BitVec 34 × NFlags :=
  let (v, inv) := (accDecode s).add t
  let (r, f) := accRound v
  (r, f ||| NFlags.when inv NFlags.invalid)

/-! ### FP32 and 16-bit arithmetic (R121, R437) -/

/-- A value rounded into a format, INVALID added where the operation gives it. -/
def Fmt.roundInv (f : Fmt) (r : Val × Bool) : Nat × NFlags :=
  let (x, fl) := f.round r.1
  (x, fl ||| NFlags.when r.2 NFlags.invalid)

def Fmt.addBits (f : Fmt) (a b : Nat) : Nat × NFlags := f.roundInv ((f.decode a).add (f.decode b))
def Fmt.subBits (f : Fmt) (a b : Nat) : Nat × NFlags := f.roundInv ((f.decode a).add (f.decode b).negate)
def Fmt.mulBits (f : Fmt) (a b : Nat) : Nat × NFlags := f.roundInv ((f.decode a).mul (f.decode b))

/-- a × b + c, exact, and whether it is INVALID: infinity × 0 is, also beside a quiet NaN as addend, which the spec leaves open.
[DESIGN CHOICE: log entry 120] -/
def Val.fma (a b c : Val) : Val × Bool :=
  let (p, i) := a.mul b
  let (s, j) := p.add c
  (s, i || j)

def Fmt.fmaBits (f : Fmt) (a b c : Nat) : Nat × NFlags :=
  f.roundInv (Val.fma (f.decode a) (f.decode b) (f.decode c))

/-- A quotient of finite nonzero values to 64 bits beyond any format here, a sticky bit standing for the rest. -/
def divFin (m m' : Nat) (e e' : Int) : Nat × Int :=
  let k := 128 + m'.log2
  let q := m * 2 ^ k / m'
  let r := m * 2 ^ k % m'
  (2 * q + (if r = 0 then 0 else 1), e - e' - k - 1)

/-- Division (R437): the value to be rounded and INVALID. -/
def Val.div (a b : Val) : Val × Bool :=
  match a, b with
  | .nan s, b => (.nan false, s || b.isSig)
  | _, .nan s => (.nan false, s)
  | .inf _, .inf _ => (.nan false, true)
  | .inf n, .fin k _ _ => (.inf (n != k), false)
  | .fin n _ _, .inf k => (.zero (n != k), false)
  | .fin n m e, .fin k m' e' =>
    if m' = 0 then (if m = 0 then (.nan false, true) else (.inf (n != k), false))
    else if m = 0 then (.zero (n != k), false)
    else
      let (q, x) := divFin m m' e e'
      (.fin (n != k) q x, false)

/-- The integer square root by binary digits: `n` digits still to find. -/
def isqrtAux : Nat → Nat → Nat → Nat
  | 0, _, r => r
  | n + 1, x, r => isqrtAux n x (if (r + 2 ^ n) * (r + 2 ^ n) ≤ x then r + 2 ^ n else r)

/-- The integer square root. -/
def isqrt (x : Nat) : Nat := isqrtAux (x.log2 / 2 + 1) x 0

/-- Square root (R437). -/
def Val.sqrt (a : Val) : Val × Bool :=
  match a with
  | .nan s => (.nan false, s)
  | .inf n => if n then (.nan false, true) else (.inf false, false)
  | .fin n m e =>
    if m = 0 then (.zero n, false)
    else if n then (.nan false, true)
    else
      -- an even exponent, and 128 bits of root
      let k : Nat := 256 + (if (e - 256) % 2 = 0 then 0 else 1)
      let x := m * 2 ^ k
      let r := isqrt x
      (.fin false (2 * r + (if r * r = x then 0 else 1)) ((e - k) / 2 - 1), false)

def Fmt.divBits (f : Fmt) (a b : Nat) : Nat × NFlags := f.roundInv ((f.decode a).div (f.decode b))
def Fmt.sqrtBits (f : Fmt) (a : Nat) : Nat × NFlags := f.roundInv (f.decode a).sqrt

/-- The bits are a NaN of the format. -/
def Fmt.isNanBits (f : Fmt) (a : Nat) : Bool := (f.decode a).isNan

/-- vmin and vmax (R154): the canonical NaN when either operand is NaN, INVALID for a signalling one, -0 below +0. -/
def Fmt.minMax (f : Fmt) (max : Bool) (a b : Nat) : Nat × NFlags :=
  let x := f.decode a
  let y := f.decode b
  if x.isNan || y.isNan then (f.nan, NFlags.when (x.isSig || y.isSig) NFlags.invalid)
  else
    let aLess := x.lt y || (x.eq y && x.isNeg && !y.isNeg)
    (if aLess != max then a else b, 0)

/-- A comparison (R154): whether it holds, INVALID for a signalling NaN. Code 0 greater, 1 greater or equal, 2 equal. -/
def Fmt.compare (f : Fmt) (code : Nat) (a b : Nat) : Bool × NFlags :=
  let x := f.decode a
  let y := f.decode b
  let fl := NFlags.when (x.isSig || y.isSig) NFlags.invalid
  if x.isNan || y.isNan then (false, fl)
  else
    (match code with
      | 0 => y.lt x
      | 1 => !(x.lt y)
      | _ => x.eq y, fl)

/-! ### STASH (R129) -/

/-- The bit that a STASH pack mode gives an element: 0 GT0, 1 NZ, 2 SIGN. -/
def stashBit (f : Fmt) (mode x : Nat) : Bool :=
  let v := f.decode x
  match mode with
  | 0 => (Val.zero false).lt v
  | 1 => !v.isZero
  | _ => x / 2 ^ (f.eb + f.fb) % 2 = 1

/-- The element that a mask bit unpacks to: +1.0 or +0. -/
def stashUnpack (f : Fmt) (b : Bool) : Nat := if b then f.bias * 2 ^ f.fb else 0

end Sys2Proof.Machine
end

