-- ==== Sys2Proof/Machine/RegMap.lean ====
section
/-! DEFINITION. The register map: every register of the 19 blocks (R30) with its address, the fields of its table and
its reset value, as the register tables of spec/ give them (R37, R78, R141, R202, R218, R257 to R259, R288, R337, R338,
R360, R361, R385 to R387, R400, R417, R418). -/

namespace Sys2Proof.Machine

open Sys2Proof

/-- The type of a register field (the table of register field types of spec/00_scope.md); `res` is a field marked
"Reserved: reads 0, write 0" (R10). -/
inductive FieldType where
  | rw
  | ro
  | wo
  | w1c
  | w1s
  | rc
  | res
  deriving DecidableEq, Repr

/-- A field of a register: bits [hi:lo] and its type. -/
structure Field where
  hi : Nat
  lo : Nat
  type : FieldType
  deriving DecidableEq, Repr

/-- The registers. Arguments number a core c, a router c, a context x, an engine e, a ring r, a stack or spring s, a channel n,
an arbiter a and its requester k, a link l, a switch h, a check unit u, a parameter set p, and the places of an array. -/
inductive Reg where
  | ctrlReadyGrid
  | ctrlReadyHbm
  | ctrlReadyLake
  | ctrlReadyLink
  | ctrlReadyUnit
  | ctrlReadyEvent
  | ctrlReadyIen
  | coreId (c : Nat)
  | coreCtl (c : Nat)
  | coreStatus (c : Nat)
  | coreSaveBase (c : Nat)
  | coreFEvent (c : Nat)
  | coreFPend (c : Nat)
  | coreSwitchLat (c : Nat)
  | coreSwitchCnt (c : Nat)
  | coreEcc (c : Nat)
  | ctxEntry (c : Nat) (x : Ctx)
  | ctxPc (c : Nat) (x : Ctx)
  | ctxInuse (c : Nat) (x : Ctx)
  | ctxTstart (c : Nat) (x : Ctx)
  | ctxTcfg (c : Nat) (x : Ctx) (k : Nat)
  | ctxTq (c : Nat) (x : Ctx)
  | numCtl
  | numNanrec0
  | numNanrec1
  | numNancnt
  | numSummary
  | numSprgFlags (s : Nat)
  | numEdgeFlags (e : Nat)
  | numCoreFlags (c : Nat)
  | gridCtl
  | gridRound
  | gridStart
  | gridStatus
  | gridErr
  | gridIen
  | gridRtrPart (c : Nat)
  | gridRtrHoff (c : Nat) (p : Nat)
  | gridStrm (c : Nat) (n : Nat)
  | syncStatus
  | syncIen
  | syncErrrec0
  | syncErrrec1
  | syncErrrec2
  | syncErrrec3
  | syncErrcnt
  | syncSc (c : Nat) (n : Nat)
  | syncClr (c : Nat)
  | syncInc (c : Nat)
  | syncWait (c : Nat) (x : Nat)
  | syncDisc (c : Nat)
  | syncRing (r : Nat)
  | edgeStatus
  | edgeIen
  | edgeXsCfg (e : Nat) (n : Nat)
  | edgeXsCnt (e : Nat) (n : Nat)
  | edgeRingBase (r : Nat)
  | edgeRingCfg (r : Nat)
  | edgeRingCq (r : Nat)
  | edgeRingCtl (r : Nat)
  | edgeRingStatus (r : Nat)
  | edgeRingIdx (r : Nat)
  | edgeRingPost (r : Nat)
  | hbmpMap
  | hbmpStatus (s : Nat)
  | hbmpEcc (s : Nat)
  | hbmpOutst (s : Nat)
  | hbmpPchot (s : Nat)
  | hbmpErraddr (s : Nat)
  | lakeStatus (n : Nat)
  | lakeEcc (n : Nat)
  | lakeOutst (n : Nat)
  | lakeErraddr (n : Nat)
  | arbCfg (a : Nat)
  | arbStatus (a : Nat)
  | arbPrio (a : Nat) (k : Nat)
  | arbGrants (a : Nat) (k : Nat)
  | arbWaits (a : Nat) (k : Nat)
  | arbLongest (a : Nat) (k : Nat)
  | sprgSummary
  | sprgIen
  | sprgCfg (s : Nat)
  | sprgState (s : Nat)
  | sprgCtl (s : Nat)
  | sprgCmdno (s : Nat)
  | sprgFaila (s : Nat) (x : Nat)
  | sprgFailb (s : Nat) (x : Nat)
  | sprgCbusy (s : Nat)
  | sprgMbusy (s : Nat)
  | sprgBankwait (s : Nat)
  | sprgDone (s : Nat)
  | linkDevid
  | linkStatus
  | linkIen
  | linkRto
  | linkRoute (h : Nat) (d : Nat)
  | linkCtl (l : Nat)
  | linkState (l : Nat)
  | linkRtt (l : Nat)
  | linkFec (l : Nat)
  | linkCred (l : Nat) (k : Nat)
  | linkFwin (l : Nat)
  | chainCfg
  | chainStatus
  | chainSeg (x : Nat)
  | chainLeader
  | chainAlarm
  | chainAlarmTime
  | chainAlarmTx
  | chainEvent
  | chainIen
  | chainErr
  | timeCfg
  | timeFmt
  | timeStatus
  | timeNow
  | timeLine
  | timeSet
  | timeErr
  | timeEvent
  | timeIen
  | timePlogBase
  | timePlogSeq
  | timePlogLost
  | timeLev (k : Nat)
  | svcShareCfg
  | svcShare
  | svcDeadline
  | svcMargin
  | svcMarginMin
  | svcQw
  | svcEvent
  | svcIen
  | svcHbmf (s : Nat)
  | ctrlIdent
  | ctrlEqx
  | ctrlEqxCtl
  | ctrlReq
  | ctrlReqStatus
  | ctrlPart
  | cfgStatus
  | cfgSeq (x : Nat)
  | cfgAcceptTime
  | secStatus
  | secFloor
  | secKeys
  | secExtData (k : Nat)
  | secNonce (k : Nat)
  | secExtCmd
  | secAtt
  | secIdpub (w : Nat)
  | secCert (w : Nat)
  | secMr (h : Nat) (m : Nat) (w : Nat)
  | chkStatus
  | chkIen
  | chkPoly (u : Nat) (p : Nat)
  | chkInit (u : Nat) (p : Nat)
  | chkXorout (u : Nat) (p : Nat)
  | chkPctl (u : Nat) (p : Nat)
  | chkSess (u : Nat) (n : Nat)
  | chkSflags (u : Nat)
  | chkCnt (u : Nat)
  | chkMisrec0 (u : Nat)
  | chkMisrec (u : Nat) (x : Nat)
  | fltStatus
  | fltIen
  | fltFrostEn
  | fltFrost
  | fltCtl
  | fltQidx
  | fltQlost
  | fltQueue (i : Nat) (w : Nat)
  | pwrEvent
  | pwrIen
  | pwrInput
  | pwrTcfg
  | pwrSteps
  | pwrField (f : Nat)
  | pwrDie (d : Nat)
  deriving DecidableEq, Repr

/-- The first address of the register blocks (R30). -/
def regBase : Nat := 0x7F000000000

/-- The offset of a context's registers in the window of its core (R78). -/
def ctxOff : Ctx → Nat
  | .F => 0x100
  | .B => 0x200

/-- The local address of a register. -/
def Reg.addr : Reg → Nat
  | .ctrlReadyGrid => 0x7f00d001000
  | .ctrlReadyHbm => 0x7f00d001008
  | .ctrlReadyLake => 0x7f00d001010
  | .ctrlReadyLink => 0x7f00d001018
  | .ctrlReadyUnit => 0x7f00d001020
  | .ctrlReadyEvent => 0x7f00d001028
  | .ctrlReadyIen => 0x7f00d001030
  | .coreId c => 0x7f001000000 + c * 0x4000
  | .coreCtl c => 0x7f001000008 + c * 0x4000
  | .coreStatus c => 0x7f001000010 + c * 0x4000
  | .coreSaveBase c => 0x7f001000018 + c * 0x4000
  | .coreFEvent c => 0x7f001000020 + c * 0x4000
  | .coreFPend c => 0x7f001000028 + c * 0x4000
  | .coreSwitchLat c => 0x7f001000030 + c * 0x4000
  | .coreSwitchCnt c => 0x7f001000038 + c * 0x4000
  | .coreEcc c => 0x7f001000040 + c * 0x4000
  | .ctxEntry c x => 0x7f001000000 + c * 0x4000 + ctxOff x
  | .ctxPc c x => 0x7f001000008 + c * 0x4000 + ctxOff x
  | .ctxInuse c x => 0x7f001000010 + c * 0x4000 + ctxOff x
  | .ctxTstart c x => 0x7f001000018 + c * 0x4000 + ctxOff x
  | .ctxTcfg c x k => 0x7f001000020 + c * 0x4000 + ctxOff x + k * 0x8
  | .ctxTq c x => 0x7f001000060 + c * 0x4000 + ctxOff x
  | .numCtl => 0x7f002000000
  | .numNanrec0 => 0x7f002000008
  | .numNanrec1 => 0x7f002000010
  | .numNancnt => 0x7f002000018
  | .numSummary => 0x7f002000020
  | .numSprgFlags s => 0x7f002000100 + s * 0x8
  | .numEdgeFlags e => 0x7f002000200 + e * 0x8
  | .numCoreFlags c => 0x7f002001000 + c * 0x8
  | .gridCtl => 0x7f000000000
  | .gridRound => 0x7f000000008
  | .gridStart => 0x7f000000010
  | .gridStatus => 0x7f000000018
  | .gridErr => 0x7f000000020
  | .gridIen => 0x7f000000028
  | .gridRtrPart c => 0x7f000100000 + c * 0x1000
  | .gridRtrHoff c p => 0x7f000100008 + c * 0x1000 + p * 0x8
  | .gridStrm c n => 0x7f000100100 + c * 0x1000 + n * 0x8
  | .syncStatus => 0x7f003000000
  | .syncIen => 0x7f003000008
  | .syncErrrec0 => 0x7f003000010
  | .syncErrrec1 => 0x7f003000018
  | .syncErrrec2 => 0x7f003000020
  | .syncErrrec3 => 0x7f003000028
  | .syncErrcnt => 0x7f003000030
  | .syncSc c n => 0x7f003100000 + c * 0x1000 + n * 0x8
  | .syncClr c => 0x7f003100180 + c * 0x1000
  | .syncInc c => 0x7f003100188 + c * 0x1000
  | .syncWait c x => 0x7f003100190 + c * 0x1000 + x * 0x8
  | .syncDisc c => 0x7f0031001a0 + c * 0x1000
  | .syncRing r => 0x7f003800000 + r * 0x8
  | .edgeStatus => 0x7f004000000
  | .edgeIen => 0x7f004000008
  | .edgeXsCfg e n => 0x7f004010000 + e * 0x400 + n * 0x8
  | .edgeXsCnt e n => 0x7f004010100 + e * 0x400 + n * 0x8
  | .edgeRingBase r => 0x7f004100000 + r * 0x40
  | .edgeRingCfg r => 0x7f004100008 + r * 0x40
  | .edgeRingCq r => 0x7f004100010 + r * 0x40
  | .edgeRingCtl r => 0x7f004100018 + r * 0x40
  | .edgeRingStatus r => 0x7f004100020 + r * 0x40
  | .edgeRingIdx r => 0x7f004100028 + r * 0x40
  | .edgeRingPost r => 0x7f004100030 + r * 0x40
  | .hbmpMap => 0x7f005000000
  | .hbmpStatus s => 0x7f005010000 + s * 0x1000
  | .hbmpEcc s => 0x7f005010008 + s * 0x1000
  | .hbmpOutst s => 0x7f005010010 + s * 0x1000
  | .hbmpPchot s => 0x7f005010018 + s * 0x1000
  | .hbmpErraddr s => 0x7f005010020 + s * 0x1000
  | .lakeStatus n => 0x7f007010000 + n * 0x100
  | .lakeEcc n => 0x7f007010008 + n * 0x100
  | .lakeOutst n => 0x7f007010010 + n * 0x100
  | .lakeErraddr n => 0x7f007010018 + n * 0x100
  | .arbCfg a => 0x7f008010000 + a * 0x2000
  | .arbStatus a => 0x7f008010008 + a * 0x2000
  | .arbPrio a k => 0x7f008010100 + a * 0x2000 + k * 0x20
  | .arbGrants a k => 0x7f008010108 + a * 0x2000 + k * 0x20
  | .arbWaits a k => 0x7f008010110 + a * 0x2000 + k * 0x20
  | .arbLongest a k => 0x7f008010118 + a * 0x2000 + k * 0x20
  | .sprgSummary => 0x7f006000000
  | .sprgIen => 0x7f006000008
  | .sprgCfg s => 0x7f006010000 + s * 0x1000
  | .sprgState s => 0x7f006010008 + s * 0x1000
  | .sprgCtl s => 0x7f006010010 + s * 0x1000
  | .sprgCmdno s => 0x7f006010018 + s * 0x1000
  | .sprgFaila s x => 0x7f006010020 + s * 0x1000 + x * 0x10
  | .sprgFailb s x => 0x7f006010028 + s * 0x1000 + x * 0x10
  | .sprgCbusy s => 0x7f006010040 + s * 0x1000
  | .sprgMbusy s => 0x7f006010048 + s * 0x1000
  | .sprgBankwait s => 0x7f006010050 + s * 0x1000
  | .sprgDone s => 0x7f006010058 + s * 0x1000
  | .linkDevid => 0x7f009000000
  | .linkStatus => 0x7f009000008
  | .linkIen => 0x7f009000010
  | .linkRto => 0x7f009000018
  | .linkRoute h d => 0x7f009010000 + h * 0x10000 + d * 0x8
  | .linkCtl l => 0x7f009100000 + l * 0x1000
  | .linkState l => 0x7f009100008 + l * 0x1000
  | .linkRtt l => 0x7f009100010 + l * 0x1000
  | .linkFec l => 0x7f009100018 + l * 0x1000
  | .linkCred l k => 0x7f009100020 + l * 0x1000 + k * 0x8
  | .linkFwin l => 0x7f009100040 + l * 0x1000
  | .chainCfg => 0x7f00a000000
  | .chainStatus => 0x7f00a000008
  | .chainSeg x => 0x7f00a000010 + x * 0x8
  | .chainLeader => 0x7f00a000020
  | .chainAlarm => 0x7f00a000028
  | .chainAlarmTime => 0x7f00a000030
  | .chainAlarmTx => 0x7f00a000038
  | .chainEvent => 0x7f00a000040
  | .chainIen => 0x7f00a000048
  | .chainErr => 0x7f00a000050
  | .timeCfg => 0x7f00b000000
  | .timeFmt => 0x7f00b000008
  | .timeStatus => 0x7f00b000010
  | .timeNow => 0x7f00b000018
  | .timeLine => 0x7f00b000020
  | .timeSet => 0x7f00b000028
  | .timeErr => 0x7f00b000030
  | .timeEvent => 0x7f00b000038
  | .timeIen => 0x7f00b000040
  | .timePlogBase => 0x7f00b000200
  | .timePlogSeq => 0x7f00b000208
  | .timePlogLost => 0x7f00b000210
  | .timeLev k => 0x7f00b000100 + k * 0x8
  | .svcShareCfg => 0x7f00c000000
  | .svcShare => 0x7f00c000008
  | .svcDeadline => 0x7f00c000010
  | .svcMargin => 0x7f00c000018
  | .svcMarginMin => 0x7f00c000020
  | .svcQw => 0x7f00c000028
  | .svcEvent => 0x7f00c000030
  | .svcIen => 0x7f00c000038
  | .svcHbmf s => 0x7f00c000100 + s * 0x8
  | .ctrlIdent => 0x7f00d000000
  | .ctrlEqx => 0x7f00d000008
  | .ctrlEqxCtl => 0x7f00d000010
  | .ctrlReq => 0x7f00d000018
  | .ctrlReqStatus => 0x7f00d000020
  | .ctrlPart => 0x7f00d000028
  | .cfgStatus => 0x7f00e000000
  | .cfgSeq x => 0x7f00e000008 + x * 0x8
  | .cfgAcceptTime => 0x7f00e000018
  | .secStatus => 0x7f00f000000
  | .secFloor => 0x7f00f000008
  | .secKeys => 0x7f00f000010
  | .secExtData k => 0x7f00f000100 + k * 0x8
  | .secNonce k => 0x7f00f000180 + k * 0x8
  | .secExtCmd => 0x7f00f000140
  | .secAtt => 0x7f00f0001a0
  | .secIdpub w => 0x7f00f000200 + w * 0x8
  | .secCert w => 0x7f00f000400 + w * 0x8
  | .secMr h m w => 0x7f00f001000 + h * 0x200 + m * 0x40 + w * 0x8
  | .chkStatus => 0x7f010000000
  | .chkIen => 0x7f010000008
  | .chkPoly u p => 0x7f010010000 + u * 0x1000 + p * 0x20
  | .chkInit u p => 0x7f010010008 + u * 0x1000 + p * 0x20
  | .chkXorout u p => 0x7f010010010 + u * 0x1000 + p * 0x20
  | .chkPctl u p => 0x7f010010018 + u * 0x1000 + p * 0x20
  | .chkSess u n => 0x7f010010100 + u * 0x1000 + n * 0x8
  | .chkSflags u => 0x7f010010180 + u * 0x1000
  | .chkCnt u => 0x7f010010188 + u * 0x1000
  | .chkMisrec0 u => 0x7f010010190 + u * 0x1000
  | .chkMisrec u x => 0x7f010010198 + u * 0x1000 + x * 0x8
  | .fltStatus => 0x7f011000000
  | .fltIen => 0x7f011000008
  | .fltFrostEn => 0x7f011000010
  | .fltFrost => 0x7f011000018
  | .fltCtl => 0x7f011000020
  | .fltQidx => 0x7f011000028
  | .fltQlost => 0x7f011000030
  | .fltQueue i w => 0x7f011010000 + i * 0x40 + w * 0x8
  | .pwrEvent => 0x7f012000000
  | .pwrIen => 0x7f012000008
  | .pwrInput => 0x7f012000010
  | .pwrTcfg => 0x7f012000018
  | .pwrSteps => 0x7f012000020
  | .pwrField f => 0x7f012000100 + f * 0x8
  | .pwrDie d => 0x7f012000200 + d * 0x8

/-- The reset value of a register's bits that no rule sets another way. -/
def Reg.reset : Reg → Word
  | .ctrlReadyGrid => 0
  | .ctrlReadyHbm => 0
  | .ctrlReadyLake => 0
  | .ctrlReadyLink => 0
  | .ctrlReadyUnit => 0
  | .ctrlReadyEvent => 0
  | .ctrlReadyIen => 0
  | .coreId _ => 0
  | .coreCtl _ => 0
  | .coreStatus _ => 0
  | .coreSaveBase _ => 0x168000
  | .coreFEvent _ => 0
  | .coreFPend _ => 0
  | .coreSwitchLat _ => 0
  | .coreSwitchCnt _ => 0
  | .coreEcc _ => 0
  | .ctxEntry _ _ => 0
  | .ctxPc _ _ => 0
  | .ctxInuse _ _ => 0
  | .ctxTstart _ _ => 0
  | .ctxTcfg _ _ _ => 0
  | .ctxTq _ _ => 0
  | .numCtl => 0
  | .numNanrec0 => 0
  | .numNanrec1 => 0
  | .numNancnt => 0
  | .numSummary => 0
  | .numSprgFlags _ => 0
  | .numEdgeFlags _ => 0
  | .numCoreFlags _ => 0
  | .gridCtl => 0x400
  | .gridRound => 0
  | .gridStart => 0
  | .gridStatus => 0
  | .gridErr => 0
  | .gridIen => 0
  | .gridRtrPart _ => 0
  | .gridRtrHoff _ _ => 0
  | .gridStrm _ _ => 0
  | .syncStatus => 0
  | .syncIen => 0
  | .syncErrrec0 => 0
  | .syncErrrec1 => 0
  | .syncErrrec2 => 0
  | .syncErrrec3 => 0
  | .syncErrcnt => 0
  | .syncSc _ _ => 0
  | .syncClr _ => 0
  | .syncInc _ => 0
  | .syncWait _ _ => 0
  | .syncDisc _ => 0
  | .syncRing _ => 0
  | .edgeStatus => 0
  | .edgeIen => 0
  | .edgeXsCfg _ _ => 0
  | .edgeXsCnt _ _ => 0
  | .edgeRingBase _ => 0
  | .edgeRingCfg _ => 0x4006000000
  | .edgeRingCq _ => 0
  | .edgeRingCtl _ => 0
  | .edgeRingStatus _ => 0
  | .edgeRingIdx _ => 0
  | .edgeRingPost _ => 0
  | .hbmpMap => 0
  | .hbmpStatus _ => 0
  | .hbmpEcc _ => 0
  | .hbmpOutst _ => 0
  | .hbmpPchot _ => 0
  | .hbmpErraddr _ => 0
  | .lakeStatus _ => 0
  | .lakeEcc _ => 0
  | .lakeOutst _ => 0
  | .lakeErraddr _ => 0
  | .arbCfg _ => 0x3f03ff
  | .arbStatus _ => 0xff
  | .arbPrio _ k => if k % 2 = 1 then 3 else 1
  | .arbGrants _ _ => 0
  | .arbWaits _ _ => 0
  | .arbLongest _ _ => 0
  | .sprgSummary => 0
  | .sprgIen => 0
  | .sprgCfg _ => 0xc
  | .sprgState _ => 0
  | .sprgCtl _ => 0
  | .sprgCmdno _ => 0
  | .sprgFaila _ _ => 0
  | .sprgFailb _ _ => 0
  | .sprgCbusy _ => 0
  | .sprgMbusy _ => 0
  | .sprgBankwait _ => 0
  | .sprgDone _ => 0
  | .linkDevid => 0
  | .linkStatus => 0
  | .linkIen => 0
  | .linkRto => 0x3e8
  | .linkRoute _ _ => 0
  | .linkCtl _ => 0
  | .linkState _ => 0
  | .linkRtt _ => 0
  | .linkFec _ => 0
  | .linkCred _ k => if k = 0 then 0x3d8020008000400 else 0x3d803d803d803d8
  | .linkFwin _ => 0
  | .chainCfg => 0
  | .chainStatus => 0
  | .chainSeg _ => 0
  | .chainLeader => 0
  | .chainAlarm => 0
  | .chainAlarmTime => 0
  | .chainAlarmTx => 0
  | .chainEvent => 0
  | .chainIen => 0
  | .chainErr => 0
  | .timeCfg => 0xff000a6400
  | .timeFmt => 0x4650209
  | .timeStatus => 0
  | .timeNow => 0
  | .timeLine => 0
  | .timeSet => 0
  | .timeErr => 0
  | .timeEvent => 0
  | .timeIen => 0
  | .timePlogBase => 0
  | .timePlogSeq => 0
  | .timePlogLost => 0
  | .timeLev _ => 0
  | .svcShareCfg => 0x4040
  | .svcShare => 0x40
  | .svcDeadline => 0
  | .svcMargin => 0
  | .svcMarginMin => 0xffffffff
  | .svcQw => 0
  | .svcEvent => 0
  | .svcIen => 0
  | .svcHbmf _ => 0
  | .ctrlIdent => 0x30000000000
  | .ctrlEqx => 0
  | .ctrlEqxCtl => 0
  | .ctrlReq => 0
  | .ctrlReqStatus => 0
  | .ctrlPart => 0
  | .cfgStatus => 0
  | .cfgSeq _ => 0
  | .cfgAcceptTime => 0
  | .secStatus => 0
  | .secFloor => 0
  | .secKeys => 0
  | .secExtData _ => 0
  | .secNonce _ => 0
  | .secExtCmd => 0
  | .secAtt => 0
  | .secIdpub _ => 0
  | .secCert _ => 0
  | .secMr _ _ _ => 0
  | .chkStatus => 0
  | .chkIen => 0
  | .chkPoly _ p => if p = 0 then 0x04C11DB7 else 0
  | .chkInit _ p => if p = 0 then 0xFFFFFFFF else 0
  | .chkXorout _ p => if p = 0 then 0xFFFFFFFF else 0
  | .chkPctl _ p => if p = 0 then 0x320 else 0x40
  | .chkSess _ _ => 0
  | .chkSflags _ => 0
  | .chkCnt _ => 0
  | .chkMisrec0 _ => 0
  | .chkMisrec _ _ => 0
  | .fltStatus => 0
  | .fltIen => 0
  | .fltFrostEn => 0x75800
  | .fltFrost => 0
  | .fltCtl => 0
  | .fltQidx => 0
  | .fltQlost => 0
  | .fltQueue _ _ => 0
  | .pwrEvent => 0
  | .pwrIen => 0
  | .pwrInput => 0
  | .pwrTcfg => 0x5f
  | .pwrSteps => 0
  | .pwrField _ => 0
  | .pwrDie _ => 0

/-- The fields of a register. -/
def Reg.fields : Reg → List Field
  | .ctrlReadyGrid => [⟨63, 8, .res⟩, ⟨7, 7, .ro⟩, ⟨6, 6, .ro⟩, ⟨5, 5, .ro⟩, ⟨4, 4, .ro⟩, ⟨3, 0, .ro⟩]
  | .ctrlReadyHbm => [⟨63, 32, .res⟩, ⟨31, 16, .ro⟩, ⟨15, 0, .ro⟩]
  | .ctrlReadyLake => [⟨63, 0, .ro⟩]
  | .ctrlReadyLink => [⟨63, 36, .res⟩, ⟨35, 0, .ro⟩]
  | .ctrlReadyUnit => [⟨63, 22, .res⟩, ⟨21, 20, .ro⟩, ⟨19, 18, .ro⟩, ⟨17, 16, .ro⟩, ⟨15, 0, .ro⟩]
  | .ctrlReadyEvent => [⟨63, 6, .res⟩, ⟨5, 5, .w1c⟩, ⟨4, 4, .w1c⟩, ⟨3, 3, .w1c⟩, ⟨2, 2, .w1c⟩, ⟨1, 1, .w1c⟩, ⟨0, 0, .w1c⟩]
  | .ctrlReadyIen => [⟨63, 6, .res⟩, ⟨5, 0, .rw⟩]
  | .coreId _ => [⟨63, 30, .res⟩, ⟨29, 28, .ro⟩, ⟨27, 20, .ro⟩, ⟨19, 15, .ro⟩, ⟨14, 10, .ro⟩, ⟨9, 0, .ro⟩]
  | .coreCtl _ => [⟨63, 6, .res⟩, ⟨5, 5, .wo⟩, ⟨4, 4, .wo⟩, ⟨3, 2, .res⟩, ⟨1, 1, .rw⟩, ⟨0, 0, .rw⟩]
  | .coreStatus _ => [⟨63, 9, .res⟩, ⟨8, 8, .w1c⟩, ⟨7, 7, .ro⟩, ⟨6, 4, .ro⟩, ⟨3, 1, .ro⟩, ⟨0, 0, .ro⟩]
  | .coreSaveBase _ => [⟨63, 21, .res⟩, ⟨20, 12, .rw⟩, ⟨11, 0, .res⟩]
  | .coreFEvent _ => [⟨63, 17, .res⟩, ⟨16, 0, .rw⟩]
  | .coreFPend _ => [⟨63, 32, .res⟩, ⟨31, 16, .rc⟩, ⟨15, 9, .res⟩, ⟨8, 8, .w1c⟩, ⟨7, 3, .res⟩, ⟨2, 0, .ro⟩]
  | .coreSwitchLat _ => [⟨63, 32, .res⟩, ⟨31, 16, .rc⟩, ⟨15, 0, .ro⟩]
  | .coreSwitchCnt _ => [⟨63, 48, .res⟩, ⟨47, 0, .ro⟩]
  | .coreEcc _ => [⟨63, 48, .res⟩, ⟨47, 32, .rc⟩, ⟨31, 0, .rc⟩]
  | .ctxEntry _ _ => [⟨63, 13, .res⟩, ⟨12, 0, .rw⟩]
  | .ctxPc _ _ => [⟨63, 13, .res⟩, ⟨12, 0, .ro⟩]
  | .ctxInuse _ _ => [⟨63, 18, .res⟩, ⟨17, 16, .rw⟩, ⟨15, 0, .rw⟩]
  | .ctxTstart _ _ => [⟨63, 18, .res⟩, ⟨17, 17, .rw⟩, ⟨16, 16, .rw⟩, ⟨15, 14, .res⟩, ⟨13, 8, .rw⟩, ⟨7, 6, .res⟩, ⟨5, 0, .rw⟩]
  | .ctxTcfg _ _ _ => [⟨63, 32, .rw⟩, ⟨31, 0, .rw⟩]
  | .ctxTq _ _ => [⟨63, 9, .res⟩, ⟨8, 8, .ro⟩, ⟨7, 4, .ro⟩, ⟨3, 0, .ro⟩]
  | .numCtl => [⟨63, 8, .res⟩, ⟨7, 7, .rw⟩, ⟨6, 6, .rw⟩, ⟨5, 5, .rw⟩, ⟨4, 4, .rw⟩, ⟨3, 1, .res⟩, ⟨0, 0, .rw⟩]
  | .numNanrec0 => [⟨63, 63, .w1c⟩, ⟨62, 61, .ro⟩, ⟨60, 60, .ro⟩, ⟨59, 50, .ro⟩, ⟨49, 42, .ro⟩, ⟨41, 13, .res⟩, ⟨12, 0, .ro⟩]
  | .numNanrec1 => [⟨63, 0, .ro⟩]
  | .numNancnt => [⟨63, 32, .res⟩, ⟨31, 0, .rc⟩]
  | .numSummary => [⟨63, 16, .res⟩, ⟨15, 12, .ro⟩, ⟨11, 8, .ro⟩, ⟨7, 4, .ro⟩, ⟨3, 0, .ro⟩]
  | .numSprgFlags _ => [⟨63, 4, .res⟩, ⟨3, 0, .w1c⟩]
  | .numEdgeFlags _ => [⟨63, 4, .res⟩, ⟨3, 0, .w1c⟩]
  | .numCoreFlags _ => [⟨63, 16, .res⟩, ⟨15, 12, .w1c⟩, ⟨11, 8, .w1c⟩, ⟨7, 4, .w1c⟩, ⟨3, 0, .w1c⟩]
  | .gridCtl => [⟨63, 11, .res⟩, ⟨10, 0, .rw⟩]
  | .gridRound => [⟨63, 16, .ro⟩, ⟨15, 11, .res⟩, ⟨10, 0, .ro⟩]
  | .gridStart => [⟨63, 63, .ro⟩, ⟨62, 48, .res⟩, ⟨47, 0, .rw⟩]
  | .gridStatus => [⟨63, 3, .res⟩, ⟨2, 2, .w1c⟩, ⟨1, 1, .w1c⟩, ⟨0, 0, .w1c⟩]
  | .gridErr => [⟨63, 48, .res⟩, ⟨47, 32, .rc⟩, ⟨31, 16, .rc⟩, ⟨15, 0, .rc⟩]
  | .gridIen => [⟨63, 3, .res⟩, ⟨2, 0, .rw⟩]
  | .gridRtrPart _ => [⟨63, 10, .res⟩, ⟨9, 9, .wo⟩, ⟨8, 8, .wo⟩, ⟨7, 6, .res⟩, ⟨5, 3, .ro⟩, ⟨2, 0, .ro⟩]
  | .gridRtrHoff _ _ => [⟨63, 0, .ro⟩]
  | .gridStrm _ _ => [⟨63, 32, .ro⟩, ⟨31, 16, .rc⟩, ⟨15, 12, .res⟩, ⟨11, 8, .ro⟩, ⟨7, 2, .res⟩, ⟨1, 0, .ro⟩]
  | .syncStatus => [⟨63, 5, .res⟩, ⟨4, 4, .w1c⟩, ⟨3, 3, .w1c⟩, ⟨2, 2, .w1c⟩, ⟨1, 1, .w1c⟩, ⟨0, 0, .w1c⟩]
  | .syncIen => [⟨63, 5, .res⟩, ⟨4, 0, .rw⟩]
  | .syncErrrec0 => [⟨63, 63, .w1c⟩, ⟨62, 60, .ro⟩, ⟨59, 59, .res⟩, ⟨58, 48, .ro⟩, ⟨47, 47, .ro⟩, ⟨46, 42, .res⟩, ⟨41, 32, .ro⟩, ⟨31, 13, .res⟩, ⟨12, 0, .ro⟩]
  | .syncErrrec1 => [⟨63, 53, .ro⟩, ⟨52, 51, .ro⟩, ⟨50, 50, .ro⟩, ⟨49, 40, .ro⟩, ⟨39, 27, .ro⟩, ⟨26, 0, .res⟩]
  | .syncErrrec2 => [⟨63, 32, .ro⟩, ⟨31, 0, .ro⟩]
  | .syncErrrec3 => [⟨63, 0, .ro⟩]
  | .syncErrcnt => [⟨63, 48, .rc⟩, ⟨47, 32, .rc⟩, ⟨31, 16, .rc⟩, ⟨15, 0, .rc⟩]
  | .syncSc _ _ => [⟨63, 63, .ro⟩, ⟨62, 32, .res⟩, ⟨31, 0, .ro⟩]
  | .syncClr _ => [⟨63, 48, .res⟩, ⟨47, 0, .wo⟩]
  | .syncInc _ => [⟨63, 38, .res⟩, ⟨37, 32, .wo⟩, ⟨31, 16, .res⟩, ⟨15, 0, .wo⟩]
  | .syncWait _ _ => [⟨63, 63, .ro⟩, ⟨62, 62, .ro⟩, ⟨61, 45, .res⟩, ⟨44, 32, .ro⟩, ⟨31, 0, .ro⟩]
  | .syncDisc _ => [⟨63, 32, .res⟩, ⟨31, 0, .rc⟩]
  | .syncRing _ => [⟨63, 63, .ro⟩, ⟨62, 32, .res⟩, ⟨31, 0, .ro⟩]
  | .edgeStatus => [⟨63, 3, .res⟩, ⟨2, 2, .w1c⟩, ⟨1, 1, .w1c⟩, ⟨0, 0, .w1c⟩]
  | .edgeIen => [⟨63, 3, .res⟩, ⟨2, 0, .rw⟩]
  | .edgeXsCfg _ _ => [⟨63, 32, .res⟩, ⟨31, 31, .rw⟩, ⟨30, 24, .rw⟩, ⟨23, 12, .rw⟩, ⟨11, 11, .res⟩, ⟨10, 0, .rw⟩]
  | .edgeXsCnt _ _ => [⟨63, 32, .ro⟩, ⟨31, 12, .res⟩, ⟨11, 0, .ro⟩]
  | .edgeRingBase _ => [⟨63, 43, .res⟩, ⟨42, 6, .rw⟩, ⟨5, 0, .res⟩]
  | .edgeRingCfg _ => [⟨63, 40, .res⟩, ⟨39, 36, .rw⟩, ⟨35, 35, .rw⟩, ⟨34, 34, .rw⟩, ⟨33, 29, .rw⟩, ⟨28, 25, .rw⟩, ⟨24, 24, .rw⟩, ⟨23, 14, .rw⟩, ⟨13, 13, .rw⟩, ⟨12, 0, .res⟩]
  | .edgeRingCq _ => [⟨63, 43, .res⟩, ⟨42, 6, .rw⟩, ⟨5, 0, .res⟩]
  | .edgeRingCtl _ => [⟨63, 6, .res⟩, ⟨5, 5, .wo⟩, ⟨4, 4, .wo⟩, ⟨3, 3, .wo⟩, ⟨2, 2, .wo⟩, ⟨1, 1, .wo⟩, ⟨0, 0, .rw⟩]
  | .edgeRingStatus _ => [⟨63, 32, .ro⟩, ⟨31, 20, .res⟩, ⟨19, 16, .ro⟩, ⟨15, 8, .ro⟩, ⟨7, 4, .ro⟩, ⟨3, 3, .res⟩, ⟨2, 0, .ro⟩]
  | .edgeRingIdx _ => [⟨63, 32, .ro⟩, ⟨31, 0, .ro⟩]
  | .edgeRingPost _ => [⟨63, 16, .res⟩, ⟨15, 0, .wo⟩]
  | .hbmpMap => [⟨63, 2, .res⟩, ⟨1, 0, .ro⟩]
  | .hbmpStatus _ => [⟨63, 3, .res⟩, ⟨2, 2, .ro⟩, ⟨1, 1, .ro⟩, ⟨0, 0, .ro⟩]
  | .hbmpEcc _ => [⟨63, 48, .rc⟩, ⟨47, 32, .rc⟩, ⟨31, 16, .rc⟩, ⟨15, 0, .rc⟩]
  | .hbmpOutst _ => [⟨63, 29, .res⟩, ⟨28, 16, .rc⟩, ⟨15, 13, .res⟩, ⟨12, 0, .ro⟩]
  | .hbmpPchot _ => [⟨63, 16, .rc⟩, ⟨15, 5, .res⟩, ⟨4, 0, .ro⟩]
  | .hbmpErraddr _ => [⟨63, 63, .w1c⟩, ⟨62, 43, .res⟩, ⟨42, 0, .ro⟩]
  | .lakeStatus _ => [⟨63, 3, .res⟩, ⟨2, 2, .ro⟩, ⟨1, 1, .ro⟩, ⟨0, 0, .ro⟩]
  | .lakeEcc _ => [⟨63, 48, .rc⟩, ⟨47, 32, .rc⟩, ⟨31, 16, .rc⟩, ⟨15, 0, .rc⟩]
  | .lakeOutst _ => [⟨63, 29, .res⟩, ⟨28, 16, .rc⟩, ⟨15, 13, .res⟩, ⟨12, 0, .ro⟩]
  | .lakeErraddr _ => [⟨63, 63, .w1c⟩, ⟨62, 43, .res⟩, ⟨42, 0, .ro⟩]
  | .arbCfg _ => [⟨63, 63, .wo⟩, ⟨62, 28, .res⟩, ⟨27, 16, .rw⟩, ⟨15, 12, .res⟩, ⟨11, 0, .rw⟩]
  | .arbStatus _ => [⟨63, 16, .ro⟩, ⟨15, 8, .res⟩, ⟨7, 0, .ro⟩]
  | .arbPrio _ _ => [⟨63, 2, .res⟩, ⟨1, 0, .rw⟩]
  | .arbGrants _ _ => [⟨63, 48, .res⟩, ⟨47, 0, .ro⟩]
  | .arbWaits _ _ => [⟨63, 48, .res⟩, ⟨47, 0, .ro⟩]
  | .arbLongest _ _ => [⟨63, 48, .res⟩, ⟨47, 0, .rc⟩]
  | .sprgSummary => [⟨63, 33, .res⟩, ⟨32, 32, .w1c⟩, ⟨31, 16, .ro⟩, ⟨15, 0, .ro⟩]
  | .sprgIen => [⟨63, 2, .res⟩, ⟨1, 1, .rw⟩, ⟨0, 0, .rw⟩]
  | .sprgCfg _ => [⟨63, 5, .res⟩, ⟨4, 0, .rw⟩]
  | .sprgState _ => [⟨63, 18, .res⟩, ⟨17, 17, .ro⟩, ⟨16, 16, .ro⟩, ⟨15, 14, .res⟩, ⟨13, 8, .ro⟩, ⟨7, 4, .res⟩, ⟨3, 3, .ro⟩, ⟨2, 2, .ro⟩, ⟨1, 0, .ro⟩]
  | .sprgCtl _ => [⟨63, 3, .res⟩, ⟨2, 2, .wo⟩, ⟨1, 1, .wo⟩, ⟨0, 0, .wo⟩]
  | .sprgCmdno _ => [⟨63, 48, .res⟩, ⟨47, 0, .ro⟩]
  | .sprgFaila _ _ => [⟨63, 63, .ro⟩, ⟨62, 56, .res⟩, ⟨55, 48, .ro⟩, ⟨47, 0, .ro⟩]
  | .sprgFailb _ _ => [⟨63, 60, .ro⟩, ⟨59, 45, .res⟩, ⟨44, 32, .ro⟩, ⟨31, 0, .ro⟩]
  | .sprgCbusy _ => [⟨63, 48, .res⟩, ⟨47, 0, .rc⟩]
  | .sprgMbusy _ => [⟨63, 48, .res⟩, ⟨47, 0, .rc⟩]
  | .sprgBankwait _ => [⟨63, 48, .res⟩, ⟨47, 0, .rc⟩]
  | .sprgDone _ => [⟨63, 48, .res⟩, ⟨47, 0, .ro⟩]
  | .linkDevid => [⟨63, 11, .res⟩, ⟨10, 0, .ro⟩]
  | .linkStatus => [⟨63, 4, .res⟩, ⟨3, 3, .w1c⟩, ⟨2, 2, .w1c⟩, ⟨1, 1, .w1c⟩, ⟨0, 0, .w1c⟩]
  | .linkIen => [⟨63, 4, .res⟩, ⟨3, 0, .rw⟩]
  | .linkRto => [⟨63, 20, .res⟩, ⟨19, 0, .rw⟩]
  | .linkRoute _ _ => [⟨63, 63, .rw⟩, ⟨62, 58, .res⟩, ⟨57, 56, .rw⟩, ⟨55, 30, .res⟩, ⟨29, 24, .rw⟩, ⟨23, 22, .res⟩, ⟨21, 16, .rw⟩, ⟨15, 14, .res⟩, ⟨13, 8, .rw⟩, ⟨7, 6, .res⟩, ⟨5, 0, .rw⟩]
  | .linkCtl _ => [⟨63, 2, .res⟩, ⟨1, 1, .wo⟩, ⟨0, 0, .rw⟩]
  | .linkState _ => [⟨63, 54, .res⟩, ⟨53, 48, .ro⟩, ⟨47, 43, .res⟩, ⟨42, 32, .ro⟩, ⟨31, 12, .res⟩, ⟨11, 8, .ro⟩, ⟨7, 4, .res⟩, ⟨3, 3, .ro⟩, ⟨2, 0, .ro⟩]
  | .linkRtt _ => [⟨63, 32, .res⟩, ⟨31, 0, .ro⟩]
  | .linkFec _ => [⟨63, 48, .rc⟩, ⟨47, 32, .rc⟩, ⟨31, 0, .rc⟩]
  | .linkCred _ _ => [⟨63, 48, .rw⟩, ⟨47, 32, .rw⟩, ⟨31, 16, .rw⟩, ⟨15, 0, .rw⟩]
  | .linkFwin _ => [⟨63, 11, .res⟩, ⟨10, 0, .rc⟩]
  | .chainCfg => [⟨63, 2, .res⟩, ⟨1, 1, .rw⟩, ⟨0, 0, .rw⟩]
  | .chainStatus => [⟨63, 39, .res⟩, ⟨38, 32, .ro⟩, ⟨31, 30, .res⟩, ⟨29, 24, .ro⟩, ⟨23, 22, .res⟩, ⟨21, 16, .ro⟩, ⟨15, 8, .res⟩, ⟨7, 7, .ro⟩, ⟨6, 6, .ro⟩, ⟨5, 5, .ro⟩, ⟨4, 4, .ro⟩, ⟨3, 3, .ro⟩, ⟨2, 2, .ro⟩, ⟨1, 1, .ro⟩, ⟨0, 0, .ro⟩]
  | .chainSeg _ => [⟨63, 63, .ro⟩, ⟨62, 48, .res⟩, ⟨47, 0, .ro⟩]
  | .chainLeader => [⟨63, 11, .res⟩, ⟨10, 0, .ro⟩]
  | .chainAlarm => [⟨63, 63, .w1c⟩, ⟨62, 59, .res⟩, ⟨58, 48, .ro⟩, ⟨47, 16, .res⟩, ⟨15, 0, .ro⟩]
  | .chainAlarmTime => [⟨63, 0, .ro⟩]
  | .chainAlarmTx => [⟨63, 16, .res⟩, ⟨15, 0, .wo⟩]
  | .chainEvent => [⟨63, 5, .res⟩, ⟨4, 4, .w1c⟩, ⟨3, 3, .w1c⟩, ⟨2, 2, .w1c⟩, ⟨1, 1, .w1c⟩, ⟨0, 0, .w1c⟩]
  | .chainIen => [⟨63, 5, .res⟩, ⟨4, 0, .rw⟩]
  | .chainErr => [⟨63, 32, .res⟩, ⟨31, 16, .rc⟩, ⟨15, 0, .rc⟩]
  | .timeCfg => [⟨63, 40, .res⟩, ⟨39, 32, .rw⟩, ⟨31, 16, .rw⟩, ⟨15, 8, .rw⟩, ⟨7, 4, .res⟩, ⟨3, 3, .rw⟩, ⟨2, 0, .rw⟩]
  | .timeFmt => [⟨63, 32, .res⟩, ⟨31, 16, .rw⟩, ⟨15, 10, .res⟩, ⟨9, 8, .rw⟩, ⟨7, 4, .res⟩, ⟨3, 0, .rw⟩]
  | .timeStatus => [⟨63, 48, .rc⟩, ⟨47, 10, .res⟩, ⟨9, 9, .ro⟩, ⟨8, 8, .ro⟩, ⟨7, 7, .ro⟩, ⟨6, 3, .res⟩, ⟨2, 0, .ro⟩]
  | .timeNow => [⟨63, 0, .ro⟩]
  | .timeLine => [⟨63, 16, .ro⟩, ⟨15, 0, .ro⟩]
  | .timeSet => [⟨63, 0, .wo⟩]
  | .timeErr => [⟨63, 32, .res⟩, ⟨31, 0, .ro⟩]
  | .timeEvent => [⟨63, 6, .res⟩, ⟨5, 5, .w1c⟩, ⟨4, 4, .w1c⟩, ⟨3, 3, .w1c⟩, ⟨2, 2, .w1c⟩, ⟨1, 1, .w1c⟩, ⟨0, 0, .w1c⟩]
  | .timeIen => [⟨63, 6, .res⟩, ⟨5, 0, .rw⟩]
  | .timePlogBase => [⟨63, 43, .res⟩, ⟨42, 12, .rw⟩, ⟨11, 1, .res⟩, ⟨0, 0, .rw⟩]
  | .timePlogSeq => [⟨63, 32, .res⟩, ⟨31, 0, .ro⟩]
  | .timePlogLost => [⟨63, 32, .res⟩, ⟨31, 0, .rc⟩]
  | .timeLev _ => [⟨63, 63, .rw⟩, ⟨62, 48, .res⟩, ⟨47, 32, .rw⟩, ⟨31, 20, .res⟩, ⟨19, 0, .rw⟩]
  | .svcShareCfg => [⟨63, 56, .res⟩, ⟨55, 40, .rw⟩, ⟨39, 24, .rw⟩, ⟨23, 20, .res⟩, ⟨19, 16, .rw⟩, ⟨15, 15, .rw⟩, ⟨14, 8, .rw⟩, ⟨7, 7, .res⟩, ⟨6, 0, .rw⟩]
  | .svcShare => [⟨63, 9, .res⟩, ⟨8, 8, .ro⟩, ⟨7, 7, .res⟩, ⟨6, 0, .ro⟩]
  | .svcDeadline => [⟨63, 63, .rw⟩, ⟨62, 48, .res⟩, ⟨47, 32, .rw⟩, ⟨31, 26, .res⟩, ⟨25, 16, .rw⟩, ⟨15, 0, .rw⟩]
  | .svcMargin => [⟨63, 63, .ro⟩, ⟨62, 32, .res⟩, ⟨31, 0, .ro⟩]
  | .svcMarginMin => [⟨63, 63, .wo⟩, ⟨62, 48, .res⟩, ⟨47, 32, .ro⟩, ⟨31, 0, .ro⟩]
  | .svcQw => [⟨63, 63, .rw⟩, ⟨62, 56, .res⟩, ⟨55, 48, .rw⟩, ⟨47, 32, .rw⟩, ⟨31, 16, .res⟩, ⟨15, 0, .rw⟩]
  | .svcEvent => [⟨63, 5, .res⟩, ⟨4, 4, .w1c⟩, ⟨3, 3, .w1c⟩, ⟨2, 2, .w1c⟩, ⟨1, 1, .w1c⟩, ⟨0, 0, .w1c⟩]
  | .svcIen => [⟨63, 5, .res⟩, ⟨4, 0, .rw⟩]
  | .svcHbmf _ => [⟨63, 48, .rc⟩, ⟨47, 32, .rc⟩, ⟨31, 16, .rc⟩, ⟨15, 0, .rc⟩]
  | .ctrlIdent => [⟨63, 48, .ro⟩, ⟨47, 44, .ro⟩, ⟨43, 32, .ro⟩, ⟨31, 0, .ro⟩]
  | .ctrlEqx => [⟨63, 9, .res⟩, ⟨8, 8, .w1c⟩, ⟨7, 6, .res⟩, ⟨5, 4, .ro⟩, ⟨3, 3, .ro⟩, ⟨2, 2, .ro⟩, ⟨1, 1, .ro⟩, ⟨0, 0, .ro⟩]
  | .ctrlEqxCtl => [⟨63, 1, .res⟩, ⟨0, 0, .wo⟩]
  | .ctrlReq => [⟨63, 11, .res⟩, ⟨10, 8, .wo⟩, ⟨7, 6, .res⟩, ⟨5, 0, .wo⟩]
  | .ctrlReqStatus => [⟨63, 16, .res⟩, ⟨15, 8, .ro⟩, ⟨7, 3, .res⟩, ⟨2, 0, .ro⟩]
  | .ctrlPart => [⟨63, 8, .res⟩, ⟨7, 4, .rw⟩, ⟨3, 0, .rw⟩]
  | .cfgStatus => [⟨63, 16, .res⟩, ⟨15, 12, .ro⟩, ⟨11, 8, .ro⟩, ⟨7, 4, .res⟩, ⟨3, 3, .ro⟩, ⟨2, 2, .ro⟩, ⟨1, 1, .ro⟩, ⟨0, 0, .ro⟩]
  | .cfgSeq _ => [⟨63, 0, .ro⟩]
  | .cfgAcceptTime => [⟨63, 32, .res⟩, ⟨31, 0, .ro⟩]
  | .secStatus => [⟨63, 4, .res⟩, ⟨3, 3, .w1c⟩, ⟨2, 2, .w1c⟩, ⟨1, 1, .ro⟩, ⟨0, 0, .ro⟩]
  | .secFloor => [⟨63, 0, .rw⟩]
  | .secKeys => [⟨63, 13, .res⟩, ⟨12, 8, .ro⟩, ⟨7, 4, .ro⟩, ⟨3, 0, .w1s⟩]
  | .secExtData _ => [⟨63, 0, .rw⟩]
  | .secNonce _ => [⟨63, 0, .rw⟩]
  | .secExtCmd => [⟨63, 3, .res⟩, ⟨2, 0, .wo⟩]
  | .secAtt => [⟨63, 63, .wo⟩, ⟨62, 43, .res⟩, ⟨42, 6, .rw⟩, ⟨5, 0, .res⟩]
  | .secIdpub _ => [⟨63, 0, .ro⟩]
  | .secCert _ => [⟨63, 0, .ro⟩]
  | .secMr _ _ _ => [⟨63, 0, .ro⟩]
  | .chkStatus => [⟨63, 17, .res⟩, ⟨16, 16, .w1c⟩, ⟨15, 0, .w1c⟩]
  | .chkIen => [⟨63, 17, .res⟩, ⟨16, 0, .rw⟩]
  | .chkPoly _ _ => [⟨63, 0, .rw⟩]
  | .chkInit _ _ => [⟨63, 0, .rw⟩]
  | .chkXorout _ _ => [⟨63, 0, .rw⟩]
  | .chkPctl _ _ => [⟨63, 10, .res⟩, ⟨9, 9, .rw⟩, ⟨8, 8, .rw⟩, ⟨7, 7, .res⟩, ⟨6, 0, .rw⟩]
  | .chkSess _ _ => [⟨63, 0, .ro⟩]
  | .chkSflags _ => [⟨63, 48, .res⟩, ⟨47, 16, .ro⟩, ⟨15, 0, .ro⟩]
  | .chkCnt _ => [⟨63, 32, .rc⟩, ⟨31, 16, .rc⟩, ⟨15, 4, .res⟩, ⟨3, 0, .ro⟩]
  | .chkMisrec0 _ => [⟨63, 63, .w1c⟩, ⟨62, 24, .res⟩, ⟨23, 20, .ro⟩, ⟨19, 13, .res⟩, ⟨12, 0, .ro⟩]
  | .chkMisrec _ _ => [⟨63, 0, .ro⟩]
  | .fltStatus => [⟨63, 20, .res⟩, ⟨19, 19, .w1c⟩, ⟨18, 0, .w1c⟩]
  | .fltIen => [⟨63, 20, .res⟩, ⟨19, 0, .rw⟩]
  | .fltFrostEn => [⟨63, 19, .res⟩, ⟨18, 0, .rw⟩]
  | .fltFrost => [⟨63, 63, .ro⟩, ⟨62, 62, .ro⟩, ⟨61, 56, .res⟩, ⟨55, 48, .ro⟩, ⟨47, 40, .ro⟩, ⟨39, 32, .res⟩, ⟨31, 0, .ro⟩]
  | .fltCtl => [⟨63, 2, .res⟩, ⟨1, 1, .wo⟩, ⟨0, 0, .wo⟩]
  | .fltQidx => [⟨63, 32, .ro⟩, ⟨31, 0, .rw⟩]
  | .fltQlost => [⟨63, 32, .res⟩, ⟨31, 0, .rc⟩]
  | .fltQueue _ _ => [⟨63, 0, .ro⟩]
  | .pwrEvent => [⟨63, 5, .res⟩, ⟨4, 4, .w1c⟩, ⟨3, 3, .w1c⟩, ⟨2, 2, .w1c⟩, ⟨1, 1, .w1c⟩, ⟨0, 0, .w1c⟩]
  | .pwrIen => [⟨63, 5, .res⟩, ⟨4, 0, .rw⟩]
  | .pwrInput => [⟨63, 48, .rc⟩, ⟨47, 32, .ro⟩, ⟨31, 16, .res⟩, ⟨15, 0, .ro⟩]
  | .pwrTcfg => [⟨63, 8, .res⟩, ⟨7, 0, .rw⟩]
  | .pwrSteps => [⟨63, 32, .res⟩, ⟨31, 0, .rc⟩]
  | .pwrField _ => [⟨63, 56, .res⟩, ⟨55, 48, .ro⟩, ⟨47, 40, .rc⟩, ⟨39, 32, .res⟩, ⟨31, 16, .ro⟩, ⟨15, 0, .ro⟩]
  | .pwrDie _ => [⟨63, 56, .res⟩, ⟨55, 48, .ro⟩, ⟨47, 40, .rc⟩, ⟨39, 0, .res⟩]

/-- The register at an offset of block GRID, if the map lists one. -/
def Reg.ofGrid (o : Nat) : Option Reg :=
  if o = 0x0 then some (.gridCtl) else
  if o = 0x8 then some (.gridRound) else
  if o = 0x10 then some (.gridStart) else
  if o = 0x18 then some (.gridStatus) else
  if o = 0x20 then some (.gridErr) else
  if o = 0x28 then some (.gridIen) else
  if 0x100000 ≤ o ∧ o < 0x400000 then
    let i := (o - 0x100000) / 0x1000
    let j := (o - 0x100000) % 0x1000
    if j = 0x0 then some (.gridRtrPart i) else
    if 0x8 ≤ j ∧ j < 0x18 then some (.gridRtrHoff i ((j - 0x8) / 0x8)) else
    if 0x100 ≤ j ∧ j < 0x200 then some (.gridStrm i ((j - 0x100) / 0x8)) else
    none
  else
  none

/-- The register at an offset of block CORE, if the map lists one. -/
def Reg.ofCore (o : Nat) : Option Reg :=
  if 0x0 ≤ o ∧ o < 0xc00000 then
    let i := (o - 0x0) / 0x4000
    let j := (o - 0x0) % 0x4000
    if j = 0x0 then some (.coreId i) else
    if j = 0x8 then some (.coreCtl i) else
    if j = 0x10 then some (.coreStatus i) else
    if j = 0x18 then some (.coreSaveBase i) else
    if j = 0x20 then some (.coreFEvent i) else
    if j = 0x28 then some (.coreFPend i) else
    if j = 0x30 then some (.coreSwitchLat i) else
    if j = 0x38 then some (.coreSwitchCnt i) else
    if j = 0x40 then some (.coreEcc i) else
    if j = 0x100 then some (.ctxEntry i .F) else
    if j = 0x200 then some (.ctxEntry i .B) else
    if j = 0x108 then some (.ctxPc i .F) else
    if j = 0x208 then some (.ctxPc i .B) else
    if j = 0x110 then some (.ctxInuse i .F) else
    if j = 0x210 then some (.ctxInuse i .B) else
    if j = 0x118 then some (.ctxTstart i .F) else
    if j = 0x218 then some (.ctxTstart i .B) else
    if 0x120 ≤ j ∧ j < 0x160 then some (.ctxTcfg i .F ((j - 0x120) / 0x8)) else
    if 0x220 ≤ j ∧ j < 0x260 then some (.ctxTcfg i .B ((j - 0x220) / 0x8)) else
    if j = 0x160 then some (.ctxTq i .F) else
    if j = 0x260 then some (.ctxTq i .B) else
    none
  else
  none

/-- The register at an offset of block NUM, if the map lists one. -/
def Reg.ofNum (o : Nat) : Option Reg :=
  if o = 0x0 then some (.numCtl) else
  if o = 0x8 then some (.numNanrec0) else
  if o = 0x10 then some (.numNanrec1) else
  if o = 0x18 then some (.numNancnt) else
  if o = 0x20 then some (.numSummary) else
  if 0x100 ≤ o ∧ o < 0x180 then some (.numSprgFlags ((o - 0x100) / 0x8)) else
  if 0x200 ≤ o ∧ o < 0x400 then some (.numEdgeFlags ((o - 0x200) / 0x8)) else
  if 0x1000 ≤ o ∧ o < 0x2800 then some (.numCoreFlags ((o - 0x1000) / 0x8)) else
  none

/-- The register at an offset of block SYNC, if the map lists one. -/
def Reg.ofSync (o : Nat) : Option Reg :=
  if o = 0x0 then some (.syncStatus) else
  if o = 0x8 then some (.syncIen) else
  if o = 0x10 then some (.syncErrrec0) else
  if o = 0x18 then some (.syncErrrec1) else
  if o = 0x20 then some (.syncErrrec2) else
  if o = 0x28 then some (.syncErrrec3) else
  if o = 0x30 then some (.syncErrcnt) else
  if 0x800000 ≤ o ∧ o < 0x810000 then some (.syncRing ((o - 0x800000) / 0x8)) else
  if 0x100000 ≤ o ∧ o < 0x400000 then
    let i := (o - 0x100000) / 0x1000
    let j := (o - 0x100000) % 0x1000
    if 0x0 ≤ j ∧ j < 0x180 then some (.syncSc i ((j - 0x0) / 0x8)) else
    if j = 0x180 then some (.syncClr i) else
    if j = 0x188 then some (.syncInc i) else
    if 0x190 ≤ j ∧ j < 0x1a0 then some (.syncWait i ((j - 0x190) / 0x8)) else
    if j = 0x1a0 then some (.syncDisc i) else
    none
  else
  none

/-- The register at an offset of block EDGE, if the map lists one. -/
def Reg.ofEdge (o : Nat) : Option Reg :=
  if o = 0x0 then some (.edgeStatus) else
  if o = 0x8 then some (.edgeIen) else
  if 0x10000 ≤ o ∧ o < 0x20000 then
    let i := (o - 0x10000) / 0x400
    let j := (o - 0x10000) % 0x400
    if 0x0 ≤ j ∧ j < 0x100 then some (.edgeXsCfg i ((j - 0x0) / 0x8)) else
    if 0x100 ≤ j ∧ j < 0x200 then some (.edgeXsCnt i ((j - 0x100) / 0x8)) else
    none
  else
  if 0x100000 ≤ o ∧ o < 0x180000 then
    let i := (o - 0x100000) / 0x40
    let j := (o - 0x100000) % 0x40
    if j = 0x0 then some (.edgeRingBase i) else
    if j = 0x8 then some (.edgeRingCfg i) else
    if j = 0x10 then some (.edgeRingCq i) else
    if j = 0x18 then some (.edgeRingCtl i) else
    if j = 0x20 then some (.edgeRingStatus i) else
    if j = 0x28 then some (.edgeRingIdx i) else
    if j = 0x30 then some (.edgeRingPost i) else
    none
  else
  none

/-- The register at an offset of block HBMP, if the map lists one. -/
def Reg.ofHbmp (o : Nat) : Option Reg :=
  if o = 0x0 then some (.hbmpMap) else
  if 0x10000 ≤ o ∧ o < 0x20000 then
    let i := (o - 0x10000) / 0x1000
    let j := (o - 0x10000) % 0x1000
    if j = 0x0 then some (.hbmpStatus i) else
    if j = 0x8 then some (.hbmpEcc i) else
    if j = 0x10 then some (.hbmpOutst i) else
    if j = 0x18 then some (.hbmpPchot i) else
    if j = 0x20 then some (.hbmpErraddr i) else
    none
  else
  none

/-- The register at an offset of block SPRG, if the map lists one. -/
def Reg.ofSprg (o : Nat) : Option Reg :=
  if o = 0x0 then some (.sprgSummary) else
  if o = 0x8 then some (.sprgIen) else
  if 0x10000 ≤ o ∧ o < 0x20000 then
    let i := (o - 0x10000) / 0x1000
    let j := (o - 0x10000) % 0x1000
    if j = 0x0 then some (.sprgCfg i) else
    if j = 0x8 then some (.sprgState i) else
    if j = 0x10 then some (.sprgCtl i) else
    if j = 0x18 then some (.sprgCmdno i) else
    if 0x20 ≤ j ∧ j < 0x40 ∧ ((j - 0x20) % 0x10) = 0 then some (.sprgFaila i ((j - 0x20) / 0x10)) else
    if 0x28 ≤ j ∧ j < 0x48 ∧ ((j - 0x28) % 0x10) = 0 then some (.sprgFailb i ((j - 0x28) / 0x10)) else
    if j = 0x40 then some (.sprgCbusy i) else
    if j = 0x48 then some (.sprgMbusy i) else
    if j = 0x50 then some (.sprgBankwait i) else
    if j = 0x58 then some (.sprgDone i) else
    none
  else
  none

/-- The register at an offset of block LAKE, if the map lists one. -/
def Reg.ofLake (o : Nat) : Option Reg :=
  if 0x10000 ≤ o ∧ o < 0x14000 then
    let i := (o - 0x10000) / 0x100
    let j := (o - 0x10000) % 0x100
    if j = 0x0 then some (.lakeStatus i) else
    if j = 0x8 then some (.lakeEcc i) else
    if j = 0x10 then some (.lakeOutst i) else
    if j = 0x18 then some (.lakeErraddr i) else
    none
  else
  none

/-- The register at an offset of block ARB, if the map lists one. -/
def Reg.ofArb (o : Nat) : Option Reg :=
  if 0x10000 ≤ o ∧ o < 0x98000 then
    let i := (o - 0x10000) / 0x2000
    let j := (o - 0x10000) % 0x2000
    if j = 0x0 then some (.arbCfg i) else
    if j = 0x8 then some (.arbStatus i) else
    if 0x100 ≤ j ∧ j < 0x11c0 ∧ ((j - 0x100) % 0x20) = 0 then some (.arbPrio i ((j - 0x100) / 0x20)) else
    if 0x108 ≤ j ∧ j < 0x11c8 ∧ ((j - 0x108) % 0x20) = 0 then some (.arbGrants i ((j - 0x108) / 0x20)) else
    if 0x110 ≤ j ∧ j < 0x11d0 ∧ ((j - 0x110) % 0x20) = 0 then some (.arbWaits i ((j - 0x110) / 0x20)) else
    if 0x118 ≤ j ∧ j < 0x11d8 ∧ ((j - 0x118) % 0x20) = 0 then some (.arbLongest i ((j - 0x118) / 0x20)) else
    none
  else
  none

/-- The register at an offset of block LINK, if the map lists one. -/
def Reg.ofLink (o : Nat) : Option Reg :=
  if o = 0x0 then some (.linkDevid) else
  if o = 0x8 then some (.linkStatus) else
  if o = 0x10 then some (.linkIen) else
  if o = 0x18 then some (.linkRto) else
  if 0x10000 ≤ o ∧ o < 0x30000 ∧ ((o - 0x10000) % 0x10000) < 0x4000 then some (.linkRoute ((o - 0x10000) / 0x10000) (((o - 0x10000) % 0x10000) / 0x8)) else
  if 0x100000 ≤ o ∧ o < 0x124000 then
    let i := (o - 0x100000) / 0x1000
    let j := (o - 0x100000) % 0x1000
    if j = 0x0 then some (.linkCtl i) else
    if j = 0x8 then some (.linkState i) else
    if j = 0x10 then some (.linkRtt i) else
    if j = 0x18 then some (.linkFec i) else
    if 0x20 ≤ j ∧ j < 0x40 then some (.linkCred i ((j - 0x20) / 0x8)) else
    if j = 0x40 then some (.linkFwin i) else
    none
  else
  none

/-- The register at an offset of block CHAIN, if the map lists one. -/
def Reg.ofChain (o : Nat) : Option Reg :=
  if o = 0x0 then some (.chainCfg) else
  if o = 0x8 then some (.chainStatus) else
  if 0x10 ≤ o ∧ o < 0x20 then some (.chainSeg ((o - 0x10) / 0x8)) else
  if o = 0x20 then some (.chainLeader) else
  if o = 0x28 then some (.chainAlarm) else
  if o = 0x30 then some (.chainAlarmTime) else
  if o = 0x38 then some (.chainAlarmTx) else
  if o = 0x40 then some (.chainEvent) else
  if o = 0x48 then some (.chainIen) else
  if o = 0x50 then some (.chainErr) else
  none

/-- The register at an offset of block TIME, if the map lists one. -/
def Reg.ofTime (o : Nat) : Option Reg :=
  if o = 0x0 then some (.timeCfg) else
  if o = 0x8 then some (.timeFmt) else
  if o = 0x10 then some (.timeStatus) else
  if o = 0x18 then some (.timeNow) else
  if o = 0x20 then some (.timeLine) else
  if o = 0x28 then some (.timeSet) else
  if o = 0x30 then some (.timeErr) else
  if o = 0x38 then some (.timeEvent) else
  if o = 0x40 then some (.timeIen) else
  if o = 0x200 then some (.timePlogBase) else
  if o = 0x208 then some (.timePlogSeq) else
  if o = 0x210 then some (.timePlogLost) else
  if 0x100 ≤ o ∧ o < 0x180 then some (.timeLev ((o - 0x100) / 0x8)) else
  none

/-- The register at an offset of block SVC, if the map lists one. -/
def Reg.ofSvc (o : Nat) : Option Reg :=
  if o = 0x0 then some (.svcShareCfg) else
  if o = 0x8 then some (.svcShare) else
  if o = 0x10 then some (.svcDeadline) else
  if o = 0x18 then some (.svcMargin) else
  if o = 0x20 then some (.svcMarginMin) else
  if o = 0x28 then some (.svcQw) else
  if o = 0x30 then some (.svcEvent) else
  if o = 0x38 then some (.svcIen) else
  if 0x100 ≤ o ∧ o < 0x180 then some (.svcHbmf ((o - 0x100) / 0x8)) else
  none

/-- The register at an offset of block CTRL, if the map lists one. -/
def Reg.ofCtrl (o : Nat) : Option Reg :=
  if o = 0x1000 then some (.ctrlReadyGrid) else
  if o = 0x1008 then some (.ctrlReadyHbm) else
  if o = 0x1010 then some (.ctrlReadyLake) else
  if o = 0x1018 then some (.ctrlReadyLink) else
  if o = 0x1020 then some (.ctrlReadyUnit) else
  if o = 0x1028 then some (.ctrlReadyEvent) else
  if o = 0x1030 then some (.ctrlReadyIen) else
  if o = 0x0 then some (.ctrlIdent) else
  if o = 0x8 then some (.ctrlEqx) else
  if o = 0x10 then some (.ctrlEqxCtl) else
  if o = 0x18 then some (.ctrlReq) else
  if o = 0x20 then some (.ctrlReqStatus) else
  if o = 0x28 then some (.ctrlPart) else
  none

/-- The register at an offset of block CFG, if the map lists one. -/
def Reg.ofCfg (o : Nat) : Option Reg :=
  if o = 0x0 then some (.cfgStatus) else
  if 0x8 ≤ o ∧ o < 0x18 then some (.cfgSeq ((o - 0x8) / 0x8)) else
  if o = 0x18 then some (.cfgAcceptTime) else
  none

/-- The register at an offset of block SEC, if the map lists one. -/
def Reg.ofSec (o : Nat) : Option Reg :=
  if o = 0x0 then some (.secStatus) else
  if o = 0x8 then some (.secFloor) else
  if o = 0x10 then some (.secKeys) else
  if 0x100 ≤ o ∧ o < 0x140 then some (.secExtData ((o - 0x100) / 0x8)) else
  if 0x180 ≤ o ∧ o < 0x1a0 then some (.secNonce ((o - 0x180) / 0x8)) else
  if o = 0x140 then some (.secExtCmd) else
  if o = 0x1a0 then some (.secAtt) else
  if 0x200 ≤ o ∧ o < 0x240 then some (.secIdpub ((o - 0x200) / 0x8)) else
  if 0x400 ≤ o ∧ o < 0x800 then some (.secCert ((o - 0x400) / 0x8)) else
  if 0x1000 ≤ o ∧ o < 0x1400 then some (.secMr ((o - 0x1000) / 0x200) (((o - 0x1000) % 0x200) / 0x40) ((((o - 0x1000) % 0x200) % 0x40) / 0x8)) else
  none

/-- The register at an offset of block CHK, if the map lists one. -/
def Reg.ofChk (o : Nat) : Option Reg :=
  if o = 0x0 then some (.chkStatus) else
  if o = 0x8 then some (.chkIen) else
  if 0x10000 ≤ o ∧ o < 0x20000 then
    let i := (o - 0x10000) / 0x1000
    let j := (o - 0x10000) % 0x1000
    if 0x0 ≤ j ∧ j < 0x80 ∧ ((j - 0x0) % 0x20) = 0 then some (.chkPoly i ((j - 0x0) / 0x20)) else
    if 0x8 ≤ j ∧ j < 0x88 ∧ ((j - 0x8) % 0x20) = 0 then some (.chkInit i ((j - 0x8) / 0x20)) else
    if 0x10 ≤ j ∧ j < 0x90 ∧ ((j - 0x10) % 0x20) = 0 then some (.chkXorout i ((j - 0x10) / 0x20)) else
    if 0x18 ≤ j ∧ j < 0x98 ∧ ((j - 0x18) % 0x20) = 0 then some (.chkPctl i ((j - 0x18) / 0x20)) else
    if 0x100 ≤ j ∧ j < 0x180 then some (.chkSess i ((j - 0x100) / 0x8)) else
    if j = 0x180 then some (.chkSflags i) else
    if j = 0x188 then some (.chkCnt i) else
    if j = 0x190 then some (.chkMisrec0 i) else
    if 0x198 ≤ j ∧ j < 0x1b0 then some (.chkMisrec i ((j - 0x198) / 0x8)) else
    none
  else
  none

/-- The register at an offset of block FLT, if the map lists one. -/
def Reg.ofFlt (o : Nat) : Option Reg :=
  if o = 0x0 then some (.fltStatus) else
  if o = 0x8 then some (.fltIen) else
  if o = 0x10 then some (.fltFrostEn) else
  if o = 0x18 then some (.fltFrost) else
  if o = 0x20 then some (.fltCtl) else
  if o = 0x28 then some (.fltQidx) else
  if o = 0x30 then some (.fltQlost) else
  if 0x10000 ≤ o ∧ o < 0x18000 then some (.fltQueue ((o - 0x10000) / 0x40) (((o - 0x10000) % 0x40) / 0x8)) else
  none

/-- The register at an offset of block PWR, if the map lists one. -/
def Reg.ofPwr (o : Nat) : Option Reg :=
  if o = 0x0 then some (.pwrEvent) else
  if o = 0x8 then some (.pwrIen) else
  if o = 0x10 then some (.pwrInput) else
  if o = 0x18 then some (.pwrTcfg) else
  if o = 0x20 then some (.pwrSteps) else
  if 0x100 ≤ o ∧ o < 0x120 then some (.pwrField ((o - 0x100) / 0x8)) else
  if 0x200 ≤ o ∧ o < 0x310 then some (.pwrDie ((o - 0x200) / 0x8)) else
  none

/-- The register at a local address (R30, R31); `none` where no map lists one. -/
def Reg.ofAddr (a : Nat) : Option Reg :=
  let o := (a - regBase) % 0x1000000
  match (a - regBase) / 0x1000000 with
  | 0x0 => Reg.ofGrid o
  | 0x1 => Reg.ofCore o
  | 0x2 => Reg.ofNum o
  | 0x3 => Reg.ofSync o
  | 0x4 => Reg.ofEdge o
  | 0x5 => Reg.ofHbmp o
  | 0x6 => Reg.ofSprg o
  | 0x7 => Reg.ofLake o
  | 0x8 => Reg.ofArb o
  | 0x9 => Reg.ofLink o
  | 0xa => Reg.ofChain o
  | 0xb => Reg.ofTime o
  | 0xc => Reg.ofSvc o
  | 0xd => Reg.ofCtrl o
  | 0xe => Reg.ofCfg o
  | 0xf => Reg.ofSec o
  | 0x10 => Reg.ofChk o
  | 0x11 => Reg.ofFlt o
  | 0x12 => Reg.ofPwr o
  | _ => none

end Sys2Proof.Machine
end

