-- ==== Sys2Proof/Machine/Ops.lean ====
section
/-! DEFINITION. The named operations over registers, memory, cores and the fault queue that every meaning shares. -/

namespace Sys2Proof.Machine

open Sys2Proof

/-- The answer of a meaning. -/
abbrev Out := Host.Outcome State Fault Refusal

/-- A step with a condition: the effect where it holds, no change where the event cannot come about.
[DESIGN CHOICE: log entry 10] -/
def stepIf (c : Bool) (s t : State) : Out := .next (if c then t else s)

/-! ### Power and frost -/

/-- The module is out of reset: RESET_N and PWR_GOOD high, SYSCLK good (R416, R422, R423). -/
def State.live (s : State) : Bool :=
  s.power.resetN && s.power.pwrGood && s.power.sysclkGood

/-- Out of reset and not in frost: work goes on (R413). -/
def State.working (s : State) : Bool := s.live && !s.faults.inFrost

/-- The device ID in force (R370). -/
def State.dev (s : State) : Nat := s.config.devid

/-- What an address of the local map reaches on this part. -/
def State.region (s : State) (a : Nat) : Region := regionOf s.part.l1t s.config.interleave a

/-! ### Registers held as words -/

/-- The value of a register that is no other field's (log entry 6). -/
def State.reg (s : State) (r : Reg) : Word := SMap.getD s.regs r.addr r.reset

/-- The register set. -/
def State.setReg (s : State) (r : Reg) (v : Word) : State :=
  { s with regs := SMap.set s.regs r.addr v r.reset }

/-- Bits of a register. -/
def State.regFld (s : State) (r : Reg) (lo n : Nat) : Nat := Word.fld (s.reg r) lo n

/-- One bit of a register. -/
def State.regBit (s : State) (r : Reg) (i : Nat) : Bool := Word.bit (s.reg r) i

/-- A bit of a register set to 1. -/
def State.setBit (s : State) (r : Reg) (i : Nat) : State := s.setReg r (Word.putBit (s.reg r) i true)

/-- Bits of a register replaced. -/
def State.putFld (s : State) (r : Reg) (lo n x : Nat) : State := s.setReg r (Word.put (s.reg r) lo n x)

/-- A saturating count in a register raised by n. -/
def State.countReg (s : State) (r : Reg) (lo w n : Nat) : State := s.setReg r (Word.count (s.reg r) lo w n)

/-- A largest-value field of a register raised to x. -/
def State.raiseReg (s : State) (r : Reg) (lo w x : Nat) : State := s.setReg r (Word.raise (s.reg r) lo w x)

/-! ### Memory

HBM, the lake and the core stores are one list of cells by local address (R24). A byte that nothing has written reads as 0
(log entry 7: DESIGN CHOICE, unsafe). -/

/-- What an unlisted byte reads as. [DESIGN CHOICE: log entry 7] -/
def Memory.blank : Byte := 0

/-- The byte at an address. -/
def Memory.read (m : List Host.Cell) (a : Nat) : Byte := SMap.getD m a Memory.blank

/-- A byte written. -/
def Memory.write (m : List Host.Cell) (a : Nat) (b : Byte) : List Host.Cell := SMap.set m a b Memory.blank

/-- The n bytes from an address. -/
def Memory.readN (m : List Host.Cell) (a : Nat) : Nat → List Byte
  | 0 => []
  | n + 1 => Memory.read m a :: Memory.readN m (a + 1) n

/-- Bytes written from an address on. -/
def Memory.writeN (m : List Host.Cell) (a : Nat) : List Byte → List Host.Cell
  | [] => m
  | b :: bs => Memory.writeN (Memory.write m a b) (a + 1) bs

/-- The canonical form of memory: addresses strictly rising, no byte listed at its blank value. -/
def Memory.wf (m : List Host.Cell) : Bool := SMap.wf Memory.blank m

/-- The n bytes of memory from an address. -/
def State.memBytes (s : State) (a n : Nat) : List Byte := Memory.readN s.mem a n

/-- Bytes stored from an address on. -/
def State.memStore (s : State) (a : Nat) (bs : List Byte) : State := { s with mem := Memory.writeN s.mem a bs }

/-- The number that n bytes of memory spell. -/
def State.memNat (s : State) (a n : Nat) : Nat := ofBytes (s.memBytes a n)

/-! ### The fault queue (R401 to R405) -/

/-- A record of a class, cause and action at a source, with no context, instruction or address. -/
def Rec.of (s : State) (cls cause action kind num : Nat) : Rec :=
  ⟨cls, cause, action, kind, num, 0xFF, s.dev, 0xFFFF, 0, 0, 0, 0⟩

/-- A class that always brings frost (R403), or THERMAL cause 2 or 3, or a class enabled in FLT_FROST_EN. -/
def bringsFrost (s : State) (cls cause : Nat) : Bool :=
  if cls = 14 then cause = 2 || cause = 3
  else cls = 12 || cls = 13 || cls = 15 || cls = 17 || cls = 18 || cls = 19 || s.regBit .fltFrostEn (cls - 1)

/-- The 64 bytes of a record (R402). [DESIGN CHOICE: log entry 50] -/
def Rec.bits (r : Rec) (seq action flags : Nat) (time prog : Word) : BitVec 512 :=
  BitVec.ofNat 512 (packNat 8 [r.cls, r.cause, action, flags] * 2 ^ 32 + seq % 2 ^ 32
    + time.toNat * 2 ^ 64
    + (r.kind % 256 + r.ctx % 256 * 2 ^ 8 + r.num % 65536 * 2 ^ 16 + r.dev % 2048 * 2 ^ 32 + r.iaddr % 65536 * 2 ^ 48) * 2 ^ 128
    + r.addr % 2 ^ 64 * 2 ^ 192 + prog.toNat * 2 ^ 256
    + (r.d0.toNat + r.d1.toNat * 2 ^ 64 + r.d2.toNat * 2 ^ 128) * 2 ^ 320)

/-- A grid program image runs (R172, R402): some context is not DISABLED. [DESIGN CHOICE: log entry 50] -/
def State.programRuns (s : State) : Bool := s.cores.any fun c => c.2.f.state ≠ .disabled || c.2.b.state ≠ .disabled

/-- A record enters the queue, with frost sent when `frost` holds (R401, R405, R412). A record with no other effect that brings
frost carries ACTION 6, raised in frost its local effect alone (R402). PROGRAM_ID is 0 while no program runs. -/
def enterRec (s : State) (r : Rec) (frost : Bool) : State :=
  let f := s.faults
  let seq := f.seq
  let full := f.tail - f.head = 512
  let flags := (if f.lostDue then 1 else 0) + (if f.inFrost then 2 else 0) + (if r.dev = s.dev then 0 else 4)
  let action := if frost && !f.inFrost && r.action = 0 then 6 else r.action
  let s := s.setBit .fltStatus (r.cls - 1)
  let s := if full then s.countReg .fltQlost 0 32 1 else s
  { s with faults :=
    { f with
      seq := seq + 1
      tail := if full then f.tail else f.tail + 1
      recs := if full then f.recs
        else SMap.set f.recs (f.tail.toNat % 512) (r.bits seq.toNat action flags s.time.ns
          (if s.programRuns then s.programId else 0)) 0
      lostDue := full
      signal := if frost && f.signal.isNone then some (r.cls, r.cause, seq) else f.signal } }

/-- A record raised: while a command that may raise several is carried out, it waits for their common order. -/
def raiseWith (s : State) (r : Rec) (frost : Bool) : State :=
  match s.faults.batch with
  | some rs => { s with faults := { s.faults with batch := some (rs ++ [(r, frost)]) } }
  | none => enterRec s r frost

/-- A record put after those of its class and of lower classes. -/
def placeRec (r : Rec × Bool) : List (Rec × Bool) → List (Rec × Bool)
  | [] => [r]
  | x :: xs => if x.1.cls ≤ r.1.cls then x :: placeRec r xs else r :: x :: xs

/-- Records in the order of their classes. -/
def sortRecs (rs : List (Rec × Bool)) : List (Rec × Bool) := rs.foldl (fun xs r => placeRec r xs) []

/-- What a command does, its records entering the queue in the order of their classes, those of one class as they came (R401); the frost
signal is then that of the lowest class (R412). -/
def byClass (f : State → State) (s : State) : State :=
  match s.faults.batch with
  | some _ => f s
  | none =>
    let t := f { s with faults := { s.faults with batch := some [] } }
    (sortRecs (t.faults.batch.getD [])).foldl (fun t r => enterRec t r.1 r.2)
      { t with faults := { t.faults with batch := none } }

/-- A record raised (R401 to R405). [DEDUCED: log entry 91] -/
def raiseRec (s : State) (r : Rec) : State := raiseWith s r (bringsFrost s r.cls r.cause)

/-! ### Cores -/

/-- A core; one not listed is as after reset. -/
def State.core (s : State) (c : Nat) : Core := SMap.getD s.cores c Core.reset

/-- A core replaced. -/
def State.setCore (s : State) (c : Nat) (x : Core) : State := { s with cores := SMap.set s.cores c x Core.reset }

/-- A context of a core. -/
def Core.ctx (c : Core) (x : Ctx) : Context :=
  match x with
  | .F => c.f
  | .B => c.b

/-- A context of a core replaced. -/
def Core.setCtx (c : Core) (x : Ctx) (y : Context) : Core :=
  match x with
  | .F => { c with f := y }
  | .B => { c with b := y }

/-- A context of the machine. -/
def State.ctx (s : State) (k : CtxAt) : Context := (s.core k.core).ctx k.ctx

/-- A context of the machine replaced. -/
def State.setCtx (s : State) (k : CtxAt) (x : Context) : State :=
  s.setCore k.core ((s.core k.core).setCtx k.ctx x)

/-- The number of cores (R11). -/
def coreCount : Nat := 768

/-- Register s0 reads as 0 (R42); another reads what was last written, or 0. -/
def Context.s (c : Context) (n : BitVec 5) : Word := if n = 0 then 0 else SMap.getD c.sregs n.toNat 0

/-- A write of an s register; a write of s0 is discarded (R42). -/
def Context.setS (c : Context) (n : BitVec 5) (v : Word) : Context :=
  if n = 0 then c else { c with sregs := SMap.set c.sregs n.toNat v 0 }

/-- A v register. -/
def Context.v (c : Context) (n : BitVec 5) : BitVec 1536 := SMap.getD c.vregs n.toNat 0

/-- A write of a v register. -/
def Context.setV (c : Context) (n : BitVec 5) (v : BitVec 1536) : Context :=
  { c with vregs := SMap.set c.vregs n.toNat v 0 }

/-- The next index of an instruction (R41, R146): modulo 8,192. -/
def pcAdd (pc : Nat) (d : Int) : Nat := ((pc + d) % 8192).toNat

/-- A TCFG entry (R48). -/
def Context.cfg (c : Context) (t : Nat) : BitVec 32 := SMap.getD c.tcfg t 0

def cfgRows (e : BitVec 32) : Nat := fld e.toNat 0 6
def cfgCols (e : BitVec 32) : Nat := fld e.toNat 8 8
def cfgFmt (e : BitVec 32) : Nat := fld e.toNat 16 4

/-! ### Tile state (R47, R54, R117) -/

/-- A row of a tile register. -/
def Core.tileRow (c : Core) (t r : Nat) : BitVec 768 := SMap.getD c.tiles (t * 64 + r) 0

/-- The scale bytes of a row of a tile register. -/
def Core.scaleRow (c : Core) (t r : Nat) : BitVec 48 := SMap.getD c.scales (t * 64 + r) 0

/-- The 48 elements of a row of an accumulator. -/
def Core.accRow (c : Core) (a r : Nat) : List (BitVec 34) :=
  (unpackNat 34 48 (SMap.getD c.accs (a * 64 + r) 0).toNat).map (BitVec.ofNat 34)

def Core.setTileRow (c : Core) (t r : Nat) (v : BitVec 768) : Core :=
  { c with tiles := SMap.set c.tiles (t * 64 + r) v 0 }

def Core.setScaleRow (c : Core) (t r : Nat) (v : BitVec 48) : Core :=
  { c with scales := SMap.set c.scales (t * 64 + r) v 0 }

def Core.setAccRow (c : Core) (a r : Nat) (vs : List (BitVec 34)) : Core :=
  { c with accs := SMap.set c.accs (a * 64 + r) (BitVec.ofNat 1632 (packNat 34 (vs.map BitVec.toNat))) 0 }

/-- The tiles that a set of latched weights came from (R57). -/
def WLatch.tiles (w : WLatch) : List Nat := if w.pair then [w.src, w.src + 1] else [w.src]

/-- A latch that a write of a tile leaves valid (R57). -/
def keepLatch (t : Nat) (l : Option WLatch) : Option WLatch :=
  match l with
  | some w => if w.tiles.contains t then none else some w
  | none => none

/-- The tiles that the reuse latch holds: a pair where the entry is of a pair form, FP32 or CX16. -/
def ReuseLatch.tiles (r : ReuseLatch) : List Nat :=
  if cfgFmt r.cfg = 0 || cfgFmt r.cfg = 11 then [r.tile, r.tile + 1] else [r.tile]

/-- What a write of tile t ends: weights latched from it in the writing context (R57), an operand held from it in the reuse
latch (R97), and the bad parity of its old contents (log entry 8). -/
def Core.wroteTile (c : Core) (x : Ctx) (t : Nat) : Core :=
  let y := c.ctx x
  let c := c.setCtx x { y with latch := keepLatch t y.latch, shadow := keepLatch t y.shadow }
  { c with
    badParity := c.badParity.filter (· ≠ t)
    reuse := c.reuse.filter fun r => !r.tiles.contains t }

/-! ### The core store (R43, R45, R150) -/

/-- An access of n bytes at a byte offset reaches beyond the store (R150). -/
def storeRange (off : Int) (n : Nat) : Bool := off < 0 || (storeSize : Int) < off + n

/-- The core-store address fault of an access: RANGE 1 or ALIGN 2, RANGE first (R150). The offset is a register value plus an
immediate modulo 2^64. -/
def storeFault (off : Word) (n align : Nat) : Option Nat :=
  if storeSize < off.toNat + n then some 1 else if off.toNat % align ≠ 0 then some 2 else none

/-- The words of a core store that an access covers are read, from word w on: a single-bit error is corrected, written back and
counted (R45). The answer says whether no word has a double-bit error. -/
def storeCheck (c : Nat) : Nat → Nat → State → Bool × State
  | _, 0, s => (true, s)
  | w, n + 1, s =>
    match SMap.get? s.marks (storeAddr c (8 * w)) with
    | none => storeCheck c (w + 1) n s
    | some .corr =>
      storeCheck c (w + 1) n
        (({ s with marks := SMap.erase s.marks (storeAddr c (8 * w)) } : State).countReg (.coreEcc c) 0 32 1)
    | some (.bad _) => (false, (storeCheck c (w + 1) n s).2)

/-- The words of 8 bytes that n bytes at an offset touch. -/
def wordCount (off n : Nat) : Nat := if n = 0 then 0 else (off + n - 1) / 8 - off / 8 + 1

/-- A read of n bytes of a core store: the bytes, none where a word is uncorrectable, and the state after corrections (R45). -/
def storeRead (s : State) (c off n : Nat) : Option (List Byte) × State :=
  match storeCheck c (off / 8) (wordCount off n) s with
  | (true, t) => (some (s.memBytes (storeAddr c off) n), t)
  | (false, t) => (none, t)

/-- The offset of the first uncorrectable word of n words from word w on; of word w where there is none. -/
def badWord (s : State) (c w n : Nat) : Nat :=
  let bad (k : Nat) : Bool := match SMap.get? s.marks (storeAddr c (8 * (w + k))) with
    | some (.bad _) => true
    | _ => false
  8 * (w + ((List.range n).find? bad).getD 0)

/-- The offset that the record of a failed read of n bytes names: that of its first uncorrectable word (R403, R406). -/
def badOffset (s : State) (c off n : Nat) : Nat := badWord s c (off / 8) (wordCount off n)

/-- The marks of the words that a write covers whole are gone. -/
def clearMarks (m : SMap Mark) (a n : Nat) : SMap Mark :=
  m.filter fun p => !(decide (a ≤ p.1) && decide (p.1 + 8 ≤ a + n))

/-- A write of bytes to a core store; it carries fresh ECC for the words it covers whole. -/
def storeWrite (s : State) (c off : Nat) (bs : List Byte) : State :=
  { s.memStore (storeAddr c off) bs with marks := clearMarks s.marks (storeAddr c off) bs.length }

/-! ### Faults of a context (R66, R139, R151, R406) -/

/-- The source fields of a record about a context (R402). -/
def ctxRec (s : State) (k : CtxAt) (cls cause pc : Nat) : Rec :=
  { Rec.of s cls cause 1 0 k.core with ctx := ctxNum k.ctx, iaddr := pc }

/-- A context on its way to FAULTED, which will show pc; an earlier fault of the same context stands (R66). -/
def Context.stop (c : Context) (pc : Nat) : Context :=
  match c.hold with
  | .faulting _ => c
  | _ => { c with hold := .faulting pc }

/-- A fault of a context at an instruction: the record is raised and the context issues nothing further (R66, R151). -/
def faultCtx (s : State) (k : CtxAt) (pc : Nat) (r : Rec) : State :=
  let s := raiseRec s r
  s.setCtx k ((s.ctx k).stop pc)

/-- The word of CTX_TSTART (R78). -/
def Context.tstartWord (c : Context) : Word := c.tstart.zeroExtend 64

/-- A tile-shape fault (R64, R65): it changes nothing but the context's way to FAULTED. -/
def tileFault (s : State) (k : CtxAt) (pc cause tile : Nat) : State :=
  faultCtx s k pc { ctxRec s k 1 cause pc with d0 := BitVec.ofNat 64 tile, d1 := (s.ctx k).tstartWord }

/-- The register block (R30) that the record of an uncontained error names. The bridges have no block of their own; they serve the
clusters, whose block is CTRL. [DESIGN CHOICE: log entry 101] -/
def Stored.block : Stored → Nat
  | .ringIndex _ => 4
  | .slotTable _ => 0
  | .routes _ => 9
  | .arbiter _ => 8
  | .bridge _ => 13
  | .timeUnit _ => 11

/-- The kind and number of the unit that stored it (R402); the two halves stand for their route tables and bridges.
[DESIGN CHOICE: log entry 101] -/
def Stored.source : Stored → Nat × Nat
  | .ringIndex r => (1, r)
  | .slotTable c => (2, c)
  | .routes h => (12, halfNum h)
  | .arbiter a => if a < 16 then (3, a) else if a < 32 then (4, 4 * (a - 16)) else (6, a - 32)
  | .bridge h => (12, halfNum h)
  | .timeUnit h => (10, halfNum h)

/-- A use of stored state (R406, R408): an uncorrectable error in it is class INTERNAL, which brings frost, in place of what the use would
have done. -/
def useStored (u : Stored) (s t : State) : State :=
  if s.broken.contains u then
    raiseRec { s with broken := s.broken.filter (· ≠ u) }
      { Rec.of s 19 1 6 u.source.1 u.source.2 with d0 := BitVec.ofNat 64 u.block }
  else t

/-- A record of class ECC (R403): word 0 is the syndrome of the failed word, whose code the spec does not give, so it is a free
value (log entry 1). -/
def raiseEcc (s : State) (r : Rec) : State :=
  raiseRec { s with free := s.free + 1 } { r with d0 := Config.freeBits 64 s.free }

/-- An uncorrectable error of stored core state (R406), class ECC. -/
def eccFault (s : State) (k : CtxAt) (pc cause addr : Nat) : State :=
  let s := raiseEcc s { ctxRec s k 5 cause pc with addr := addr }
  s.setCtx k ((s.ctx k).stop pc)

/-- The record of an uncorrectable word of a core store that no context reads (R403 class 5): it names the core and the word.
[DEDUCED: log entry 86] -/
def storeEcc (s : State) (c off : Nat) : State := raiseEcc s { Rec.of s 5 1 0 0 c with addr := off }

/-! ### Ready bits (R33 to R38) -/

/-- The register and bit of a function's ready bit (R37). -/
def fnBit : Fn → Reg × Nat
  | .field n => (.ctrlReadyGrid, n % 4)
  | .stitch n => (.ctrlReadyGrid, 4 + n % 4)
  | .stack n => (.ctrlReadyHbm, n % 16)
  | .spring n => (.ctrlReadyHbm, 16 + n % 16)
  | .lake n => (.ctrlReadyLake, n % 64)
  | .link n => (.ctrlReadyLink, n % 36)
  | .chk n => (.ctrlReadyUnit, n % 16)
  | .cluster h => (.ctrlReadyUnit, 16 + halfNum h)
  | .mgmt h => (.ctrlReadyUnit, 18 + halfNum h)
  | .time h => (.ctrlReadyUnit, 20 + halfNum h)

/-- The bit of CTRL_READY_EVENT that a rise sets. -/
def fnEvent : Fn → Nat
  | .field _ => 0
  | .stitch _ => 0
  | .stack _ => 1
  | .spring _ => 1
  | .lake _ => 2
  | .link _ => 3
  | .chk _ => 4
  | .cluster _ => 4
  | .mgmt _ => 4
  | .time _ => 4

/-- A function that may come back within one thaw (R35). -/
def returns : Fn → Bool
  | .link _ => true
  | .mgmt _ => true
  | _ => false

/-- A function is ready. -/
def State.ready (s : State) (f : Fn) : Bool := s.regBit (fnBit f).1 (fnBit f).2

/-- A ready bit rises and its event bit sets (R35, R38); a bit already 1 does not rise. -/
def State.rise (s : State) (f : Fn) : State :=
  if s.ready f then s else (s.setBit (fnBit f).1 (fnBit f).2).setBit .ctrlReadyEvent (fnEvent f)

/-- A function rises, at a time that the thaw remembers (R35, R36). -/
def State.riseNoted (s : State) (f : Fn) : State :=
  let s := s.rise f
  { s with config := { s.config with rises := (f, s.time.elapsed) :: s.config.rises.filter fun p => p.1 ≠ f } }

/-- A ready bit falls and FELL sets (R35); a bit already 0 does not fall. -/
def State.fall (s : State) (f : Fn) : State :=
  if s.ready f then (s.setReg (fnBit f).1 (Word.putBit (s.reg (fnBit f).1) (fnBit f).2 false)).setBit .ctrlReadyEvent 5 else s

end Sys2Proof.Machine
end

