-- ==== Sys2Proof/Machine/Flags.lean ====
section
/-! DEFINITION. The sticky numeric flags of every engine and the NaN trap (R137 to R141). -/

namespace Sys2Proof.Machine

open Sys2Proof

/-- The place of a context's flags in NUM_CORE_FLAGS (R141): array flags, or vector flags. -/
def coreFlagsAt (x : Ctx) (vector : Bool) : Nat :=
  (match x with
    | .F => 0
    | .B => 8) + (if vector then 4 else 0)

/-- Flags added to a register's 4-bit field; a flag stays set until software clears it (R137). -/
def addFlags (s : State) (r : Reg) (lo : Nat) (fl : NFlags) : State :=
  s.putFld r lo 4 ((s.reg r).toNat / 2 ^ lo % 16 ||| fl.toNat)

/-- Array or vector flags of a context set (R137). -/
def addCtxFlags (s : State) (k : CtxAt) (vector : Bool) (fl : NFlags) : State :=
  addFlags s (.numCoreFlags k.core) (coreFlagsAt k.ctx vector) fl

/-- Flags of an edge engine set (R128). -/
def addEdgeFlags (s : State) (e : Nat) (fl : NFlags) : State := addFlags s (.numEdgeFlags e) 0 fl

/-- Flags of a spring set. -/
def addSpringFlags (s : State) (n : Nat) (fl : NFlags) : State := addFlags s (.numSprgFlags n) 0 fl

/-- The OR of 4-bit fields over the registers numbered below n. -/
def orFields (s : State) (r : Nat → Reg) (los : List Nat) : Nat → Nat
  | 0 => 0
  | n + 1 => los.foldl (fun a lo => a ||| s.regFld (r n) lo 4) (orFields s r los n)

/-- NUM_SUMMARY (R141). -/
def numSummary (s : State) : Word :=
  BitVec.ofNat 64 (packNat 4 [orFields s .numCoreFlags [0, 8] 768, orFields s .numCoreFlags [4, 12] 768,
    orFields s .numSprgFlags [0] 16, orFields s .numEdgeFlags [0] 64])

/-- The layout of NUM_NANREC0 for a trap (R141): unit 0 array, 1 vector, 2 spring, 3 edge. -/
def nanRec0 (unit ctx source op addr : Nat) : Word :=
  BitVec.ofNat 64 (2 ^ 63 + unit % 4 * 2 ^ 61 + ctx % 2 * 2 ^ 60 + source % 1024 * 2 ^ 50 + op % 256 * 2 ^ 42
    + addr % 8192)

/-- A source traps: MODE is TRAP and its enable bit is set (R138). -/
def trapOn (s : State) (bit : Nat) : Bool := s.regBit .numCtl 0 && s.regBit .numCtl bit

/-- The enable bit of a context in NUM_CTL. -/
def ctxTrapBit : Ctx → Nat
  | .F => 4
  | .B => 5

/-- A NaN trap: counted, recorded in NUM_NANREC when that is free, and a fault record raised (R138, R403 class 6). -/
def nanTrap (s : State) (rec0 : Word) (r : Rec) : State :=
  let s := s.countReg .numNancnt 0 32 1
  let s := if s.regBit .numNanrec0 63 then s
    else (s.setReg .numNanrec0 rec0).setReg .numNanrec1 s.time.ns
  raiseRec s { r with d0 := rec0 }

/-- A NaN in the result of an instruction (R138, R139): in TRAP mode the context issues nothing further, and will be FAULTED
with CTX_PC at its first instruction not issued. -/
def nanCtx (s : State) (k : CtxAt) (unit op pc : Nat) : State :=
  if trapOn s (ctxTrapBit k.ctx) then
    let s := nanTrap s (nanRec0 unit (ctxNum k.ctx) k.core op pc) (ctxRec s k 6 (unit + 1) pc)
    let c := s.ctx k
    s.setCtx k (match c.hold with
      | .scWait w => { c with hold := .scWait { w with trapped := true } }
      | _ => c.stop c.pc)
  else s

end Sys2Proof.Machine
end

