-- ==== Sys2Proof/Machine/Desc.lean ====
section
/-! DEFINITION. The fields of a descriptor (R226, R392), and the springs and check units it may go to (R260, R388, R394, R398). -/

namespace Sys2Proof.Machine

open Sys2Proof

/-! ### Descriptor fields (R226) -/

/-- n bytes at an offset of a descriptor. -/
def dfld (d : BitVec 512) (off n : Nat) : Nat := fld d.toNat (8 * off) (8 * n)

def dKind (d : BitVec 512) : Nat := dfld d 0 1
def dFlags (d : BitVec 512) : Nat := dfld d 1 1
def dSfmt (d : BitVec 512) : Nat := dfld d 2 1
def dTfmt (d : BitVec 512) : Nat := dfld d 3 1
def dRmode (d : BitVec 512) : Nat := dfld d 4 1
def dUnit (d : BitVec 512) : Nat := dfld d 6 2
def dSrc (d : BitVec 512) : Nat := dfld d 8 8
def dDst (d : BitVec 512) : Nat := dfld d 0x10 8
def dRows (d : BitVec 512) : Nat := dfld d 0x18 4
def dElems (d : BitVec 512) : Nat := dfld d 0x1C 4
def dSstride (d : BitVec 512) : Nat := dfld d 0x20 4
def dDstride (d : BitVec 512) : Nat := dfld d 0x24 4
def dSeed (d : BitVec 512) : Nat := dfld d 0x28 8
def dIndex (d : BitVec 512) : Nat := dfld d 0x30 8
def dInc (d : BitVec 512) : Nat := dfld d 0x38 8

/-- The control word of a CHK descriptor (R392). -/
def chkSession (d : BitVec 512) : Nat := fld (dIndex d) 0 4
def chkPset (d : BitVec 512) : Nat := fld (dIndex d) 4 2
def chkStart (d : BitVec 512) : Bool := fld (dIndex d) 6 1 = 1
def chkFinal (d : BitVec 512) : Bool := fld (dIndex d) 7 1 = 1
def chkCompare (d : BitVec 512) : Bool := fld (dIndex d) 8 1 = 1
def chkGate (d : BitVec 512) : Bool := fld (dIndex d) 9 1 = 1

/-! ### Springs and check units -/

/-- A spring; one not listed is as after reset. -/
def State.spring (s : State) (n : Nat) : Spring := SMap.getD s.springs n Spring.reset
def State.setSpring (s : State) (n : Nat) (x : Spring) : State := { s with springs := SMap.set s.springs n x Spring.reset }
def State.modSpring (s : State) (n : Nat) (f : Spring → Spring) : State := s.setSpring n (f (s.spring n))

/-- HELD (R285). -/
def Spring.held (x : Spring) : Bool := x.failC.isSome || x.failM.isSome

/-- SPRG_STATE (R288). -/
def Spring.stateWord (x : Spring) : Word :=
  let st := if x.out then 3 else if x.held then 2 else if x.trapped then 1 else 0
  BitVec.ofNat 64 (st + x.held.toNat * 4 + x.trapped.toNat * 8 + x.queue.length * 2 ^ 8 + x.compute.isSome.toNat * 2 ^ 16
    + x.move.isSome.toNat * 2 ^ 17)

/-- A check unit; one not listed is as after reset. -/
def State.chkUnit (s : State) (u : Nat) : ChkUnit := SMap.getD s.chks u ChkUnit.reset
def State.setChkUnit (s : State) (u : Nat) (x : ChkUnit) : State := { s with chks := SMap.set s.chks u x ChkUnit.reset }

/-- A session of a check unit. -/
def State.session (s : State) (u n : Nat) : Session := SMap.getD (s.chkUnit u).sessions n Session.reset
def State.setSession (s : State) (u n : Nat) (x : Session) : State :=
  s.setChkUnit u { s.chkUnit u with sessions := SMap.set (s.chkUnit u).sessions n x Session.reset }

/-- The values of a parameter set: POLY, INIT, XOROUT, PCTL (R389). -/
def paramSet (s : State) (u p : Nat) : List Word :=
  [s.reg (.chkPoly u p), s.reg (.chkInit u p), s.reg (.chkXorout u p), s.reg (.chkPctl u p)]

/-- A session as a descriptor of a ring begins (R389, R390, R394, R398): the same descriptor again finds the register it began with; START
loads INIT and ends BROKEN; the parameter set is the one that the last START named, P0 before any, as it stands now. [DEDUCED: log entry 43] -/
def beginSession (s : State) (u r : Nat) (d : BitVec 512) : Session :=
  let x := s.session u (chkSession d)
  let x := if x.broken && x.latest = some (r, d) then { x with crc := x.before, broken := false } else x
  let p := if chkStart d then chkPset d else x.pset
  let x := { x with before := x.crc, latest := some (r, d), pset := p, params := paramSet s u p }
  if chkStart d then { x with crc := s.reg (.chkInit u p), broken := false } else x

/-- A session is BROKEN (R398). -/
def markBroken (s : State) (u n : Nat) : State := s.setSession u n { s.session u n with broken := true }

/-- A descriptor ends part way through: its session is BROKEN (R398). -/
def breakSession (s : State) (u r : Nat) (d : BitVec 512) : State :=
  s.setSession u (chkSession d) { beginSession s u r d with broken := true }

end Sys2Proof.Machine
end

