-- ==== Sys2Proof/Machine/Ring.lean ====
section
/-! DEFINITION. Rings (R222 to R226, R231): their configuration, the descriptors at their head and in flight, their errors. -/

namespace Sys2Proof.Machine

open Sys2Proof

/-- The number of rings (R14). -/
def ringCount : Nat := 8192

/-- A ring; one not listed is as after reset. -/
def State.ring (s : State) (r : Nat) : Ring := SMap.getD s.rings r Ring.reset

/-- A ring replaced. -/
def State.setRing (s : State) (r : Nat) (x : Ring) : State := { s with rings := SMap.set s.rings r x Ring.reset }

/-- A ring changed in place. -/
def State.modRing (s : State) (r : Nat) (f : Ring → Ring) : State := s.setRing r (f (s.ring r))

/-- The fields of EDGE_RING_CFG (R257). -/
def ringFrame (s : State) (r : Nat) : Bool := s.regBit (.edgeRingCfg r) 24
def ringOwner (s : State) (r : Nat) : CtxAt :=
  ⟨s.regFld (.edgeRingCfg r) 14 10, if s.regBit (.edgeRingCfg r) 13 then .F else .B⟩
def ringSize (s : State) (r : Nat) : Nat := 2 ^ s.regFld (.edgeRingCfg r) 36 4
def ringRecords (s : State) (r : Nat) : Bool := s.regBit (.edgeRingCfg r) 35
def ringStreamFed (s : State) (r : Nat) : Bool := s.regBit (.edgeRingCfg r) 34
def ringFeed (s : State) (r : Nat) : Nat := s.regFld (.edgeRingCfg r) 29 5
/-- The virtual channel of remote traffic (R224): VC1 for an F ring. -/
def ringVc (s : State) (r : Nat) : Nat := if ringFrame s r then 1 else s.regFld (.edgeRingCfg r) 25 4
/-- The requester of a ring's traffic at every arbiter (R252). -/
def ringRequester (s : State) (r : Nat) : Nat := 2 * ringEngine r + (ringFrame s r).toNat

/-- A job of a ring, by ring index. -/
def Ring.job (x : Ring) (i : BitVec 32) : Option Job := x.jobs.find? fun j => j.idx = i

/-- A job replaced. -/
def Ring.putJob (x : Ring) (j : Job) : Ring := { x with jobs := x.jobs.map fun y => if y.idx = j.idx then j else y }

/-- The oldest job that has failed. -/
def Ring.failedJob (x : Ring) : Option Job := x.jobs.find? fun j =>
  match j.stage with
  | .failed _ => true
  | _ => false

/-- The cause of a failed job. -/
def Job.cause (j : Job) : Nat :=
  match j.stage with
  | .failed c => c
  | _ => 0

/-- A record of class RING (R403). -/
def ringRec (s : State) (r : Nat) (cause : Nat) (idx : BitVec 32) : Rec :=
  { Rec.of s 8 cause 2 1 r with d0 := idx.zeroExtend 64 }

/-- A ring enters ERROR, unless an earlier failure holds it there already or it is being reset (R225, R231). -/
def enterError (s : State) (r : Nat) (cause : Nat) (idx : BitVec 32) : State :=
  let x := s.ring r
  if x.state = .error || x.state = .resetting then s
  else (s.setRing r { x with state := .error, cause := cause, failIdx := idx }).setBit .edgeStatus 0

/-- The requests of a job come to nothing: those not accepted are not issued; what is under way is returned to nobody, its
ring index moved half the range away from any descriptor's. -/
def dropWork (s : State) (r : Nat) (i : BitVec 32) : State :=
  let far : BitVec 32 := i + 0x80000000
  { s with
    far := s.far.filter fun q => !(q.ring = r && q.idx = i)
    reqs := (s.reqs.filter fun q => !(q.ring = r && q.idx = i && !q.accepted)).map fun q =>
      if q.ring = r && q.idx = i then { q with idx := far } else q
    tags := s.tags.map fun t => if !t.spring && t.ring = r && t.idx = i then { t with idx := far } else t }

/-- A descriptor of a ring fails with a cause (R231): its record, and the ring's way to ERROR. -/
def failJob (s : State) (r : Nat) (i : BitVec 32) (cause : Nat) : State :=
  match if s.working then (s.ring r).job i else none with
  | none => s
  | some j =>
    match j.stage with
    | .failed _ => s
    | _ =>
      let s := raiseRec s (ringRec s r cause i)
      let s := s.modRing r fun x => x.putJob { j with stage := .failed cause, out := 0 }
      let s := if cause = 10 && dKind j.desc = 11 then markBroken s (dUnit j.desc) (chkSession j.desc) else s
      enterError (dropWork s r i) r cause i

/-- An address error of a ring (R25, R364, R403): the ADDRESS record beside the RING record. [DEDUCED: log entry 87] -/
def failAddress (s : State) (r : Nat) (i : BitVec 32) (addr cause : Nat) : State :=
  byClass (fun s => failJob (raiseRec s { Rec.of s 4 cause 2 1 r with addr := addr }) r i 5) s

/-! ### Edge streams (R220, R221) -/

def xsFromGrid (s : State) (e n : Nat) : Bool := s.regBit (.edgeXsCfg e n) 31
def xsBeats (s : State) (e n : Nat) : Nat := s.regFld (.edgeXsCfg e n) 24 7
def xsSize (s : State) (e n : Nat) : Nat := s.regFld (.edgeXsCfg e n) 12 12
def xsBase (s : State) (e n : Nat) : Nat := s.regFld (.edgeXsCfg e n) 0 11

/-- The capacity C in instances. -/
def xsCap (s : State) (e n : Nat) : Nat := xsSize s e n / xsBeats s e n

/-- An edge stream; one not listed is as after reset. -/
def State.xs (s : State) (e n : Nat) : EdgeStream := SMap.getD s.streams (e * 32 + n) EdgeStream.reset

/-- An edge stream changed in place. -/
def State.modXs (s : State) (e n : Nat) (f : EdgeStream → EdgeStream) : State :=
  { s with streams := SMap.set s.streams (e * 32 + n) (f (s.xs e n)) EdgeStream.reset }

/-- FILLED or DRAINED. -/
def State.xsCount (s : State) (e n : Nat) : BitVec 32 := (s.xs e n).count
def State.setXsCount (s : State) (e n : Nat) (v : BitVec 32) : State := s.modXs e n fun x => { x with count := v }

/-- An instance of descriptors of a stream-fed ring counts as DRAINED once its last has started (R222). -/
def consumeEntry (s : State) (r : Nat) (i : BitVec 32) : State :=
  let e := ringEngine r
  let n := ringFeed s r
  if ringStreamFed s r && (i.toNat + 1) % (6 * xsBeats s e n) = 0 then s.setXsCount e n (s.xsCount e n + 1) else s

/-- A descriptor starts: it is in flight, and SI names the next (R222, R226). -/
def startJob (s : State) (r : Nat) (desc : BitVec 512) (st : JobStage) : State :=
  consumeEntry (s.modRing r fun x =>
    { x with
      jobs := x.jobs ++ [⟨x.si, desc, st, 0, [], 0, 0, false, false, false, 0⟩]
      si := x.si + 1
      head := none
      copy := none }) r (s.ring r).si

/-- The descriptor at the head of a ring fails before it starts (R231): it is not in flight and SI still names it; the engine
keeps a copy where it could be fetched. [DEDUCED: log entry 85] -/
def failHead (s : State) (r : Nat) (desc : Option (BitVec 512)) (cause : Nat) : State :=
  let i := (s.ring r).si
  if s.working then
    let s := raiseRec s (ringRec s r cause i)
    enterError (s.modRing r fun x => { x with head := none, copy := desc }) r cause i
  else s

end Sys2Proof.Machine
end

