-- ==== Sys2Proof/Machine/Operands.lean ====
section
/-! DEFINITION. The instruction word (R142 to R144), the checks made of it at issue (R149, R163), the operand forms of the
instructions, and the issue of an instruction by a context (R41, R145, R147, R151, R170). -/

namespace Sys2Proof.Machine

open Sys2Proof

/-! ### The word -/

/-- A word of format R (R142). -/
def encR (op fn : Nat) (d a b c : BitVec 5) (x : BitVec 28) : Word :=
  BitVec.ofNat 64 (op * 2 ^ 56 + fn * 2 ^ 48 + d.toNat * 2 ^ 43 + a.toNat * 2 ^ 38 + b.toNat * 2 ^ 33 + c.toNat * 2 ^ 28
    + x.toNat)

/-- A word of format L (R142). -/
def encL (op fn : Nat) (d : BitVec 5) (imm : BitVec 32) : Word :=
  BitVec.ofNat 64 (op * 2 ^ 56 + fn * 2 ^ 48 + d.toNat * 2 ^ 43 + imm.toNat)

def wOp (w : Word) : Nat := Word.fld w 56 8
def wFn (w : Word) : Nat := Word.fld w 48 8
def wD (w : Word) : Nat := Word.fld w 43 5
def wA (w : Word) : Nat := Word.fld w 38 5
def wB (w : Word) : Nat := Word.fld w 33 5
def wC (w : Word) : Nat := Word.fld w 28 5
def wX (w : Word) : Nat := Word.fld w 0 28

/-- sext(X) (R143). -/
def sext (x : BitVec 28) : Word := x.signExtend 64

/-! ### Conversions of vcvt (R155) -/

/-- A conversion that vcvt names: mode, source, target, STASH mode, half. -/
structure Cvt where
  mode : Nat
  src : Nat
  tgt : Nat
  stash : Nat
  half : Nat
  deriving DecidableEq, Repr

/-- The conversion that FN and X select (R155). -/
def cvtOf (mode x : Nat) : Cvt := ⟨mode, fld x 4 4, fld x 0 4, fld x 8 2, fld x 10 1⟩

def isFp16Kind (f : Nat) : Bool := f = 1 || f = 2

/-- The 8-bit and 4-bit floating-point element formats and their block forms. -/
def isSmall (f : Nat) : Bool := f = 3 || f = 4 || f = 5 || f = 8 || f = 9 || f = 10

/-- A pair that the table of R155 lists. Code 12 is the packed mask. -/
def cvtListed (c : Cvt) : Bool :=
  match c.mode with
  | 2 => (c.src = 0 || isFp16Kind c.src) && c.tgt = 12
  | 3 => c.src = 12 && (c.tgt = 0 || isFp16Kind c.tgt)
  | _ =>
    c.src ≠ c.tgt && c.tgt ≤ 10 &&
      (c.src = 0 || isFp16Kind c.src || (isSmall c.src && (c.tgt = 0 || isFp16Kind c.tgt)))

/-- The source is read from a register pair (R155). -/
def cvtSrcPair (c : Cvt) : Bool := c.mode < 2 && c.src = 0 && fmtBlock c.tgt

/-- The target is written to a register pair (R155). -/
def cvtDstPair (c : Cvt) : Bool := c.mode < 2 && c.tgt = 0

/-- The causes of vcvt (R149, R155, R156): reserved bits, stochastic rounding with an excluded target, an unsupported pair,
an odd register of a pair. [DEDUCED: log entry 97] -/
def cvtCause (w : Word) : Option Nat :=
  let x := wX w
  let c := cvtOf (wFn w) x
  if 4 ≤ wFn w || 2 ^ 11 ≤ x || 13 ≤ c.src || 13 ≤ c.tgt || (c.mode = 2 && c.stash = 3) || (c.mode ≠ 2 && c.stash ≠ 0)
      || (c.half = 1 && c.src ≠ 10 && c.tgt ≠ 10) || (c.mode ≠ 1 && (wB w ≠ 0 || wC w ≠ 0)) then some 2
  else if c.mode = 1 && !(c.tgt = 1 || c.tgt = 4 || c.tgt = 9) then some 4
  else if !cvtListed c then some 5
  else if (cvtSrcPair c && wA w % 2 = 1) || (cvtDstPair c && wD w % 2 = 1) then some 5
  else none

/-! ### Products (R162, R163) -/

/-- A form that uses both accumulators (R86). -/
def formDual (form : Nat) (transposed : Bool) : Bool :=
  form = 6 || (transposed && (form = 2 || form = 3 || form = 4))

/-- A form whose operand is a tile pair. -/
def formPair (form : Nat) : Bool := form = 5 || form = 6

/-- The causes of OP 0x50 for the core that issues it (R144, R149, R163). A broadcast mask that names this core alone has none, which the
spec leaves open. [DESIGN CHOICE: log entry 118] -/
def prodCause (core : Nat) (w : Word) : Option Nat :=
  let form := fld (wFn w) 0 4
  let tr := fld (wFn w) 4 1 = 1
  let acc := fld (wFn w) 5 1
  let mode := fld (wFn w) 6 2
  let x := wX w
  let mask := fld x 0 4
  let member := fld x 4 2
  let me := pondMember core
  if 6 < form || wD w ≠ 0 || 16 ≤ wA w || 2 ^ 8 ≤ x || (formDual form tr && acc = 1) || (formPair form && mode % 2 = 1)
      || (mode % 2 = 0 && (wB w ≠ 0 || wC w ≠ 0)) || (mode < 2 && fld x 0 6 ≠ 0) || (fld x 6 1 = 1 && form ≠ 6)
      || (fld x 7 1 = 1 && !(tr && form = 4)) || (mode = 3 && member ≠ me) then some 2
  else if 2 ≤ mode && (fld mask me 1 = 0 || fld mask member 1 = 0) then some 5
  else none

/-! ### The checks of R149 that the word alone fixes -/

/-- A condition of cause RESERVED. -/
def reservedIf (c : Bool) : Option Nat := if c then some 2 else none

/-- The illegal-instruction cause of a word issued by a context (R149): 1 OPCODE, 2 RESERVED, 3 CONTEXT, 4 ROUNDING,
5 OPERAND; none where the word is legal as far as its bits say. -/
def illegalCause (k : CtxAt) (w : Word) : Option Nat :=
  let fn := wFn w
  let d := wD w
  let a := wA w
  let b := wB w
  let c := wC w
  let x := wX w
  let bad := reservedIf
  match wOp w with
  | 0x01 => bad (fn ≠ 0 || d ≠ 0 || a ≠ 0 || b ≠ 0 || c ≠ 0 || x ≠ 0)
  | 0x02 => bad (0x0D < fn || c ≠ 0 || x ≠ 0)
  | 0x03 => bad (2 < fn || c ≠ 0 || x ≠ 0)
  | 0x04 => bad (7 < fn || b ≠ 0 || c ≠ 0 || (5 ≤ fn && 64 ≤ x))
  | 0x05 => bad (1 < fn || a ≠ 0 || b ≠ 0 || Word.fld w 32 1 ≠ 0)
  | 0x06 => bad (6 < fn || b ≠ 0 || c ≠ 0)
  | 0x07 => bad (3 < fn || d ≠ 0 || c ≠ 0)
  | 0x08 => bad (5 < fn || d ≠ 0 || c ≠ 0)
  | 0x09 => bad (fn ≠ 0 || a ≠ 0 || b ≠ 0 || c ≠ 0)
  | 0x0A => bad (fn ≠ 0 || a ≠ 0 || b ≠ 0 || c ≠ 0)
  | 0x0B => bad (fn ≠ 0 || b ≠ 0 || c ≠ 0 || x ≠ 0)
  | 0x0C => bad (2 < fn || a ≠ 0 || b ≠ 0 || c ≠ 0 || x ≠ 0)
  | 0x0D => bad (fn ≠ 0 || d ≠ 0 || a ≠ 0 || b ≠ 0 || c ≠ 0 || x ≠ 0)
  | 0x0E =>
    if fn ≠ 0 || a ≠ 0 || b ≠ 0 || c ≠ 0 || x ≠ 0 then some 2 else if k.ctx = .B then some 3 else none
  | 0x20 => bad (fn ≠ 0 || b ≠ 0 || c ≠ 0)
  | 0x21 => bad (fn ≠ 0 || d ≠ 0 || c ≠ 0)
  | 0x22 => bad (2 < fn || b ≠ 0 || c ≠ 0 || x ≠ 0)
  | 0x23 => bad (fn ≠ 0 || b ≠ 0 || c ≠ 0 || 48 ≤ x)
  | 0x24 => bad (6 < fn / 4 || fn % 4 = 3 || c ≠ 0 || x ≠ 0 || (5 ≤ fn / 4 && b ≠ 0))
  | 0x25 => bad (2 < fn || x ≠ 0)
  | 0x26 => bad (2 < fn || b ≠ 0 || c ≠ 0 || x ≠ 0)
  | 0x27 => bad (2 < fn / 4 || fn % 4 = 3 || c ≠ 0 || x ≠ 0)
  | 0x28 => bad (3 < fn / 4 || fn % 4 ≠ 0 || x ≠ 0 || (fn ≠ 12 && c ≠ 0))
  | 0x29 => bad (3 < fn / 4 || fn % 4 = 3 || b ≠ 0 || c ≠ 0 || x ≠ 0)
  | 0x2A => cvtCause w
  | 0x2C => bad (fn ≠ 0 || 16 ≤ b || c ≠ 0)
  | 0x2D => bad (fn ≠ 0 || 16 ≤ d || c ≠ 0)
  | 0x40 =>
    if 1 < fn || 16 ≤ d || b ≠ 0 || c ≠ 0 || x ≠ 0 then some 2 else if fn = 1 && d % 2 = 1 then some 5 else none
  | 0x41 => bad (fn ≠ 0 || d ≠ 0 || a ≠ 0 || b ≠ 0 || c ≠ 0 || 2 ^ 16 ≤ x)
  | 0x42 => bad (fn = 0 || 3 < fn || d ≠ 0 || a ≠ 0 || b ≠ 0 || c ≠ 0 || x ≠ 0)
  | 0x44 => bad (1 < fn || 16 ≤ d || c ≠ 0 || 16 ≤ x || (12 ≤ x && x ≤ 14))
  | 0x45 => bad (2 < fn || d ≠ 0 || 16 ≤ a || x ≠ 0)
  | 0x46 =>
    bad (7 < fn || a ≠ 0 || x ≠ 0 || (if 4 ≤ fn then decide (16 ≤ d) || b ≠ 0 || c ≠ 0 else d ≠ 0))
  | 0x47 => bad (1 < fn || d ≠ 0 || a ≠ 0 || b ≠ 0 || c ≠ 0 || 16 ≤ x)
  | 0x48 => bad (1 < fn || d ≠ 0 || 16 ≤ a || b ≠ 0 || c ≠ 0 || x ≠ 0)
  | 0x49 => bad (fn ≠ 0 || d ≠ 0 || b ≠ 0 || c ≠ 0 || x ≠ 0)
  | 0x50 => prodCause k.core w
  | 0x60 =>
    if fn ≠ 0 || d ≠ 0 || a ≠ 0 || b ≠ 0 || c ≠ 0 || fld x 6 6 ≠ 0 then some 2
    else if 47 < fld x 0 6 then some 5 else none
  | 0x61 => bad (fn ≠ 0 || d ≠ 0 || b ≠ 0 || c ≠ 0 || fld x 0 12 ≠ 0)
  | 0x62 =>
    if 1 < fn || c ≠ 0 || (if fn = 0 then decide (64 ≤ x) else decide (8192 ≤ x)) then some 2
    else if fn = 0 && 47 < x then some 5 else none
  | 0x63 =>
    if 1 < fn || a ≠ 0 || b ≠ 0 || c ≠ 0 || (if fn = 0 then decide (64 ≤ x) else decide (8192 ≤ x)) then some 2
    else if fn = 0 && 47 < x then some 5 else none
  | 0x64 => bad (fn ≠ 0 || d ≠ 0 || b ≠ 0 || c ≠ 0 || 8192 ≤ x)
  | 0x70 => bad (fn ≠ 0 || d ≠ 0 || a ≠ 0 || b ≠ 0 || c ≠ 0 || 2 ^ 16 ≤ x)
  | 0x71 => bad (fn ≠ 0 || d ≠ 0 || a ≠ 0 || b ≠ 0 || c ≠ 0 || 2 ^ 16 ≤ x)
  | _ => some 1

/-! ### Issue -/

/-- The context may issue (R41, R66, R67, R167, R354, R413): the part works, the core exists, the context is RUNNING and is
the one that issues, no switch is under way, nothing holds it, and bulk work is not held in this slice. -/
def canIssue (s : State) (k : CtxAt) : Bool :=
  s.working && decide (k.core < coreCount) && (s.ctx k).state = .running && (s.core k.core).active = k.ctx
    && (s.core k.core).switch = .idle && (s.ctx k).hold = .none && !(k.ctx = .B && s.svc.held)

/-- The key of an instruction-memory word. -/
def imemKey (core i : Nat) : Nat := core * 8192 + i

/-- The word at an index of a core's instruction memory (R170): 0 where nothing was loaded. -/
def fetchWord (s : State) (core i : Nat) : Word := SMap.getD s.imem (imemKey core i) 0

/-- An illegal-instruction fault (R149, R151). -/
def illegalFault (s : State) (k : CtxAt) (pc cause : Nat) (w : Word) : State :=
  faultCtx s k pc { ctxRec s k 2 cause pc with d0 := w }

/-- A core-store address fault (R150, R151). -/
def csFault (s : State) (k : CtxAt) (pc cause : Nat) (w : Word) (addr : Nat) : State :=
  faultCtx s k pc { ctxRec s k 3 cause pc with d0 := w, addr := addr }

/-- The fetch finds the word as it was written, or corrected (R170). -/
def fetchState (s : State) (k : CtxAt) : State :=
  match SMap.get? s.imarks (imemKey k.core (s.ctx k).pc) with
  | some _ =>
    ({ s with imarks := SMap.erase s.imarks (imemKey k.core (s.ctx k).pc) } : State).countReg (.coreEcc k.core) 32 16 1
  | none => s

/-- The issue of an instruction with word w by context k. The command stands for that instruction's issue: where the context
cannot issue, or another legal instruction stands at its program counter, nothing happens (log entry 10). A word with a
double-bit error faults the context (R170, R406), and so does an illegal word (R149). -/
def issueOut (k : CtxAt) (w : Word) (s : State) (body : State → Out) : Out :=
  if canIssue s k then
    let pc := (s.ctx k).pc
    match SMap.get? s.imarks (imemKey k.core pc) with
    | some (.bad _) => .next (eccFault s k pc 2 0)
    | _ =>
      let t := fetchState s k
      match illegalCause k (fetchWord s k.core pc) with
      | some cause => .next (illegalFault t k pc cause (fetchWord s k.core pc))
      | none => if fetchWord s k.core pc = w then body t else .next s
  else .next s

/-- The issue of an instruction that answers a next state. -/
def issue (k : CtxAt) (w : Word) (s : State) (body : State → State) : Out := issueOut k w s fun t => .next (body t)

/-- The context goes on to the next instruction (R41). -/
def advance (s : State) (k : CtxAt) : State :=
  let c := s.ctx k
  s.setCtx k { c with pc := pcAdd c.pc 1 }

/-- An s register written and the next instruction reached. -/
def writeS (s : State) (k : CtxAt) (d : BitVec 5) (v : Word) : State :=
  let c := s.ctx k
  s.setCtx k { (c.setS d v) with pc := pcAdd c.pc 1 }

/-- A v register written and the next instruction reached. -/
def writeV (s : State) (k : CtxAt) (d : BitVec 5) (v : BitVec 1536) : State :=
  let c := s.ctx k
  s.setCtx k { (c.setV d v) with pc := pcAdd c.pc 1 }

/-- A jump by a signed offset in instructions (R146). -/
def branchBy (s : State) (k : CtxAt) (d : Int) : State :=
  let c := s.ctx k
  s.setCtx k { c with pc := pcAdd c.pc d }

/-- A v register that a vtrd of the context will still write (R145). -/
def pendingV (c : Context) (n : BitVec 5) : Bool :=
  c.queue.any fun o => match o.opc with
    | .vtrd d _ _ => d = n.toNat
    | _ => false

/-- None of these v registers waits for a vtrd. -/
def vReady (c : Context) (ns : List (BitVec 5)) : Bool := ns.all fun n => !pendingV c n

/-- A tile instruction reads or writes the core store (R147). -/
def usesStore : TileOpc → Bool
  | .tld _ _ _ _ _ => true
  | .tst _ _ _ _ => true
  | .drain _ _ (.store _ _) => true
  | .prod p => p.mode % 2 = 1
  | _ => false

/-- No earlier tile instruction of the context that reads or writes the core store is queued or on a pipe (R147). -/
def storeClear (c : Context) : Bool := c.queue.all fun o => !usesStore o.opc

/-- Issue waits while a condition of the instruction's class does not hold (R145). -/
def waitUntil (c : Bool) (s t : State) : State := if c then t else s

/-- The registers s1 to s31 and v0 to v31 of a context become undefined (R42, R77): each takes a fresh free value. -/
def undefineRegs (s : State) (c : Context) : State × Context :=
  let n := s.free
  let sregs : SMap Word := (List.range 31).map fun i => (i + 1, Config.freeBits 64 (n + i))
  let vregs : SMap (BitVec 1536) := (List.range 32).map fun i => (i, Config.freeBits 1536 (n + 32 + i))
  ({ s with free := n + 64 }, { c with sregs := sregs, vregs := vregs })

end Sys2Proof.Machine
end

