-- ==== Sys2Proof/Machine/Product.lean ====
section
/-! DEFINITION. The arithmetic of the array (R80, R81, R86, R88 to R92, R99, R118): latched weights, the order of
accumulation, the passes of the FP32 and CX16 forms. -/

namespace Sys2Proof.Machine

open Sys2Proof

/-- An element as the array sees it: a value, or the two parts of a complex one (R111). -/
structure Elem where
  re : Val
  im : Val
  deriving DecidableEq, Repr

def Elem.zero : Elem := ⟨.zero false, .zero false⟩

/-- A list of elements filled up with +0 to n (R81, R88). -/
def padElems (n : Nat) (xs : List Elem) : List Elem := xs ++ List.replicate (n - xs.length) Elem.zero

/-- The value of one element pattern of a floating-point or complex format. -/
def elemVal (fmt x : Nat) : Elem :=
  if fmt = 11 then ⟨Fmt.fp16.decode (x % 2 ^ 16), Fmt.fp16.decode (x / 2 ^ 16)⟩ else ⟨(fmtOf fmt).decode x, .zero false⟩

/-- The elements of a row of packed data with its scale bytes (R47, R50, R116). -/
def rowElems (fmt cols data scales : Nat) : List Elem :=
  let xs := (unpackNat (fmtWidth fmt) cols data).map (elemVal fmt)
  if fmtBlock fmt then xs.zipIdx.map fun (x, j) => { x with re := scaled x.re (fld scales (8 * (j / 32)) 8) } else xs

/-! ### Latched weights -/

/-- The width classes of R80. -/
inductive WClass where
  | c16
  | c8
  | c4
  | fp32
  | cx16
  deriving DecidableEq, Repr

/-- The class that a stored format latches into, integer weights by the target of the feeder configuration (R80, R99). -/
def wClass (fmt target : Nat) : WClass :=
  match fmt with
  | 0 => .fp32
  | 1 => .c16
  | 2 => .c16
  | 5 => .c4
  | 6 => if target = 3 then .c8 else .c16
  | 7 => if target = 3 then .c8 else .c16
  | 10 => .c4
  | 11 => .cx16
  | _ => .c8

/-- Slots per cell (R80). -/
def WClass.slots : WClass → Nat
  | .c8 => 2
  | .c4 => 4
  | _ => 1

/-- The class that a product form needs (R86). -/
def formClass (form : Nat) : WClass :=
  match form with
  | 0 => .c16
  | 1 => .c16
  | 2 => .c8
  | 3 => .c8
  | 4 => .c4
  | 5 => .fp32
  | _ => .cx16

/-- An integer weight expanded (R99): a table entry unchanged, or round((q - z) × s) into the target. A difference of 0 is +0, and a zero
point is the whole signed byte whatever the weight's format: both the spec leaves open. [DESIGN CHOICE: log entry 117] -/
def expandInt (fc : FeederCfg) (bits c q : Nat) : Val × NFlags :=
  let f := fmtOf fc.target
  if fc.affine then
    let v := Val.mul (.ofInt (sextInt bits q - (fc.zero.getD c 0).toInt)) (Fmt.fp32.decode (fc.scale.getD c 0).toNat)
    let r := f.roundInv v
    (f.decode r.1, r.2)
  else (f.decode ((fc.table.getD (q % 16) 0).toNat % 2 ^ f.width), 0)

/-- The elements of one weight row from one tile, from cell column `base` on, with the flags of expansion (R81, R99). -/
def weightElems (fc : FeederCfg) (cfg : BitVec 32) (r base : Nat) (row : BitVec 768) (sc : BitVec 48) :
    List Elem × NFlags :=
  if cfgRows cfg ≤ r then ([], 0)
  else if cfgFmt cfg = 6 || cfgFmt cfg = 7 then
    let w := fmtWidth (cfgFmt cfg)
    let xs := (unpackNat w (cfgCols cfg) row.toNat).zipIdx.map fun (q, j) => expandInt fc w (base + j % 48) q
    (xs.map fun x => ⟨x.1, .zero false⟩, xs.foldl (fun a x => a ||| x.2) 0)
  else (rowElems (cfgFmt cfg) (cfgCols cfg) row.toNat sc.toNat, 0)

/-- Row r of the latched weights: 48P elements, slot p of cell (r, c) at place 48p + c, and the flags of expansion. -/
def WLatch.row (w : WLatch) (r : Nat) : List Elem × NFlags :=
  let n := 48 * (wClass (cfgFmt w.cfg0) w.fc.target).slots
  let a := weightElems w.fc w.cfg0 r 0 (w.rows0.getD r 0) (w.sc0.getD r 0)
  if w.pair then
    let b := weightElems w.fc w.cfg1 r 24 (w.rows1.getD r 0) (w.sc1.getD r 0)
    (padElems n (padElems 24 a.1 ++ b.1), a.2 ||| b.2)
  else (padElems n a.1, a.2)

/-- The 48 rows of the latched weights. -/
def WLatch.matrix (w : WLatch) : List (List Elem) := (List.range 48).map fun r => (w.row r).1

/-- The flags that expanding the weights sets (R99, R137). -/
def WLatch.flags (w : WLatch) : NFlags := (List.range 48).foldl (fun a r => a ||| (w.row r).2) 0

/-! ### Terms -/

/-- The top 12 bit positions of an FP32 significand, and the rest exactly (R91). -/
def splitHi (v : Val) : Val :=
  match v with
  | .fin n m e => .fin n (m - m % 2 ^ 12) e
  | v => v

def splitLo (v : Val) : Val :=
  match v with
  | .fin n m e => if m % 2 ^ 12 = 0 then .zero false else .fin n (m % 2 ^ 12) e
  | _ => .zero false

/-- The value is infinite or a NaN. -/
def Val.special (v : Val) : Bool :=
  match v with
  | .fin _ _ _ => false
  | _ => true

/-- One product of a cell in a pass of a form, exact (R89, R91, R92), and whether it is INVALID. -/
def cellTerm (form pass : Nat) (cj : Bool) (a w : Elem) : Val × Bool :=
  if form = 5 then
    if pass < 3 && (a.re.special || w.re.special) then (.zero false, false)
    else
      Val.mul (if pass < 2 then splitLo a.re else splitHi a.re) (if pass % 2 = 0 then splitLo w.re else splitHi w.re)
  else if form = 6 then
    let wi := if cj then w.im.negate else w.im
    match pass with
    | 0 => Val.mul a.re w.re
    | 1 => Val.mul a.im.negate wi
    | 2 => Val.mul a.re wi
    | _ => Val.mul a.im w.re
  else Val.mul a.re w.re

/-- The exact sum of two terms, INVALID kept. -/
def addTerm (x y : Val × Bool) : Val × Bool :=
  let s := Val.add x.1 y.1
  (s.1, x.2 || y.2 || s.2)

/-- A sum handed down a column, or along a row, with its flags. -/
abbrev Partial := BitVec 34 × NFlags

/-- The start of a sum: -0 (R89). -/
def sumStart : Partial := (accPack true 0 0, 0)

/-- s = acc_round(s + t). -/
def sumStep (s : Partial) (t : Val × Bool) : Partial :=
  let r := accAdd s.1 t.1
  (r.1, s.2 ||| r.2 ||| NFlags.when t.2 NFlags.invalid)

/-- The terms of one array row of a forward product at every column: the exact sum over the slots (R89). -/
def forwardTerms (form pass : Nat) (cj : Bool) (as : List Elem) (ws : List Elem) : List (Val × Bool) :=
  match as.zip (chunks 48 as.length ws) with
  | [] => []
  | (a, w) :: rest =>
    rest.foldl (fun ts (a, w) => List.zipWith addTerm ts (w.map (cellTerm form pass cj a))) (w.map (cellTerm form pass cj a))

/-- The column sums of a forward pass for one operand row of 48P elements (R89). -/
def forwardSums (form pass : Nat) (cj : Bool) (weights : List (List Elem)) (a : List Elem) : List Partial :=
  let p := (formClass form).slots
  (weights.zipIdx).foldl
    (fun ss (w, r) => List.zipWith sumStep ss (forwardTerms form pass cj ((List.range p).map fun i => a.getD (48 * i + r) .zero) w))
    (List.replicate 48 sumStart)

/-- The row sums of a transposed pass for one slot and one operand row of 48 elements (R90). -/
def transposedSums (form pass slot : Nat) (cj : Bool) (weights : List (List Elem)) (a : List Elem) : List Partial :=
  weights.map fun w =>
    (a.zip ((w.drop (48 * slot)).take 48)).foldl (fun s p => sumStep s (cellTerm form pass cj p.1 p.2)) sumStart

/-- The passes of a product: pass, slot, accumulator (R86, R91, R92). -/
def prodPasses (p : Product) : List (Nat × Nat × Nat) :=
  let acc := if p.acc then 1 else 0
  if p.form = 5 then [(0, 0, acc), (1, 0, acc), (2, 0, acc), (3, 0, acc)]
  else if p.form = 6 then [(0, 0, 0), (1, 0, 0), (2, 0, 1), (3, 0, 1)]
  else if p.transposed && p.form = 4 then [(0, 2 * p.half, 0), (0, 2 * p.half + 1, 1)]
  else if p.transposed && (p.form = 2 || p.form = 3) then [(0, 0, 0), (0, 1, 1)]
  else [(0, 0, acc)]

/-- The accumulators that a product adds into. -/
def prodAccs (p : Product) : List Nat := if formDual p.form p.transposed then [0, 1] else [if p.acc then 1 else 0]

/-- One accumulator row with a pass added (R89, last line). -/
def addPass (row : List (BitVec 34)) (ss : List Partial) : List (BitVec 34) × NFlags :=
  let rs := List.zipWith (fun x s => let r := accAdd x (accDecode s.1); (r.1, s.2 ||| r.2)) row ss
  (rs.map (·.1), rs.foldl (fun a r => a ||| r.2) 0)

/-- One operand row run through every pass: the rows of ACCA and ACCB and the flags. -/
def prodRow (p : Product) (weights : List (List Elem)) (a : List Elem) (rowA rowB : List (BitVec 34)) :
    List (BitVec 34) × List (BitVec 34) × NFlags :=
  (prodPasses p).foldl
    (fun st (pass, slot, acc) =>
      let ss := if p.transposed then transposedSums p.form pass slot p.cj weights (padElems 48 (a.take 48))
        else forwardSums p.form pass p.cj weights a
      if acc = 0 then let r := addPass st.1 ss; (r.1, st.2.1, st.2.2 ||| r.2)
      else let r := addPass st.2.1 ss; (st.1, r.1, st.2.2 ||| r.2))
    (rowA, rowB, 0)

/-- An accumulator element is a NaN. -/
def accIsNan (x : BitVec 34) : Bool := (accDecode x).isNan

/-- An accumulator element drained to FP32 (R119). -/
def drainElem (x : BitVec 34) : Nat × NFlags := Fmt.fp32.round (accDecode x)

end Sys2Proof.Machine
end

