-- ==== Sys2Proof/Machine/Scalar.lean ====
section
/-! DEFINITION. The scalar and control instructions (R152) but for end and ev.wait, which Context.lean holds. -/

namespace Sys2Proof.Machine

open Sys2Proof

/-- 1 for true, 0 for false. -/
def boolWord (b : Bool) : Word := if b then 1 else 0

/-- A register-register operation: sD = f sA sB. -/
def alu (k : CtxAt) (op fn : Nat) (d a b : BitVec 5) (f : Word → Word → Word) (s : State) : Out :=
  issue k (encR op fn d a b 0 0) s fun t => writeS t k d (f ((t.ctx k).s a) ((t.ctx k).s b))

/-- A register-immediate operation: sD = f sA, with X in the word. -/
def aluImm (k : CtxAt) (fn : Nat) (d a : BitVec 5) (i : BitVec 28) (f : Word → Word) (s : State) : Out :=
  issue k (encR 0x04 fn d a 0 0 i) s fun t => writeS t k d (f ((t.ctx k).s a))

/-- A conditional branch on sA and sB. -/
def branch (k : CtxAt) (fn : Nat) (a b : BitVec 5) (i : BitVec 28) (f : Word → Word → Bool) (s : State) : Out :=
  issue k (encR 0x08 fn 0 a b 0 i) s fun t =>
    if f ((t.ctx k).s a) ((t.ctx k).s b) then branchBy t k i.toInt else advance t k

/-- nop (R152). -/
def execNop (k : CtxAt) (s : State) : Out := issue k (encR 0x01 0 0 0 0 0 0) s fun t => advance t k

/-- add (R152): addition modulo 2^64. -/
def execAdd (k : CtxAt) (d a b : BitVec 5) (s : State) : Out := alu k 0x02 0x00 d a b (fun x y => x + y) s

/-- sub (R152): subtraction modulo 2^64. -/
def execSub (k : CtxAt) (d a b : BitVec 5) (s : State) : Out := alu k 0x02 0x01 d a b (fun x y => x - y) s

/-- and (R152): bitwise and. -/
def execAnd (k : CtxAt) (d a b : BitVec 5) (s : State) : Out := alu k 0x02 0x02 d a b (fun x y => x &&& y) s

/-- or (R152): bitwise or. -/
def execOr (k : CtxAt) (d a b : BitVec 5) (s : State) : Out := alu k 0x02 0x03 d a b (fun x y => x ||| y) s

/-- xor (R152): bitwise exclusive-or. -/
def execXor (k : CtxAt) (d a b : BitVec 5) (s : State) : Out := alu k 0x02 0x04 d a b (fun x y => x ^^^ y) s

/-- sll (R152): shift left by sB[5:0]. -/
def execSll (k : CtxAt) (d a b : BitVec 5) (s : State) : Out := alu k 0x02 0x05 d a b (fun x y => x <<< (y.toNat % 64)) s

/-- srl (R152): logical shift right by sB[5:0]. -/
def execSrl (k : CtxAt) (d a b : BitVec 5) (s : State) : Out := alu k 0x02 0x06 d a b (fun x y => x >>> (y.toNat % 64)) s

/-- sra (R152): arithmetic shift right by sB[5:0]. -/
def execSra (k : CtxAt) (d a b : BitVec 5) (s : State) : Out := alu k 0x02 0x07 d a b (fun x y => x.sshiftRight (y.toNat % 64)) s

/-- slt (R152): 1 if sA < sB as signed values, else 0. -/
def execSlt (k : CtxAt) (d a b : BitVec 5) (s : State) : Out := alu k 0x02 0x08 d a b (fun x y => boolWord (x.slt y)) s

/-- sltu (R152): 1 if sA < sB as unsigned values, else 0. -/
def execSltu (k : CtxAt) (d a b : BitVec 5) (s : State) : Out := alu k 0x02 0x09 d a b (fun x y => boolWord (x.ult y)) s

/-- min (R152): signed minimum. -/
def execMin (k : CtxAt) (d a b : BitVec 5) (s : State) : Out := alu k 0x02 0x0a d a b (fun x y => if x.slt y then x else y) s

/-- max (R152): signed maximum. -/
def execMax (k : CtxAt) (d a b : BitVec 5) (s : State) : Out := alu k 0x02 0x0b d a b (fun x y => if x.slt y then y else x) s

/-- minu (R152): unsigned minimum. -/
def execMinu (k : CtxAt) (d a b : BitVec 5) (s : State) : Out := alu k 0x02 0x0c d a b (fun x y => if x.ult y then x else y) s

/-- maxu (R152): unsigned maximum. -/
def execMaxu (k : CtxAt) (d a b : BitVec 5) (s : State) : Out := alu k 0x02 0x0d d a b (fun x y => if x.ult y then y else x) s

/-- mul (R152): low 64 bits of the product. -/
def execMul (k : CtxAt) (d a b : BitVec 5) (s : State) : Out := alu k 0x03 0x00 d a b (fun x y => x * y) s

/-- mulh (R152): high 64 bits of the signed product. -/
def execMulh (k : CtxAt) (d a b : BitVec 5) (s : State) : Out := alu k 0x03 0x01 d a b (fun x y => BitVec.ofInt 64 (x.toInt * y.toInt / 2 ^ 64)) s

/-- mulhu (R152): high 64 bits of the unsigned product. -/
def execMulhu (k : CtxAt) (d a b : BitVec 5) (s : State) : Out := alu k 0x03 0x02 d a b (fun x y => BitVec.ofNat 64 (x.toNat * y.toNat / 2 ^ 64)) s

/-- addi (R152): sD = sA + sext(X). -/
def execAddi (k : CtxAt) (d a : BitVec 5) (i : BitVec 28) (s : State) : Out := aluImm k 0 d a i (fun x => x + sext i) s

/-- andi (R152): sD = sA and sext(X). -/
def execAndi (k : CtxAt) (d a : BitVec 5) (i : BitVec 28) (s : State) : Out := aluImm k 1 d a i (fun x => x &&& sext i) s

/-- ori (R152): sD = sA or sext(X). -/
def execOri (k : CtxAt) (d a : BitVec 5) (i : BitVec 28) (s : State) : Out := aluImm k 2 d a i (fun x => x ||| sext i) s

/-- xori (R152): sD = sA exclusive-or sext(X). -/
def execXori (k : CtxAt) (d a : BitVec 5) (i : BitVec 28) (s : State) : Out := aluImm k 3 d a i (fun x => x ^^^ sext i) s

/-- slti (R152): sD = 1 if sA < sext(X) as signed values, else 0. -/
def execSlti (k : CtxAt) (d a : BitVec 5) (i : BitVec 28) (s : State) : Out := aluImm k 4 d a i (fun x => boolWord (x.slt (sext i))) s

/-- slli (R152): sD = sA shifted left by X[5:0]. -/
def execSlli (k : CtxAt) (d a : BitVec 5) (i : BitVec 28) (s : State) : Out := aluImm k 5 d a i (fun x => x <<< (i.toNat % 64)) s

/-- srli (R152): sD = sA shifted right logically by X[5:0]. -/
def execSrli (k : CtxAt) (d a : BitVec 5) (i : BitVec 28) (s : State) : Out := aluImm k 6 d a i (fun x => x >>> (i.toNat % 64)) s

/-- srai (R152): sD = sA shifted right arithmetically by X[5:0]. -/
def execSrai (k : CtxAt) (d a : BitVec 5) (i : BitVec 28) (s : State) : Out := aluImm k 7 d a i (fun x => x.sshiftRight (i.toNat % 64)) s

/-- li (R152): sD = IMM32 sign-extended. -/
def execLi (k : CtxAt) (d : BitVec 5) (imm : BitVec 32) (s : State) : Out :=
  issue k (encL 0x05 0x00 d imm) s fun t => writeS t k d (imm.signExtend 64)

/-- lih (R152): sD[63:32] = IMM32; sD[31:0] unchanged. -/
def execLih (k : CtxAt) (d : BitVec 5) (imm : BitVec 32) (s : State) : Out :=
  issue k (encL 0x05 0x01 d imm) s fun t =>
    writeS t k d (((t.ctx k).s d &&& 0xFFFFFFFF) ||| (imm.zeroExtend 64 <<< 32))

/-! ### Loads and stores (R43, R45, R147, R150) -/

/-- The code of a size in FN (R152). -/
def sizeCode : MemSize → Nat
  | .b => 0
  | .h => 1
  | .w => 2
  | .d => 3

/-- The bytes of a size. -/
def sizeBytes : MemSize → Nat
  | .b => 1
  | .h => 2
  | .w => 4
  | .d => 8

/-- The offset of a load or store: sA + sext(X), modulo 2^64. -/
def effOffset (c : Context) (a : BitVec 5) (x : BitVec 28) : Word := c.s a + sext x

/-- A read of the core store by the issuing context: it waits for the context's tile instructions that use the store
(R147), faults on range or alignment (R150) and on an uncorrectable word (R406), and else goes on with the bytes. -/
def loadStore (k : CtxAt) (w : Word) (off : Word) (n align : Nat) (t : State) (f : State → List Byte → State) : State :=
  match storeFault off n align with
  | some cause => csFault t k (t.ctx k).pc cause w off.toNat
  | none =>
    if storeClear (t.ctx k) then
      match storeRead t k.core off.toNat n with
      | (some bs, t') => f t' bs
      | (none, t') => eccFault t' k (t'.ctx k).pc 1 (badOffset t' k.core off.toNat n)
    else t

/-- A write of the core store by the issuing context, under the same rules. -/
def saveStore (k : CtxAt) (w : Word) (off : Word) (n align : Nat) (t : State) (bs : List Byte) : State :=
  match storeFault off n align with
  | some cause => csFault t k (t.ctx k).pc cause w off.toNat
  | none => if storeClear (t.ctx k) then advance (storeWrite t k.core off.toNat bs) k else t

/-- A scalar load with its extension. -/
def scalarLoad (k : CtxAt) (fn : Nat) (sz : MemSize) (d a : BitVec 5) (x : BitVec 28) (f : Nat → Word) (s : State) : Out :=
  issue k (encR 0x06 fn d a 0 0 x) s fun t =>
    loadStore k (encR 0x06 fn d a 0 0 x) (effOffset (t.ctx k) a x) (sizeBytes sz) (sizeBytes sz) t
      fun t bs => writeS t k d (f (ofBytes bs))

/-- ld (R152): sD = the bytes at sA + sext(X), sign-extended. -/
def execLd (k : CtxAt) (sz : MemSize) (d a : BitVec 5) (x : BitVec 28) (s : State) : Out :=
  scalarLoad k (sizeCode sz) sz d a x (fun v => BitVec.ofInt 64 (sextInt (8 * sizeBytes sz) v)) s

/-- ldu (R152): sD = the bytes at sA + sext(X), zero-extended. FN 0x07, a ldu of 8 bytes, is not listed. -/
def execLdu (k : CtxAt) (sz : MemSize) (d a : BitVec 5) (x : BitVec 28) (s : State) : Out :=
  scalarLoad k (4 + sizeCode sz) sz d a x (fun v => BitVec.ofNat 64 v) s

/-- st (R152): the low bytes of sB to sA + sext(X). -/
def execSt (k : CtxAt) (sz : MemSize) (a b : BitVec 5) (x : BitVec 28) (s : State) : Out :=
  issue k (encR 0x07 (sizeCode sz) 0 a b 0 x) s fun t =>
    saveStore k (encR 0x07 (sizeCode sz) 0 a b 0 x) (effOffset (t.ctx k) a x) (sizeBytes sz) (sizeBytes sz) t
      (toBytes (sizeBytes sz) ((t.ctx k).s b).toNat)

/-! ### Branches and jumps (R146) -/

/-- beq (R152): branches if sA equals sB. -/
def execBeq (k : CtxAt) (a b : BitVec 5) (i : BitVec 28) (s : State) : Out := branch k 0 a b i (fun x y => x == y) s

/-- bne (R152): branches if sA differs from sB. -/
def execBne (k : CtxAt) (a b : BitVec 5) (i : BitVec 28) (s : State) : Out := branch k 1 a b i (fun x y => x != y) s

/-- blt (R152): branches if sA < sB, signed. -/
def execBlt (k : CtxAt) (a b : BitVec 5) (i : BitVec 28) (s : State) : Out := branch k 2 a b i (fun x y => x.slt y) s

/-- bge (R152): branches if sA ≥ sB, signed. -/
def execBge (k : CtxAt) (a b : BitVec 5) (i : BitVec 28) (s : State) : Out := branch k 3 a b i (fun x y => !(x.slt y)) s

/-- bltu (R152): branches if sA < sB, unsigned. -/
def execBltu (k : CtxAt) (a b : BitVec 5) (i : BitVec 28) (s : State) : Out := branch k 4 a b i (fun x y => x.ult y) s

/-- bgeu (R152): branches if sA ≥ sB, unsigned. -/
def execBgeu (k : CtxAt) (a b : BitVec 5) (i : BitVec 28) (s : State) : Out := branch k 5 a b i (fun x y => !(x.ult y)) s

/-- bdnz (R152): sD = sD - 1, and a branch if the result is not 0. -/
def execBdnz (k : CtxAt) (d : BitVec 5) (i : BitVec 28) (s : State) : Out :=
  issue k (encR 0x09 0 d 0 0 0 i) s fun t =>
    let v := (t.ctx k).s d - 1
    let u := t.setCtx k ((t.ctx k).setS d v)
    if v = 0 then advance u k else branchBy u k i.toInt

/-- jal (R152): sD = pc + 1; pc = pc + sext(X). [DEDUCED: log entry 51] -/
def execJal (k : CtxAt) (d : BitVec 5) (i : BitVec 28) (s : State) : Out :=
  issue k (encR 0x0A 0 d 0 0 0 i) s fun t =>
    let c := t.ctx k
    branchBy (t.setCtx k (c.setS d (BitVec.ofNat 64 (c.pc + 1)))) k i.toInt

/-- jr (R152): sD = pc + 1; pc = sA[12:0], sA read first. -/
def execJr (k : CtxAt) (d a : BitVec 5) (s : State) : Out :=
  issue k (encR 0x0B 0 d a 0 0 0) s fun t =>
    let c := t.ctx k
    t.setCtx k { (c.setS d (BitVec.ofNat 64 (c.pc + 1))) with pc := (c.s a).toNat % 8192 }

/-! ### Reads of the machine -/

/-- The frame count and line number in one word, as rdline and TIME_LINE give them (R152, R360). -/
def lineWord (s : State) : Word := (s.time.frame.zeroExtend 64 <<< 16) ||| s.time.line.zeroExtend 64

/-- rdtime (R152): sD = the reference time at issue, in ns. -/
def execRdtime (k : CtxAt) (d : BitVec 5) (s : State) : Out :=
  issue k (encR 0x0C 0x00 d 0 0 0 0) s fun t => writeS t k d t.time.ns

/-- rdline (R152): sD[63:16] = the frame count, sD[15:0] = the line number. -/
def execRdline (k : CtxAt) (d : BitVec 5) (s : State) : Out :=
  issue k (encR 0x0C 0x01 d 0 0 0 0) s fun t => writeS t k d (lineWord t)

/-- rdid (R152): sD = the value of CORE_ID. -/
def execRdid (k : CtxAt) (d : BitVec 5) (s : State) : Out :=
  issue k (encR 0x0C 0x02 d 0 0 0 0) s fun t => writeS t k d (coreIdWord k.core)

end Sys2Proof.Machine
end

