-- ==== Sys2Proof/Machine/Transc.lean ====
section
/-! DEFINITION. The transcendental functions of the vector engine (R132 to R136), bit for bit. The tables hold the FP32
round-to-nearest-even of the exact values that the rules state. -/

namespace Sys2Proof.Machine

open Sys2Proof

/-- t[j] = 2^(j / 64) (R133). -/
def expT : List Nat :=
  [0x3F800000, 0x3F8164D2, 0x3F82CD87, 0x3F843A29, 0x3F85AAC3, 0x3F871F62, 0x3F88980F, 0x3F8A14D5] ++
  [0x3F8B95C2, 0x3F8D1ADF, 0x3F8EA43A, 0x3F9031DC, 0x3F91C3D3, 0x3F935A2B, 0x3F94F4F0, 0x3F96942D] ++
  [0x3F9837F0, 0x3F99E046, 0x3F9B8D3A, 0x3F9D3EDA, 0x3F9EF532, 0x3FA0B051, 0x3FA27043, 0x3FA43516] ++
  [0x3FA5FED7, 0x3FA7CD94, 0x3FA9A15B, 0x3FAB7A3A, 0x3FAD583F, 0x3FAF3B79, 0x3FB123F6, 0x3FB311C4] ++
  [0x3FB504F3, 0x3FB6FD92, 0x3FB8FBAF, 0x3FBAFF5B, 0x3FBD08A4, 0x3FBF179A, 0x3FC12C4D, 0x3FC346CD] ++
  [0x3FC5672A, 0x3FC78D75, 0x3FC9B9BE, 0x3FCBEC15, 0x3FCE248C, 0x3FD06334, 0x3FD2A81E, 0x3FD4F35B] ++
  [0x3FD744FD, 0x3FD99D16, 0x3FDBFBB8, 0x3FDE60F5, 0x3FE0CCDF, 0x3FE33F89, 0x3FE5B907, 0x3FE8396A] ++
  [0x3FEAC0C7, 0x3FED4F30, 0x3FEFE4BA, 0x3FF28177, 0x3FF5257D, 0x3FF7D0DF, 0x3FFA83B3, 0x3FFD3E0C]

/-- rr[j] of R134. -/
def logRr : List Nat :=
  [0x3F800000, 0x3F7A232D, 0x3F76603E, 0x3F72B9D6, 0x3F6F2EB7, 0x3F6BBDB3, 0x3F6865AC, 0x3F652598] ++
  [0x3F61FC78, 0x3F5EE95C, 0x3F5BEB62, 0x3F5901B2, 0x3F562B81, 0x3F53680D, 0x3F50B6A0, 0x3F4E168A] ++
  [0x3F4B8728, 0x3F4907DA, 0x3F46980C, 0x3F443730, 0x3F41E4BC, 0x3F3FA030, 0x3F3D6910, 0x3F3B3EE7] ++
  [0x3F392144, 0x3F370FBB, 0x3F3509E7, 0x3F330F63, 0x3F311FD4, 0x3F2F3ADE, 0x3F2D602B, 0x3F2B8F6A] ++
  [0x3F29C84A, 0x3F280A81, 0x3F2655C4, 0x3F24A9CF, 0x3F23065E, 0x3F216B31, 0x3F1FD80A, 0x3F1E4CAD] ++
  [0x3F1CC8E1, 0x3F1B4C70, 0x3F19D723, 0x3F1868C8, 0x3F17012E, 0x3F15A025, 0x3F144581, 0x3F12F114] ++
  [0x3F11A2B4, 0x3F105A38, 0x3F0F177A, 0x3F0DDA52, 0x3F0CA29C, 0x3F0B7034, 0x3F0A42F8, 0x3F091AC7] ++
  [0x3F07F781, 0x3F06D905, 0x3F05BF37, 0x3F04A9FA, 0x3F039930, 0x3F028CC0, 0x3F01848E, 0x3F008081]

/-- lt[j] of R134. -/
def logLt : List Nat :=
  [0x00000000, 0x3D08E68D, 0x3D626FCC, 0x3D9D5182, 0x3DC8C50D, 0x3DF3975C, 0x3E0EE690, 0x3E23B551] ++
  [0x3E383A17, 0x3E4C76EA, 0x3E606DB6, 0x3E74205F, 0x3E83C856, 0x3E8D602E, 0x3E96D887, 0x3EA03234] ++
  [0x3EA96DEF, 0x3EB28C80, 0x3EBB8E97, 0x3EC474E2, 0x3ECD4011, 0x3ED5F0C3, 0x3EDE8798, 0x3EE70525] ++
  [0x3EEF69FF, 0x3EF7B6B5, 0x3EFFEBCB, 0x3F0404E8, 0x3F08089D, 0x3F0C0146, 0x3F0FEF1F, 0x3F13D260] ++
  [0x3F17AB44, 0x3F1B79FF, 0x3F1F3ECA, 0x3F22F9D5, 0x3F26AB53, 0x3F2A5375, 0x3F2DF268, 0x3F31885D] ++
  [0x3F35157E, 0x3F3899F4, 0x3F3C15EE, 0x3F3F8991, 0x3F42F506, 0x3F465873, 0x3F49B3FA, 0x3F4D07C5] ++
  [0x3F5053F6, 0x3F5398AF, 0x3F56D60F, 0x3F5A0C3A, 0x3F5D3B4E, 0x3F60636B, 0x3F6384AF, 0x3F669F36] ++
  [0x3F69B31C, 0x3F6CC084, 0x3F6FC782, 0x3F72C831, 0x3F75C2B1, 0x3F78B713, 0x3F7BA577, 0x3F7E8DF1]

/-- yt[j] of R135. -/
def rsqrtYt : List Nat :=
  [0x3F7F017E, 0x3F7D0D3E, 0x3F7B2452, 0x3F79464E, 0x3F7772CB, 0x3F75A969, 0x3F73E9CB, 0x3F723399] ++
  [0x3F708681, 0x3F6EE232, 0x3F6D4660, 0x3F6BB2C5, 0x3F6A271A, 0x3F68A31D, 0x3F672691, 0x3F65B139] ++
  [0x3F6442DB, 0x3F62DB41, 0x3F617A36, 0x3F601F87, 0x3F5ECB04, 0x3F5D7C7F, 0x3F5C33CC, 0x3F5AF0BF] ++
  [0x3F59B330, 0x3F587AF7, 0x3F5747EE, 0x3F5619F2, 0x3F54F0DF, 0x3F53CC93, 0x3F52ACEE, 0x3F5191D1] ++
  [0x3F507B1D, 0x3F4F68B6, 0x3F4E5A7F, 0x3F4D505E, 0x3F4C4A38, 0x3F4B47F4, 0x3F4A497A, 0x3F494EB3] ++
  [0x3F485787, 0x3F4763E2, 0x3F4673AC, 0x3F4586D3, 0x3F449D42, 0x3F43B6E6, 0x3F42D3AD, 0x3F41F383] ++
  [0x3F411659, 0x3F403C1C, 0x3F3F64BD, 0x3F3E902C, 0x3F3DBE58, 0x3F3CEF34, 0x3F3C22B1, 0x3F3B58C0] ++
  [0x3F3A9154, 0x3F39CC60, 0x3F3909D6, 0x3F3849AA, 0x3F378BD0, 0x3F36D03D, 0x3F3616E4, 0x3F355FBA] ++
  [0x3F3450FC, 0x3F32EF41, 0x3F319589, 0x3F304387, 0x3F2EF8F2, 0x3F2DB587, 0x3F2C7904, 0x3F2B432A] ++
  [0x3F2A13C0, 0x3F28EA8C, 0x3F27C759, 0x3F26A9F4, 0x3F25922C, 0x3F247FD3, 0x3F2372BD, 0x3F226ABE] ++
  [0x3F2167AF, 0x3F206968, 0x3F1F6FC4, 0x3F1E7AA0, 0x3F1D89D9, 0x3F1C9D4E, 0x3F1BB4E1, 0x3F1AD073] ++
  [0x3F19EFE6, 0x3F191320, 0x3F183A05, 0x3F17647C, 0x3F16926C, 0x3F15C3BC, 0x3F14F857, 0x3F143026] ++
  [0x3F136B13, 0x3F12A90B, 0x3F11E9F9, 0x3F112DCA, 0x3F10746D, 0x3F0FBDCE, 0x3F0F09DD, 0x3F0E5889] ++
  [0x3F0DA9C2, 0x3F0CFD79, 0x3F0C539F, 0x3F0BAC25, 0x3F0B06FD, 0x3F0A641A, 0x3F09C36D, 0x3F0924EC] ++
  [0x3F088889, 0x3F07EE37, 0x3F0755ED, 0x3F06BF9E, 0x3F062B40, 0x3F0598C7, 0x3F05082A, 0x3F04795F] ++
  [0x3F03EC5C, 0x3F036117, 0x3F02D788, 0x3F024FA6, 0x3F01C967, 0x3F0144C4, 0x3F00C1B4, 0x3F004030]

/-- tt[j] = tanh(j / 32), with 0 at place 0, which R136 does not read. -/
def tanhTt : List Nat :=
  [0x00000000, 0x3CFFEAAD, 0x3D7FAACD, 0x3DBF7081, 0x3DFEACC9, 0x3E1EB5E4, 0x3E3DC7FD, 0x3E5C7E82] ++
  [0x3E7ACBF5, 0x3E8C51CD, 0x3E9AFCC5, 0x3EA96163, 0x3EB77A9F, 0x3EC543F1, 0x3ED2B94F, 0x3EDFD735] ++
  [0x3EEC9A9F, 0x3EF90109, 0x3F028438, 0x3F0857A4, 0x3F0DFA3F, 0x3F136BB8, 0x3F18ABF0, 0x3F1DBAFC] ++
  [0x3F22991F, 0x3F2746C5, 0x3F2BC480, 0x3F301305, 0x3F343328, 0x3F3825D9, 0x3F3BEC1C, 0x3F3F870D] ++
  [0x3F42F7D6, 0x3F463FAE, 0x3F495FDA, 0x3F4C59A3, 0x3F4F2E5B, 0x3F51DF55, 0x3F546DE6, 0x3F56DB63] ++
  [0x3F59291E, 0x3F5B5866, 0x3F5D6A85, 0x3F5F60C0, 0x3F613C53, 0x3F62FE74, 0x3F64A852, 0x3F663B10] ++
  [0x3F67B7CC, 0x3F691F97, 0x3F6A737A, 0x3F6BB475, 0x3F6CE37D, 0x3F6E017F, 0x3F6F0F5B, 0x3F700DEA] ++
  [0x3F70FDFD, 0x3F71E058, 0x3F72B5B8, 0x3F737ED1, 0x3F743C4F, 0x3F74EED6, 0x3F7596FF, 0x3F763560] ++
  [0x3F76CA83, 0x3F7756EE, 0x3F77DB1E, 0x3F78578B, 0x3F78CCA7, 0x3F793ADC, 0x3F79A28F, 0x3F7A0421] ++
  [0x3F7A5FEB, 0x3F7AB645, 0x3F7B077E, 0x3F7B53E2, 0x3F7B9BBB, 0x3F7BDF4C, 0x3F7C1ED6, 0x3F7C5A95] ++
  [0x3F7C92C1, 0x3F7CC792, 0x3F7CF939, 0x3F7D27E8, 0x3F7D53CA, 0x3F7D7D0A, 0x3F7DA3D0, 0x3F7DC843] ++
  [0x3F7DEA85, 0x3F7E0AB8, 0x3F7E28FB, 0x3F7E456C, 0x3F7E6026, 0x3F7E7945, 0x3F7E90E0, 0x3F7EA710] ++
  [0x3F7EBBE9, 0x3F7ECF80, 0x3F7EE1E8, 0x3F7EF334, 0x3F7F0376, 0x3F7F12BB, 0x3F7F2115, 0x3F7F2E91] ++
  [0x3F7F3B3D, 0x3F7F4724, 0x3F7F5254, 0x3F7F5CD6, 0x3F7F66B6, 0x3F7F6FFD, 0x3F7F78B4, 0x3F7F80E5] ++
  [0x3F7F8896, 0x3F7F8FD1, 0x3F7F969B, 0x3F7F9CFD, 0x3F7FA2FB, 0x3F7FA89D, 0x3F7FADE8, 0x3F7FB2E0] ++
  [0x3F7FB78C, 0x3F7FBBEF, 0x3F7FC00E, 0x3F7FC3EE, 0x3F7FC791, 0x3F7FCAFC, 0x3F7FCE32, 0x3F7FD136] ++
  [0x3F7FD40C, 0x3F7FD6B5, 0x3F7FD935, 0x3F7FDB8F, 0x3F7FDDC4, 0x3F7FDFD7, 0x3F7FE1C9, 0x3F7FE39E] ++
  [0x3F7FE556, 0x3F7FE6F4, 0x3F7FE878, 0x3F7FE9E5, 0x3F7FEB3C, 0x3F7FEC7E, 0x3F7FEDAC, 0x3F7FEEC9] ++
  [0x3F7FEFD4, 0x3F7FF0CE, 0x3F7FF1BA, 0x3F7FF297, 0x3F7FF367, 0x3F7FF42B, 0x3F7FF4E2, 0x3F7FF58F] ++
  [0x3F7FF631, 0x3F7FF6C9, 0x3F7FF758, 0x3F7FF7DE, 0x3F7FF85C, 0x3F7FF8D3, 0x3F7FF942, 0x3F7FF9AA] ++
  [0x3F7FFA0D, 0x3F7FFA69, 0x3F7FFAC0, 0x3F7FFB11, 0x3F7FFB5E, 0x3F7FFBA6, 0x3F7FFBE9, 0x3F7FFC28] ++
  [0x3F7FFC64, 0x3F7FFC9C, 0x3F7FFCD1, 0x3F7FFD02, 0x3F7FFD30, 0x3F7FFD5C, 0x3F7FFD85, 0x3F7FFDAB] ++
  [0x3F7FFDD0, 0x3F7FFDF2, 0x3F7FFE11, 0x3F7FFE2F, 0x3F7FFE4C, 0x3F7FFE66, 0x3F7FFE7F, 0x3F7FFE96] ++
  [0x3F7FFEAC, 0x3F7FFEC1, 0x3F7FFED4, 0x3F7FFEE6, 0x3F7FFEF7, 0x3F7FFF07, 0x3F7FFF16, 0x3F7FFF25] ++
  [0x3F7FFF32, 0x3F7FFF3E, 0x3F7FFF4A, 0x3F7FFF55, 0x3F7FFF5F, 0x3F7FFF69, 0x3F7FFF72, 0x3F7FFF7B] ++
  [0x3F7FFF83, 0x3F7FFF8B, 0x3F7FFF92, 0x3F7FFF98, 0x3F7FFF9F, 0x3F7FFFA5, 0x3F7FFFAA, 0x3F7FFFAF] ++
  [0x3F7FFFB4, 0x3F7FFFB9, 0x3F7FFFBD, 0x3F7FFFC1, 0x3F7FFFC5, 0x3F7FFFC9, 0x3F7FFFCC, 0x3F7FFFCF] ++
  [0x3F7FFFD2, 0x3F7FFFD5, 0x3F7FFFD7, 0x3F7FFFDA, 0x3F7FFFDC, 0x3F7FFFDE, 0x3F7FFFE0, 0x3F7FFFE2] ++
  [0x3F7FFFE4, 0x3F7FFFE6, 0x3F7FFFE7, 0x3F7FFFE9, 0x3F7FFFEA, 0x3F7FFFEC, 0x3F7FFFED, 0x3F7FFFEE] ++
  [0x3F7FFFEF, 0x3F7FFFF0, 0x3F7FFFF1, 0x3F7FFFF2, 0x3F7FFFF3, 0x3F7FFFF4, 0x3F7FFFF4, 0x3F7FFFF5] ++
  [0x3F7FFFF6, 0x3F7FFFF6, 0x3F7FFFF7, 0x3F7FFFF7, 0x3F7FFFF8, 0x3F7FFFF8, 0x3F7FFFF9, 0x3F7FFFF9] ++
  [0x3F7FFFFA, 0x3F7FFFFA, 0x3F7FFFFB, 0x3F7FFFFB, 0x3F7FFFFB, 0x3F7FFFFB, 0x3F7FFFFC, 0x3F7FFFFC] ++
  [0x3F7FFFFC, 0x3F7FFFFC, 0x3F7FFFFD, 0x3F7FFFFD, 0x3F7FFFFD, 0x3F7FFFFD, 0x3F7FFFFD, 0x3F7FFFFE] ++
  [0x3F7FFFFE, 0x3F7FFFFE, 0x3F7FFFFE, 0x3F7FFFFE, 0x3F7FFFFE, 0x3F7FFFFE, 0x3F7FFFFE, 0x3F7FFFFF] ++
  [0x3F7FFFFF, 0x3F7FFFFF, 0x3F7FFFFF, 0x3F7FFFFF, 0x3F7FFFFF, 0x3F7FFFFF, 0x3F7FFFFF, 0x3F7FFFFF] ++
  [0x3F7FFFFF, 0x3F7FFFFF, 0x3F7FFFFF, 0x3F7FFFFF, 0x3F7FFFFF, 0x3F7FFFFF, 0x3F7FFFFF, 0x3F7FFFFF] ++
  [0x3F7FFFFF]

def fAdd (a b : Nat) : Nat := (Fmt.fp32.addBits a b).1
def fMul (a b : Nat) : Nat := (Fmt.fp32.mulBits a b).1
def fDiv (a b : Nat) : Nat := (Fmt.fp32.divBits a b).1
def fFma (a b c : Nat) : Nat := (Fmt.fp32.fmaBits a b c).1
def fNeg (a : Nat) : Nat := a ^^^ 0x80000000

/-- An integer as FP32. -/
def fInt (i : Int) : Nat := (Fmt.fp32.round (.ofInt i)).1

/-- The nearest integer to a value, ties to even. -/
def nearestInt (v : Val) : Int :=
  match v with
  | .fin neg m e => (if neg then -1 else 1) * ((nearest m e 0).1 : Int)
  | _ => 0

/-- The value of FP32 bits. -/
def fVal (a : Nat) : Val := Fmt.fp32.decode a

/-- FP32 infinity and the canonical NaN with the flag of a signalling operand (R137). -/
def fInf (neg : Bool) : Nat := if neg then 0xFF800000 else 0x7F800000
def fNanOf (v : Val) : Nat × NFlags := (0x7FC00000, NFlags.when v.isSig NFlags.invalid)

/-- exp (R133). Its result is exact only at zero. -/
def vexp32 (x : Nat) : Nat × NFlags :=
  match fVal x with
  | .nan s => fNanOf (.nan s)
  | .inf neg => (if neg then 0 else fInf false, 0)
  | v =>
    if !(v.lt (fVal 0x42B17230)) then (fInf false, NFlags.overflow ||| NFlags.inexact)
    else if v.lt (fVal 0xC2D00000) then (0, NFlags.underflow ||| NFlags.inexact)
    else
      let k := nearestInt (fVal (fMul x 0x42B8AA3B))
      let j := (k % 64).toNat
      let n := (k - j) / 64
      let nk := fInt (-k)
      let r := fFma nk 0x3c317218 x
      let r := fFma nk 0xae02e308 r
      let p := fFma 0x3e2aaaab r 0x3F000000
      let p := fFma p r 0x3F800000
      let tj := expT.getD j 0
      let y := fFma tj (fMul p r) tj
      let (z, fl) := Fmt.fp32.round ((fVal y).scale n)
      (z, fl ||| NFlags.when (!v.isZero) NFlags.inexact)

/-- A positive finite value as m × 2^e with 1 ≤ m < 2: the 24-bit significand of m and e. Subnormals are normalised. -/
def normalise (m : Nat) (e : Int) : Nat × Int :=
  let k := 23 - m.log2
  (m * 2 ^ k, e - k + 23)

/-- log2 (R134). Its result is exact only at powers of two. -/
def vlog232 (x : Nat) : Nat × NFlags :=
  match fVal x with
  | .nan s => fNanOf (.nan s)
  | .inf neg => if neg then (0x7FC00000, NFlags.invalid) else (fInf false, 0)
  | .fin neg m e =>
    if m = 0 then (fInf true, 0)
    else if neg then (0x7FC00000, NFlags.invalid)
    else
      let (s, ex) := normalise m e
      let mb := 0x3F800000 + (s - 2 ^ 23)
      let j := (s - 2 ^ 23) / 2 ^ 17
      let u := fFma mb (logRr.getD j 0) 0xBF800000
      let q := fFma 0xBEB8AA3B u 0x3ef6384f
      let q := fFma q u 0xBF38AA3B
      let q := fFma q u 0x3FB8AA3B
      let r := fAdd (fAdd (fInt ex) (logLt.getD j 0)) (fMul q u)
      (r, NFlags.when (s ≠ 2 ^ 23) NFlags.inexact)

/-- rsqrt (R135). Its result is exact only at powers of four. -/
def vrsqrt32 (x : Nat) : Nat × NFlags :=
  match fVal x with
  | .nan s => fNanOf (.nan s)
  | .inf neg => if neg then (0x7FC00000, NFlags.invalid) else (0, 0)
  | .fin neg m e =>
    if m = 0 then (fInf neg, 0)
    else if neg then (0x7FC00000, NFlags.invalid)
    else
      let (s, ex) := normalise m e
      let odd := ex % 2 = 1
      let h := ex / 2
      -- m of the rule, in [1, 4)
      let mb := (if odd then 0x40000000 else 0x3F800000) + (s - 2 ^ 23)
      if s = 2 ^ 23 && !odd then ((Fmt.fp32.round ((Val.ofInt 1).scale (-h))).1, 0)
      else
        let j := (if odd then 64 else 0) + (s - 2 ^ 23) / 2 ^ 17
        let yj := rsqrtYt.getD j 0
        let d := fFma (fNeg mb) (fMul yj yj) 0x3F800000
        let q := fFma 0x3EA00000 d 0x3EC00000
        let q := fFma q d 0x3F000000
        let y := fFma yj (fMul q d) yj
        ((Fmt.fp32.round ((fVal y).scale (-h))).1, NFlags.inexact)

/-- tanh (R136). Its result is exact only at zero and at infinities. -/
def vtanh32 (x : Nat) : Nat × NFlags :=
  let neg := decide (0x80000000 ≤ x)
  let sign (y : Nat) : Nat := if neg then y % 0x80000000 + 0x80000000 else y % 0x80000000
  match fVal x with
  | .nan s => fNanOf (.nan s)
  | .inf _ => (sign 0x3F800000, 0)
  | .fin _ m e =>
    let a : Val := .fin false m e
    if !(a.lt (.ofInt 9)) then (sign 0x3F800000, NFlags.inexact)
    else
      let j := nearestInt (a.scale 5)
      let b := (Fmt.fp32.round (a.add ((Val.ofInt (-j)).scale (-5))).1).1
      let b2 := fMul b b
      let q := fMul (fFma 0x3e088889 b2 0xBEAAAAAB) b2
      let tb := fFma q b b
      let tj := tanhTt.getD j.toNat 0
      let y := if j = 0 then tb else fDiv (fAdd tj tb) (fFma tj tb 0x3F800000)
      (sign y, NFlags.when (m ≠ 0) NFlags.inexact)

/-- The functions of R132 by their code in FN[7:2]: 0 exp, 1 log2, 2 rsqrt, 3 tanh. -/
def transc32 (code : Nat) (x : Nat) : Nat × NFlags :=
  match code with
  | 0 => vexp32 x
  | 1 => vlog232 x
  | 2 => vrsqrt32 x
  | _ => vtanh32 x

/-- A lane of a transcendental instruction (R132): the 16-bit forms widen exactly, evaluate the FP32 definition and round
once. DEDUCED: a 16-bit form reports the flags of the definition and of its rounding (log entry 9). -/
def transc (f : Fmt) (code : Nat) (x : Nat) : Nat × NFlags :=
  if f = .fp32 then transc32 code x
  else
    let v := f.decode x
    if v.isNan then (f.nan, NFlags.when v.isSig NFlags.invalid)
    else
      let (y, fl) := transc32 code (Fmt.fp32.round v).1
      let (z, fl') := f.round (fVal y)
      (z, fl ||| fl')

end Sys2Proof.Machine
end

