-- ==== Sys2Proof/Machine/Vector.lean ====
section
/-! DEFINITION. The vector instructions (R154 to R156) but for vtrd and vtwr, which Tile.lean holds. -/

namespace Sys2Proof.Machine

open Sys2Proof

/-- The format that a width field selects (R154): 0 FP32, 1 BF16, 2 FP16. -/
def laneFmt (w : BitVec 2) : Fmt := fmtOf w.toNat

/-- The lanes of a register at a width: 48 of 32 bits, or 96 of 16 bits. -/
def lanes (w : BitVec 2) (v : BitVec 1536) : List Nat :=
  if w = 0 then unpackNat 32 48 v.toNat else unpackNat 16 96 v.toNat

/-- A register of lanes. -/
def ofLanes (w : BitVec 2) (xs : List Nat) : BitVec 1536 :=
  BitVec.ofNat 1536 (if w = 0 then packNat 32 xs else packNat 16 xs)

/-- Flags of all lanes together. -/
def orFlags (rs : List (Nat × NFlags)) : NFlags := rs.foldl (fun a r => a ||| r.2) 0

/-- A vector result written, its flags set, and a NaN in it trapped (R137, R138). -/
def writeVec (k : CtxAt) (op : Nat) (w : BitVec 2) (d : BitVec 5) (rs : List (Nat × NFlags)) (t : State) : State :=
  let pc := (t.ctx k).pc
  let t := writeV t k d (ofLanes w (rs.map (·.1)))
  let t := addCtxFlags t k true (orFlags rs)
  if rs.any fun r => (laneFmt w).isNanBits r.1 then nanCtx t k 1 op pc else t

/-- An operation on the lanes of one register. -/
def vec1 (k : CtxAt) (op fn : Nat) (w : BitVec 2) (d a : BitVec 5) (f : Nat → Nat × NFlags) (s : State) : Out :=
  issue k (encR op (4 * fn + w.toNat) d a 0 0 0) s fun t =>
    waitUntil (vReady (t.ctx k) [d, a]) t
      (writeVec k op w d ((lanes w ((t.ctx k).v a)).map f) t)

/-- An operation on the lanes of two registers. -/
def vec2 (k : CtxAt) (op fn : Nat) (w : BitVec 2) (d a b : BitVec 5) (f : Nat → Nat → Nat × NFlags) (s : State) : Out :=
  issue k (encR op (4 * fn + w.toNat) d a b 0 0) s fun t =>
    waitUntil (vReady (t.ctx k) [d, a, b]) t
      (writeVec k op w d (List.zipWith f (lanes w ((t.ctx k).v a)) (lanes w ((t.ctx k).v b))) t)

/-- An operation on bits, which sets no flags and never traps (R113, R138). -/
def vecBits (k : CtxAt) (word : Word) (rs : List (BitVec 5)) (d : BitVec 5) (f : Context → BitVec 1536) (s : State) : Out :=
  issue k word s fun t => waitUntil (vReady (t.ctx k) (d :: rs)) t (writeV t k d (f (t.ctx k)))

/-- vld (R154): vD = the 192 bytes at sA + sext(X). -/
def execVld (k : CtxAt) (d a : BitVec 5) (x : BitVec 28) (s : State) : Out :=
  issue k (encR 0x20 0 d a 0 0 x) s fun t =>
    waitUntil (vReady (t.ctx k) [d]) t
      (loadStore k (encR 0x20 0 d a 0 0 x) (effOffset (t.ctx k) a x) 192 64 t
        fun t bs => writeV t k d (BitVec.ofNat 1536 (ofBytes bs)))

/-- vst (R154): the 192 bytes of vB to sA + sext(X). -/
def execVst (k : CtxAt) (a b : BitVec 5) (x : BitVec 28) (s : State) : Out :=
  issue k (encR 0x21 0 0 a b 0 x) s fun t =>
    waitUntil (vReady (t.ctx k) [b]) t
      (saveStore k (encR 0x21 0 0 a b 0 x) (effOffset (t.ctx k) a x) 192 64 t (toBytes 192 ((t.ctx k).v b).toNat))

/-- vbcast (R154): every lane = sA[31:0] or sA[15:0], as bits. -/
def execVbcast (k : CtxAt) (w : BitVec 2) (d a : BitVec 5) (s : State) : Out :=
  vecBits k (encR 0x22 w.toNat d a 0 0 0) [] d
    (fun c => ofLanes w (List.replicate (if w = 0 then 48 else 96) (c.s a).toNat)) s

/-- vget (R154): sD = 32-bit lane X[5:0] of vA, zero-extended. -/
def execVget (k : CtxAt) (d a : BitVec 5) (x : BitVec 28) (s : State) : Out :=
  issue k (encR 0x23 0 d a 0 0 x) s fun t =>
    waitUntil (vReady (t.ctx k) [a]) t
      (writeS t k d (BitVec.ofNat 64 (fld ((t.ctx k).v a).toNat (32 * (x.toNat % 64)) 32)))

/-- vadd (R154, R121). -/
def execVadd (k : CtxAt) (w : BitVec 2) (d a b : BitVec 5) (s : State) : Out := vec2 k 0x24 0 w d a b (laneFmt w).addBits s

/-- vsub (R154, R121). -/
def execVsub (k : CtxAt) (w : BitVec 2) (d a b : BitVec 5) (s : State) : Out := vec2 k 0x24 1 w d a b (laneFmt w).subBits s

/-- vmul (R154, R121). -/
def execVmul (k : CtxAt) (w : BitVec 2) (d a b : BitVec 5) (s : State) : Out := vec2 k 0x24 2 w d a b (laneFmt w).mulBits s

/-- vmin (R154). -/
def execVmin (k : CtxAt) (w : BitVec 2) (d a b : BitVec 5) (s : State) : Out :=
  vec2 k 0x24 3 w d a b ((laneFmt w).minMax false) s

/-- vmax (R154). -/
def execVmax (k : CtxAt) (w : BitVec 2) (d a b : BitVec 5) (s : State) : Out :=
  vec2 k 0x24 4 w d a b ((laneFmt w).minMax true) s

/-- The sign bit of a lane. -/
def signBit (w : BitVec 2) : Nat := if w = 0 then 2 ^ 31 else 2 ^ 15

/-- vneg (R154): the sign bit of each lane flipped. -/
def execVneg (k : CtxAt) (w : BitVec 2) (d a : BitVec 5) (s : State) : Out :=
  vecBits k (encR 0x24 (4 * 5 + w.toNat) d a 0 0 0) [a] d
    (fun c => ofLanes w ((lanes w (c.v a)).map fun x => x ^^^ signBit w)) s

/-- vabs (R154): the sign bit of each lane cleared. -/
def execVabs (k : CtxAt) (w : BitVec 2) (d a : BitVec 5) (s : State) : Out :=
  vecBits k (encR 0x24 (4 * 6 + w.toNat) d a 0 0 0) [a] d
    (fun c => ofLanes w ((lanes w (c.v a)).map fun x => x % signBit w)) s

/-- vfma (R154): vA × vB + vC, one rounding. -/
def execVfma (k : CtxAt) (w : BitVec 2) (d a b c : BitVec 5) (s : State) : Out :=
  issue k (encR 0x25 w.toNat d a b c 0) s fun t =>
    let x := t.ctx k
    waitUntil (vReady x [d, a, b, c]) t
      (writeVec k 0x25 w d
        (((lanes w (x.v a)).zip ((lanes w (x.v b)).zip (lanes w (x.v c)))).map fun p =>
          (laneFmt w).fmaBits p.1 p.2.1 p.2.2) t)

/-- One level of the tree of R130: the first n items, each added to the item n places on. -/
def sumLevel (n : Nat) (xs : List (Nat × NFlags)) : List (Nat × NFlags) :=
  List.zipWith (fun a b => let r := Fmt.fp32.addBits a.1 b.1; (r.1, a.2 ||| b.2 ||| r.2)) (xs.take n) ((xs.drop n).take n)

/-- The sum of R130 over 48 FP32 values. -/
def treeSum (xs : List (Nat × NFlags)) : Nat × NFlags :=
  let t := sumLevel 3 (sumLevel 6 (sumLevel 12 (sumLevel 24 xs)))
  let a := sumLevel 1 t
  let r := sumLevel 1 (a ++ t.drop 2)
  r.getD 0 (0, 0)

/-- The lanes of a sum as 48 FP32 values: 96 lanes are widened exactly and added in halves first (R130). -/
def sumLanes (w : BitVec 2) (v : BitVec 1536) : List (Nat × NFlags) :=
  if w = 0 then (lanes w v).map fun x => (x, 0)
  else
    let f := laneFmt w
    let xs := (lanes w v).map f.decode
    List.zipWith (fun a b => Fmt.fp32.roundInv (a.add b)) (xs.take 48) (xs.drop 48)

/-- vsum (R154): lane 0 of vD = the sum of R130 as FP32; other lanes +0. -/
def execVsum (k : CtxAt) (w : BitVec 2) (d a : BitVec 5) (s : State) : Out :=
  issue k (encR 0x26 w.toNat d a 0 0 0) s fun t =>
    waitUntil (vReady (t.ctx k) [d, a]) t
      (writeVec k 0x26 0 d (treeSum (sumLanes w ((t.ctx k).v a)) :: List.replicate 47 (0, 0)) t)

/-- A comparison (R154): lane all ones if true, else all zeros. Its result is a mask, not a number, so it does not trap
(log entry 11). -/
def vecCompare (k : CtxAt) (code : Nat) (w : BitVec 2) (d a b : BitVec 5) (s : State) : Out :=
  issue k (encR 0x27 (4 * code + w.toNat) d a b 0 0) s fun t =>
    let x := t.ctx k
    let rs := List.zipWith ((laneFmt w).compare code) (lanes w (x.v a)) (lanes w (x.v b))
    waitUntil (vReady x [d, a, b]) t
      (addCtxFlags (writeV t k d (ofLanes w (rs.map fun r => if r.1 then 2 * signBit w - 1 else 0))) k true
        (rs.foldl (fun a r => a ||| r.2) 0))

/-- vcmp.gt (R154). [DEDUCED: log entry 11] -/
def execVcmpGt (k : CtxAt) (w : BitVec 2) (d a b : BitVec 5) (s : State) : Out := vecCompare k 0 w d a b s

/-- vcmp.ge (R154). -/
def execVcmpGe (k : CtxAt) (w : BitVec 2) (d a b : BitVec 5) (s : State) : Out := vecCompare k 1 w d a b s

/-- vcmp.eq (R154). -/
def execVcmpEq (k : CtxAt) (w : BitVec 2) (d a b : BitVec 5) (s : State) : Out := vecCompare k 2 w d a b s

/-- vand (R154). -/
def execVand (k : CtxAt) (d a b : BitVec 5) (s : State) : Out :=
  vecBits k (encR 0x28 0 d a b 0 0) [a, b] d (fun c => c.v a &&& c.v b) s

/-- vor (R154). -/
def execVor (k : CtxAt) (d a b : BitVec 5) (s : State) : Out :=
  vecBits k (encR 0x28 4 d a b 0 0) [a, b] d (fun c => c.v a ||| c.v b) s

/-- vxor (R154). -/
def execVxor (k : CtxAt) (d a b : BitVec 5) (s : State) : Out :=
  vecBits k (encR 0x28 8 d a b 0 0) [a, b] d (fun c => c.v a ^^^ c.v b) s

/-- vsel (R154): (vA and vC) or (vB and not vC). -/
def execVsel (k : CtxAt) (d a b c : BitVec 5) (s : State) : Out :=
  vecBits k (encR 0x28 12 d a b c 0) [a, b, c] d (fun x => (x.v a &&& x.v c) ||| (x.v b &&& ~~~x.v c)) s

/-- vexp (R154, R133). -/
def execVexp (k : CtxAt) (w : BitVec 2) (d a : BitVec 5) (s : State) : Out := vec1 k 0x29 0 w d a (transc (laneFmt w) 0) s

/-- vlog2 (R154, R134). -/
def execVlog2 (k : CtxAt) (w : BitVec 2) (d a : BitVec 5) (s : State) : Out := vec1 k 0x29 1 w d a (transc (laneFmt w) 1) s

/-- vrsqrt (R154, R135). -/
def execVrsqrt (k : CtxAt) (w : BitVec 2) (d a : BitVec 5) (s : State) : Out := vec1 k 0x29 2 w d a (transc (laneFmt w) 2) s

/-- vtanh (R154, R136). -/
def execVtanh (k : CtxAt) (w : BitVec 2) (d a : BitVec 5) (s : State) : Out := vec1 k 0x29 3 w d a (transc (laneFmt w) 3) s

/-! ### vcvt (R155, R156) -/

/-- n elements of a small format with their values: packed from a byte, block scales at another byte (R155, R116). -/
def smallVals (f n data scale v : Nat) : List Val :=
  let xs := (unpackNat (fmtWidth f) n (v / 2 ^ (8 * data))).map (fmtOf f).decode
  if fmtBlock f then xs.zipIdx.map fun (x, i) => scaled x (fld v (8 * (scale + i / 32)) 8) else xs

/-- The source elements of a conversion as exact values, `va` and `vb` being vA and vA + 1 (R155). -/
def cvtSource (c : Cvt) (va vb : Nat) : List Val :=
  if c.src = 0 then
    let xs := (unpackNat 32 48 va).map Fmt.fp32.decode
    if cvtSrcPair c then xs ++ (unpackNat 32 48 vb).map Fmt.fp32.decode else xs
  else if isFp16Kind c.src then (unpackNat 16 96 va).map (fmtOf c.src).decode
  else if c.src = 10 then smallVals 10 96 (48 * c.half) (96 + 3 * c.half) va
  else smallVals c.src 96 0 96 va

/-- An element into a target that is not a block format: a float, INT8 or INT4. -/
def cvtElem (tgt : Nat) (w : Rounding) (v : Val) : Nat × NFlags :=
  if tgt = 6 then toIntFmt 8 v else if tgt = 7 then toIntFmt 4 v else (fmtOf tgt).convert w v

/-- Blocks of 32 quantised: the elements, the scale codes, the flags. -/
def cvtBlocks (tgt : Nat) (n : Nat) (ws : List Rounding) (vs : List Val) : List Nat × List Nat × NFlags :=
  let rs := List.zipWith (quantBlock tgt) (chunks 32 n ws) (chunks 32 n vs)
  (rs.flatMap (·.2.1), rs.map (·.1), rs.foldl (fun a r => a ||| r.2.2) 0)

/-- A result of a conversion: vD, vD + 1 when it is written, flags, and whether it contains a NaN. -/
structure CvtResult where
  lo : BitVec 1536
  hi : Option (BitVec 1536)
  flags : NFlags
  nan : Bool
  deriving DecidableEq, Repr

/-- Bytes 48H to 48H + 47 and 96 + 3H to 98 + 3H of a register replaced (R155, the BF4A result). -/
def putBf4a (old half data scales : Nat) : BitVec 1536 :=
  let clear (v lo n : Nat) : Nat := v - fld v lo n * 2 ^ lo
  let v := clear (clear old (384 * half) 384) (8 * (96 + 3 * half)) 24
  BitVec.ofNat 1536 (v + data * 2 ^ (384 * half) + scales * 2 ^ (8 * (96 + 3 * half)))

/-- The conversion of vcvt in modes 0 and 1 (R155); `old` is vD before it. -/
def cvtNumeric (c : Cvt) (seed index : Word) (va vb old : Nat) : CvtResult :=
  let vs := cvtSource c va vb
  let ws := vs.zipIdx.map fun (_, i) => if c.mode = 1 then Rounding.sr (roundingGen seed (index + BitVec.ofNat 64 i)) else .rne
  if fmtBlock c.tgt then
    let (xs, ss, fl) := cvtBlocks c.tgt 3 ws vs
    let data := packNat (fmtWidth c.tgt) xs
    let nan := vs.any Val.isNan
    if c.tgt = 10 then ⟨putBf4a old c.half data (packNat 8 ss), none, fl, nan⟩
    else ⟨BitVec.ofNat 1536 (data + packNat 8 ss * 2 ^ 768), none, fl, nan⟩
  else
    let rs := (vs.zip ws).map fun (v, w) => cvtElem c.tgt w v
    let xs := rs.map (·.1)
    let nan := c.tgt ≠ 6 && c.tgt ≠ 7 && xs.any (fmtOf c.tgt).isNanBits
    if c.tgt = 0 then ⟨BitVec.ofNat 1536 (packNat 32 (xs.take 48)), some (BitVec.ofNat 1536 (packNat 32 (xs.drop 48))),
      orFlags rs, nan⟩
    else ⟨BitVec.ofNat 1536 (packNat (fmtWidth c.tgt) xs), none, orFlags rs, nan⟩

/-- The lanes that a STASH mode packs or unpacks: 48 of FP32, 96 of a 16-bit format. -/
def stashCount (f : Nat) : Nat := if f = 0 then 48 else 96

/-- The conversion of vcvt in every mode. STASH modes set no flags (R129) and produce no NaN. -/
def cvtRun (c : Cvt) (seed index : Word) (va vb old : Nat) : CvtResult :=
  match c.mode with
  | 2 =>
    let xs := unpackNat (fmtWidth c.src) (stashCount c.src) va
    ⟨BitVec.ofNat 1536 (packNat 1 (xs.map fun x => (stashBit (fmtOf c.src) c.stash x).toNat)), none, 0, false⟩
  | 3 =>
    let bs := unpackNat 1 (stashCount c.tgt) va
    ⟨BitVec.ofNat 1536 (packNat (fmtWidth c.tgt) (bs.map fun b => stashUnpack (fmtOf c.tgt) (b = 1))), none, 0, false⟩
  | _ => cvtNumeric c seed index va vb old

/-- The v registers that a conversion reads and writes. -/
def cvtRegs (c : Cvt) (d a : BitVec 5) : List (BitVec 5) :=
  [d, a] ++ (if cvtSrcPair c then [a + 1] else []) ++ (if cvtDstPair c then [d + 1] else [])

/-- vcvt (R155, R156). -/
def execVcvt (k : CtxAt) (mode : BitVec 2) (d a b c : BitVec 5) (x : BitVec 28) (s : State) : Out :=
  issue k (encR 0x2A mode.toNat d a b c x) s fun t =>
    let y := t.ctx k
    let cv := cvtOf mode.toNat x.toNat
    let r := cvtRun cv (y.s b) (y.s c) (y.v a).toNat (y.v (a + 1)).toNat (y.v d).toNat
    waitUntil (vReady y (cvtRegs cv d a)) t
      (let t := match r.hi with
        | some h => t.setCtx k ((t.ctx k).setV (d + 1) h)
        | none => t
      let t := addCtxFlags (writeV t k d r.lo) k true r.flags
      if r.nan then nanCtx t k 1 0x2A y.pc else t)

end Sys2Proof.Machine
end

