-- ==== Sys2Proof/Machine/Tile.lean ====
section
/-! DEFINITION. The issue of tile instructions (R48 to R66, R87, R94, R95, R99 to R102, R157 to R163): their checks, what
they capture, the in-use bits they set, and their place in the tile queue. Pipe.lean runs them. -/

namespace Sys2Proof.Machine

open Sys2Proof

/-! ### Shapes -/

/-- A failed check: cause and tile (R65). -/
abbrev Fail := Nat × Nat

/-- The checks of one TCFG entry (R50, R65): ROWS, WIDTH, FORMAT. [DEDUCED: log entry 53] -/
def cfgFails (e : BitVec 32) (tile : Nat) : List Fail :=
  let f := cfgFmt e
  let cols := cfgCols e
  (if cfgRows e = 0 || 48 < cfgRows e then [(1, tile)] else []) ++
  (if cols = 0 || (f < 12 && (fmtMaxCols f < cols || 768 < cols * fmtWidth f || (fmtIs4 f && cols % 2 = 1)
      || (fmtBlock f && cols % 32 ≠ 0))) then [(2, tile)] else []) ++
  (if 12 ≤ f then [(3, tile)] else [])

/-- A check that fails with a cause and tile when a condition holds. -/
def failIf (c : Bool) (cause tile : Nat) : List Fail := if c then [(cause, tile)] else []

/-- The failed check with the lowest cause number (R65). -/
def lowest : List Fail → Option Fail
  | [] => none
  | f :: fs =>
    match lowest fs with
    | some g => if g.1 < f.1 then some g else some f
    | none => some f

/-- The bytes of a row of n elements in memory with its scale bytes (R116). -/
def rowBytes (fmt n : Nat) : Nat := ceilDiv (n * fmtWidth fmt) 8 + (if fmtBlock fmt then n / 32 else 0)

/-- The core-store address fault of a tile or streamed access of `rows` rows of `bytes` bytes (R150). -/
def tileStoreFault (base stride : Word) (rows bytes : Nat) : Option Nat :=
  if 0 < rows && storeSize < base.toNat + (rows - 1) * stride.toNat + bytes then some 1
  else if base.toNat % 32 ≠ 0 || stride.toNat % 32 ≠ 0 then some 2
  else none

/-! ### Weights as the queue will leave them (R57, R64) -/

/-- What is known of the weights at a place of the instruction stream: the order of issue of their twl, source, form, entries, feeder configuration. -/
structure WSrc where
  seq : Nat
  src : Nat
  pair : Bool
  cfg0 : BitVec 32
  fc : FeederCfg
  deriving DecidableEq, Repr

def WLatch.toSrc (w : WLatch) : WSrc := ⟨w.seq, w.src, w.pair, w.cfg0, w.fc⟩

def WSrc.tiles (w : WSrc) : List Nat := if w.pair then [w.src, w.src + 1] else [w.src]

/-- The tiles that a tile instruction writes. -/
def opWrites : TileOpc → List Nat
  | .tld d _ _ _ _ => [d]
  | .drain _ _ (.tiles d) => [d, d + 1]
  | .vtwr t _ _ => [t]
  | _ => []

/-- The tiles that a tile instruction reads; the entry-only tile of a streamed or non-source operand is none (R94, R101). -/
def opReads (core : Nat) (o : TileOp) : List Nat :=
  match o.opc with
  | .tst a _ _ _ => [a]
  | .twl a pair => if pair then [a, a + 1] else [a]
  | .prod p =>
    (if p.mode = 0 || (p.mode = 2 && p.member = pondMember core) then
      (if formPair p.form then [p.tile, p.tile + 1] else [p.tile]) else []) ++ o.wsrc
  | .vtrd _ t _ => [t]
  | _ => []

/-- The weights after one more instruction of the queue (R57): an instruction issued before the twl that latched them has written
their source before. -/
def weightsAfter (w : Option WSrc) (o : TileOp) : Option WSrc :=
  match o.opc with
  | .twl a pair => some ⟨o.seq, a, pair, o.cfg0, o.fc⟩
  | _ => w.filter fun x => decide (o.seq < x.seq) || !(opWrites o.opc).any x.tiles.contains

/-- The weights that an instruction issued now will find: those of the pending latch, else the active set, then what the
queued instructions make of them. -/
def Context.weightsAtIssue (c : Context) : Option WSrc :=
  c.queue.foldl weightsAfter ((match c.shadow with
    | some w => some w
    | none => c.latch).map WLatch.toSrc)

/-- The weight sources of a context (R57): of the active set, of the pending latch, and of every queued twl. -/
def Context.weightSources (c : Context) : List Nat :=
  (match c.latch with
    | some w => w.tiles
    | none => []) ++
  (match c.shadow with
    | some w => w.tiles
    | none => []) ++
  c.queue.flatMap fun o => match o.opc with
    | .twl a pair => if pair then [a, a + 1] else [a]
    | _ => []

/-! ### In-use bits -/

def Context.tileInUse (c : Context) (t : Nat) : Bool := c.tinuse.getLsbD t
def Context.accInUse (c : Context) (a : Nat) : Bool := c.accinuse.getLsbD a

/-- TINUSE bits set (R53). -/
def setTiles (b : BitVec 16) (ts : List Nat) : BitVec 16 := ts.foldl (fun b t => b ||| BitVec.ofNat 16 (2 ^ t)) b

/-- ACCINUSE bits set (R55). -/
def setAccs (b : BitVec 2) (xs : List Nat) : BitVec 2 := xs.foldl (fun b a => b ||| BitVec.ofNat 2 (2 ^ a)) b

/-! ### The queue -/

/-- The pipe and stage of a tile instruction (R51, R83). -/
def opStage : TileOpc → Stage
  | .twl _ _ => .weight
  | .prod _ => .feed
  | _ => .move

/-- An accumulating instruction (R60): it resumes at TSTART. -/
def opAccumulating : TileOpc → Bool
  | .prod _ => true
  | .tst _ _ _ .add => true
  | .drain _ clear dst => clear || (match dst with
    | .handoff _ => true
    | _ => false)
  | _ => false

/-- The two stages of one pipe (R83). -/
def samePipe (a b : Stage) : Bool := (a = .move) == (b = .move)

/-- The VALID bit and the row that TSTART holds for the pipe of a stage (R78). -/
def tstartOf (c : Context) (st : Stage) : Bool × Nat :=
  if st = .move then (c.tstart.getLsbD 17, fld c.tstart.toNat 8 6) else (c.tstart.getLsbD 16, fld c.tstart.toNat 0 6)

/-- TSTART written for a pipe (R61). -/
def putTstart (b : BitVec 18) (st : Stage) (valid : Bool) (row : Nat) : BitVec 18 :=
  let v := b.toNat
  let clear (v lo n : Nat) : Nat := v - fld v lo n * 2 ^ lo
  if st = .move then BitVec.ofNat 18 (clear (clear v 17 1) 8 6 + valid.toNat * 2 ^ 17 + row % 64 * 2 ^ 8)
  else BitVec.ofNat 18 (clear (clear v 16 1) 0 6 + valid.toNat * 2 ^ 16 + row % 64)

/-- Cause 7 of R65: the instruction would be the head of its pipe, resumes, and TSTART does not fit it. -/
def tstartFails (c : Context) (opc : TileOpc) (rows : Nat) : List Fail :=
  let st := opStage opc
  let head := c.queue.all fun o => !samePipe (opStage o.opc) st
  let (valid, row) := tstartOf c st
  failIf (head && opAccumulating opc && valid && (row % 8 ≠ 0 || rows ≤ row)) 7 31

/-- A queued tdrain.c of an accumulator that a later accumulating instruction names no longer clears its ACCINUSE bit
(R55). -/
def supersede (accs : List Nat) (o : TileOp) : TileOp :=
  match o.opc with
  | .drain acc true _ => if accs.contains acc.toNat then { o with superseded := true } else o
  | _ => o

/-- A tile instruction that has passed its checks enters the queue of its context, with the in-use bits set (R51, R53, R55);
`clears` are the accumulators whose bit was 0. -/
def enqueue (t : State) (k : CtxAt) (op : Nat) (opc : TileOpc) (rows : Nat) (cfg0 cfg1 : BitVec 32) (accs : List Nat) :
    State :=
  let c := t.ctx k
  let wsrc := match opc with
    | .prod _ => (match c.weightsAtIssue with
      | some w => w.tiles
      | none => [])
    | _ => []
  let clears := setAccs 0 (accs.filter fun a => !c.accInUse a)
  let o : TileOp :=
    { seq := c.seq, pc := c.pc, opc := opc, op := op, rows := rows, cfg0 := cfg0, cfg1 := cfg1, fc := c.fc, wsrc := wsrc,
      weights := none, started := false, row := 0, inGroup := false, agreed := false, nan := false, clears := clears,
      superseded := false, stopped := false }
  t.setCtx k
    { c with
      seq := c.seq + 1
      pc := pcAdd c.pc 1
      queue := c.queue.map (supersede accs) ++ [o]
      tinuse := setTiles c.tinuse (opWrites opc)
      accinuse := setAccs c.accinuse accs }

/-- The issue of a tile instruction into the queue: a full queue stalls it (R51); a core-store address fault, then a
tile-shape fault, stops it (R151); else it enters the queue. -/
def issueTile (k : CtxAt) (w : Word) (t : State) (cs : Option (Nat × Nat)) (fails : List Fail) (opc : TileOpc) (rows : Nat)
    (cfg0 cfg1 : BitVec 32) (accs : List Nat) : State :=
  let c := t.ctx k
  if 8 ≤ c.queue.length then t
  else
    match cs with
    | some (cause, addr) => csFault t k c.pc cause w addr
    | none =>
      match lowest (fails ++ tstartFails c opc rows) with
      | some f => tileFault t k c.pc f.1 f.2
      | none => enqueue t k (wOp w) opc rows cfg0 cfg1 accs

/-! ### tcfg, tfree, tclr, fcfg -/

/-- The bits of a TCFG entry that R48 lists. -/
def cfgMask : BitVec 32 := 0x000FFF3F

/-- tcfg (R62, R63): waits until no tile operation of the context is queued or on a pipe, then writes its entries. -/
def execTcfg (k : CtxAt) (pair : Bool) (d a : BitVec 5) (s : State) : Out :=
  issueOut k (encR 0x40 pair.toNat d a 0 0 0) s fun t =>
    let c := t.ctx k
    let v := c.s a
    let e0 : BitVec 32 := v.truncate 32
    let e1 : BitVec 32 := (v >>> 32).truncate 32
    if !c.queue.isEmpty then .next t
    else if e0 &&& ~~~cfgMask ≠ 0 || (pair && e1 &&& ~~~cfgMask ≠ 0) then .fault (.reservedEntryBit d.toNat)
    else
      let m := SMap.set c.tcfg d.toNat e0 0
      let m := if pair then SMap.set m (d.toNat + 1) e1 0 else m
      let u := t.setCtx k { c with tcfg := m, pc := pcAdd c.pc 1 }
      .next (u.setCore k.core { (u.core k.core) with reuse := none })

/-- tfree (R53, R57): clears the TINUSE bits of its mask; a weight source in the mask faults. -/
def execTfree (k : CtxAt) (x : BitVec 28) (s : State) : Out :=
  issue k (encR 0x41 0 0 0 0 0 x) s fun t =>
    let c := t.ctx k
    match (List.range 16).find? fun n => x.getLsbD n && c.weightSources.contains n with
    | some n => tileFault t k c.pc 9 n
    | none => t.setCtx k { c with tinuse := c.tinuse &&& ~~~(x.truncate 16), pc := pcAdd c.pc 1 }

/-- tclr (R55): clears the ACCINUSE bits it names. -/
def execTclr (k : CtxAt) (accs : BitVec 2) (s : State) : Out :=
  issue k (encR 0x42 accs.toNat 0 0 0 0 0) s fun t =>
    let c := t.ctx k
    t.setCtx k { c with accinuse := c.accinuse &&& ~~~accs, pc := pcAdd c.pc 1 }

/-- The feeder configuration that 256 bytes spell, none where R163 rejects them. The fields that its mode does not use become 0, which the
spec leaves open. [DESIGN CHOICE: log entry 117] -/
def fcfgParse (bs : List Byte) : Option FeederCfg :=
  let mode := bytesAt bs 240 1
  let target := bytesAt bs 241 1
  let table := (List.range 16).map fun i => BitVec.ofNat 16 (bytesAt bs (2 * i) 2)
  if 1 < mode || target = 0 || 3 < target || bytesAt bs 242 14 ≠ 0
      || (mode = 0 && target = 3 && table.any fun e => 256 ≤ e.toNat) then none
  else
    some
      { affine := mode = 1
        target := target
        table := if mode = 0 then table else List.replicate 16 0
        scale := if mode = 1 then (List.range 48).map fun i => BitVec.ofNat 32 (bytesAt bs (4 * i) 4) else List.replicate 48 0
        zero := (List.range 48).map fun i => BitVec.ofNat 8 (bytesAt bs (192 + i) 1) }

/-- A twl of the context is queued, in the weight stage or pending (R100). -/
def twlUnderWay (c : Context) : Bool :=
  c.shadow.isSome || c.queue.any fun o => opStage o.opc = .weight

/-- fcfg (R100, R163): waits for the twls of its context, then reads and checks its 256 bytes. [DEDUCED: log entry 18] -/
def execFcfg (k : CtxAt) (a : BitVec 5) (s : State) : Out :=
  issue k (encR 0x49 0 0 a 0 0 0) s fun t =>
    let c := t.ctx k
    let off := c.s a
    let w := encR 0x49 0 0 a 0 0 0
    match storeFault off 256 64 with
    | some cause => csFault t k c.pc cause w off.toNat
    | none =>
      if twlUnderWay c then t
      else
        match storeRead t k.core off.toNat 256 with
        | (none, t) => eccFault t k c.pc 1 (badOffset t k.core off.toNat 256)
        | (some bs, t) =>
          match fcfgParse bs with
          | none => illegalFault t k c.pc 5 w
          | some fc =>
            let u := t.setCtx k { t.ctx k with fc := fc, pc := pcAdd c.pc 1 }
            u.setCore k.core { (u.core k.core) with reuse := none }

/-! ### Loads and stores of tiles -/

/-- A conversion that tld makes (R160). -/
def tldPair (mem tile : Nat) : Bool :=
  mem = tile || ((mem = 3 || mem = 4) && tile ≤ 2) || (mem = 5 && (tile = 3 || tile ≤ 2)) || ((mem = 1 || mem = 2) && tile = 0)

/-- The memory rows of a tile access, and the elements of each (R159): COLS rows of ROWS elements when transposed. -/
def memShape (cfg : BitVec 32) (tr : Bool) : Nat × Nat := if tr then (cfgCols cfg, cfgRows cfg) else (cfgRows cfg, cfgCols cfg)

/-- tld and tld.tr at issue (R158 to R160). -/
def issueTld (k : CtxAt) (tr : Bool) (d a b : BitVec 5) (x : BitVec 28) (s : State) : Out :=
  issue k (encR 0x44 tr.toNat d a b 0 x) s fun t =>
    let c := t.ctx k
    let n := d.toNat
    let cfg := c.cfg n
    let mf := if x.toNat = 15 then cfgFmt cfg else x.toNat
    let (rows, elems) := memShape cfg tr
    let bytes := rowBytes mf elems
    let cs := (tileStoreFault (c.s a) (c.s b) rows bytes).map fun f => (f, (c.s a).toNat)
    issueTile k (encR 0x44 tr.toNat d a b 0 x) t cs
      (cfgFails cfg n ++ failIf (!tldPair mf (cfgFmt cfg)) 3 n ++ failIf ((c.s b).toNat < bytes) 4 n
        ++ failIf (tr && (fmtBlock (cfgFmt cfg) || fmtBlock mf)) 6 n)
      (.tld n (c.s a).toNat (c.s b).toNat mf tr) (cfgRows cfg) cfg 0 []

/-- tld. -/
def execTld (k : CtxAt) (d a b : BitVec 5) (x : BitVec 28) (s : State) : Out := issueTld k false d a b x s

/-- tld.tr. -/
def execTldTr (k : CtxAt) (d a b : BitVec 5) (x : BitVec 28) (s : State) : Out := issueTld k true d a b x s

/-- tst, tst.tr and tst.add at issue (R158, R159, R121). -/
def issueTst (k : CtxAt) (fn : Nat) (kind : StoreKind) (a b c : BitVec 5) (s : State) : Out :=
  issue k (encR 0x45 fn 0 a b c 0) s fun t =>
    let x := t.ctx k
    let n := a.toNat
    let cfg := x.cfg n
    let (rows, elems) := memShape cfg (kind = .tr)
    let bytes := rowBytes (cfgFmt cfg) elems
    let cs := (tileStoreFault (x.s b) (x.s c) rows bytes).map fun f => (f, (x.s b).toNat)
    issueTile k (encR 0x45 fn 0 a b c 0) t cs
      (cfgFails cfg n ++ failIf (kind = .add && 2 < cfgFmt cfg) 3 n ++ failIf ((x.s c).toNat < bytes) 4 n
        ++ failIf (!x.tileInUse n) 5 n ++ failIf (kind = .tr && fmtBlock (cfgFmt cfg)) 6 n)
      (.tst n (x.s b).toNat (x.s c).toNat kind) (cfgRows cfg) cfg 0 []

/-- tst. -/
def execTst (k : CtxAt) (a b c : BitVec 5) (s : State) : Out := issueTst k 0 .plain a b c s

/-- tst.tr. -/
def execTstTr (k : CtxAt) (a b c : BitVec 5) (s : State) : Out := issueTst k 1 .tr a b c s

/-- tst.add. -/
def execTstAdd (k : CtxAt) (a b c : BitVec 5) (s : State) : Out := issueTst k 2 .add a b c s

/-! ### Drains -/

/-- A drain to tiles or the core store at issue (R56, R161). -/
def issueDrain (k : CtxAt) (clear acc toTiles : Bool) (d b c : BitVec 5) (s : State) : Out :=
  let fn := acc.toNat + 2 * clear.toNat + 4 * toTiles.toNat
  issue k (encR 0x46 fn d 0 b c 0) s fun t =>
    let x := t.ctx k
    let n := d.toNat
    let an := 16 + acc.toNat
    let notUsed := failIf (!x.accInUse acc.toNat) 5 an
    if toTiles then
      let pairCfg (e : BitVec 32) : Bool := cfgFmt e = 0 && cfgRows e = 48 && cfgCols e = 24
      issueTile k (encR 0x46 fn d 0 b c 0) t none
        (cfgFails (x.cfg n) n ++ (if n < 15 then cfgFails (x.cfg (n + 1)) (n + 1) else []) ++ notUsed
          ++ failIf (n % 2 = 1 || !pairCfg (x.cfg n) || !pairCfg (x.cfg (n + 1))) 8 n)
        (.drain acc clear (.tiles n)) 48 (x.cfg n) (x.cfg (n + 1)) []
    else
      let cs := (tileStoreFault (x.s b) (x.s c) 48 192).map fun f => (f, (x.s b).toNat)
      issueTile k (encR 0x46 fn d 0 b c 0) t cs (failIf ((x.s c).toNat < 192) 4 an ++ notUsed)
        (.drain acc clear (.store (x.s b).toNat (x.s c).toNat)) 48 0 0 []

/-- tdrain. -/
def execTdrain (k : CtxAt) (acc toTiles : Bool) (d b c : BitVec 5) (s : State) : Out := issueDrain k false acc toTiles d b c s

/-- tdrain.c. -/
def execTdrainC (k : CtxAt) (acc toTiles : Bool) (d b c : BitVec 5) (s : State) : Out := issueDrain k true acc toTiles d b c s

/-- A router; one not listed is as after reset. -/
def State.router (s : State) (c : Nat) : Router := SMap.getD s.routers c Router.reset

/-- The partition belongs to the context (R185): 0 to 3 to F, 4 to 15 to B. -/
def partitionOf (p : Nat) : Ctx := if p < 4 then .F else .B

/-- tdrain.f (R161, R185): to the hand-off partition of a send stream; a partition of size 0 or of the other context gives
cause OPERAND. -/
def execTdrainF (k : CtxAt) (acc : Bool) (x : BitVec 28) (s : State) : Out :=
  issue k (encR 0x47 acc.toNat 0 0 0 0 x) s fun t =>
    if (t.router k.core).hoffRows.getD x.toNat 0 = 0 || partitionOf x.toNat ≠ k.ctx then
      illegalFault t k (t.ctx k).pc 5 (encR 0x47 acc.toNat 0 0 0 0 x)
    else
    issueTile k (encR 0x47 acc.toNat 0 0 0 0 x) t none
      (failIf (!(t.ctx k).accInUse acc.toNat) 5 (16 + acc.toNat))
      (.drain acc false (.handoff x.toNat)) 48 0 0 []

/-! ### twl and the products -/

/-- The fails of a pair operand (R87): DIM for differing tiles, PAIR for an odd tile or T15. [DEDUCED: log entry 54] -/
def pairFails (c : Context) (n : Nat) : List Fail :=
  failIf (n < 15 && (cfgRows (c.cfg n) ≠ cfgRows (c.cfg (n + 1)) || cfgFmt (c.cfg n) ≠ cfgFmt (c.cfg (n + 1)))) 4 n
    ++ failIf (n % 2 = 1) 8 n

/-- The checks of the entry of a tile, and of the next one in a pair. -/
def operandFails (c : Context) (pair : Bool) (n : Nat) : List Fail :=
  cfgFails (c.cfg n) n ++ (if pair && n < 15 then cfgFails (c.cfg (n + 1)) (n + 1) else [])

/-- Tiles not in use, one or a pair. -/
def usedFails (c : Context) (pair : Bool) (n : Nat) : List Fail :=
  failIf (!c.tileInUse n) 5 n ++ (if pair && n < 15 then failIf (!c.tileInUse (n + 1)) 5 (n + 1) else [])

/-- twl (R57, R81, R87). It reads the rows of its tile that are in use, at most 48. -/
def execTwl (k : CtxAt) (pair : Bool) (a : BitVec 5) (s : State) : Out :=
  issue k (encR 0x48 pair.toNat 0 a 0 0 0) s fun t =>
    let c := t.ctx k
    let n := a.toNat
    let e := c.cfg n
    let int := cfgFmt e = 6 || cfgFmt e = 7
    issueTile k (encR 0x48 pair.toNat 0 a 0 0 0) t none
      (operandFails c pair n ++ usedFails c pair n ++ (if pair then pairFails c n else [])
        ++ failIf (cfgFmt e = 6 && !c.fc.affine) 3 n
        ++ failIf (pair && (24 < cfgCols e || (n < 15 && 24 < cfgCols (c.cfg (n + 1))))) 4 n
        ++ failIf (int && 48 * (wClass (cfgFmt e) c.fc.target).slots < cfgCols e) 4 n)
      (.twl n pair) (cfgRows e) e (if pair then c.cfg (n + 1) else 0) []

/-- The streamed formats of a form (R86). -/
def formStreams (form fmt : Nat) : Bool :=
  match form with
  | 0 => fmt = 1
  | 1 => fmt = 2
  | 2 => fmt = 3 || fmt = 8
  | 3 => fmt = 4 || fmt = 9
  | 4 => fmt = 5 || fmt = 10
  | 5 => fmt = 0
  | _ => fmt = 11

/-- The FN field of a product (R162). -/
def prodFn (form : BitVec 4) (tr acc : Bool) (mode : BitVec 2) : Nat :=
  form.toNat + 16 * tr.toNat + 32 * acc.toNat + 64 * mode.toNat

/-- tmma and tmmat at issue (R64, R87, R94, R95, R101, R162). -/
def issueProd (k : CtxAt) (tr : Bool) (form : BitVec 4) (acc : Bool) (mode : BitVec 2) (a b c : BitVec 5) (x : BitVec 28)
    (s : State) : Out :=
  let w := encR 0x50 (prodFn form tr acc mode) 0 a b c x
  issue k w s fun t =>
    let y := t.ctx k
    let n := a.toNat
    let e := y.cfg n
    let pair := formPair form.toNat
    let streamed := mode.toNat % 2 = 1
    let fromTile := mode = 0 || (mode = 2 && fld x.toNat 4 2 = pondMember k.core)
    let bytes := rowBytes (cfgFmt e) (cfgCols e)
    let p : Product :=
      { form := form.toNat, transposed := tr, acc := acc, mode := mode.toNat, tile := n, base := (y.s b).toNat,
        stride := (y.s c).toNat, mask := fld x.toNat 0 4, member := fld x.toNat 4 2, cj := x.getLsbD 6,
        half := fld x.toNat 7 1 }
    let cs := if streamed then (tileStoreFault (y.s b) (y.s c) (cfgRows e) bytes).map fun f => (f, (y.s b).toNat) else none
    let classFail := match y.weightsAtIssue with
      | some v => failIf (wClass (cfgFmt v.cfg0) v.fc.target ≠ formClass form.toNat) 3 31
      | none => [(10, 31)]
    issueTile k w t cs
      (operandFails y pair n ++ (if fromTile then usedFails y pair n else []) ++ (if pair then pairFails y n else [])
        ++ failIf (!formStreams form.toNat (cfgFmt e)) 3 n ++ failIf (tr && 48 < cfgCols e) 4 n
        ++ failIf (streamed && (y.s c).toNat < bytes) 4 n ++ classFail)
      (.prod p) (cfgRows e) e (if pair then y.cfg (n + 1) else 0) (prodAccs p)

/-- tmma. -/
def execTmma (k : CtxAt) (form : BitVec 4) (acc : Bool) (mode : BitVec 2) (a b c : BitVec 5) (x : BitVec 28) (s : State) :
    Out := issueProd k false form acc mode a b c x s

/-- tmmat. [DEDUCED: log entry 52] -/
def execTmmat (k : CtxAt) (form : BitVec 4) (acc : Bool) (mode : BitVec 2) (a b c : BitVec 5) (x : BitVec 28) (s : State) :
    Out := issueProd k true form acc mode a b c x s

/-! ### Vector tile moves (R157) -/

/-- The checks of a vector tile move: its entry, and its row below ROWS. The row index is sA + sext(X), modulo 2^64. -/
def rowFails (c : Context) (n : Nat) (row : Word) : List Fail :=
  cfgFails (c.cfg n) n ++ failIf (cfgRows (c.cfg n) ≤ row.toNat) 4 n

/-- vtrd (R157). -/
def execVtrd (k : CtxAt) (d a b : BitVec 5) (x : BitVec 28) (s : State) : Out :=
  issue k (encR 0x2C 0 d a b 0 x) s fun t =>
    let c := t.ctx k
    let n := b.toNat
    let row := effOffset c a x
    waitUntil (vReady c [d]) t
      (issueTile k (encR 0x2C 0 d a b 0 x) t none (rowFails c n row ++ failIf (!c.tileInUse n) 5 n)
        (.vtrd d.toNat n row.toNat) 1 (c.cfg n) 0 [])

/-- vtwr (R157); vB is captured at issue (R42). [DEDUCED: log entry 19] -/
def execVtwr (k : CtxAt) (d a b : BitVec 5) (x : BitVec 28) (s : State) : Out :=
  issue k (encR 0x2D 0 d a b 0 x) s fun t =>
    let c := t.ctx k
    let n := d.toNat
    let row := effOffset c a x
    waitUntil (vReady c [b]) t
      (issueTile k (encR 0x2D 0 d a b 0 x) t none (rowFails c n row) (.vtwr n row.toNat (c.v b)) 1 (c.cfg n) 0 [])

end Sys2Proof.Machine
end

