-- ==== Sys2Proof/Machine/Switch.lean ====
section
/-! DEFINITION. Switching a core between its contexts (R57, R67 to R78, R84, R153, R438). -/

namespace Sys2Proof.Machine

open Sys2Proof

/-- The codes of CORE_STATUS (R78). -/
def stateCode : CtxState → Nat
  | .disabled => 0
  | .running => 1
  | .frozen => 2
  | .evwait => 3
  | .faulted => 4

/-- A core changed in place. -/
def State.modCore (s : State) (c : Nat) (f : Core → Core) : State := s.setCore c (f (s.core c))

/-- A context changed in place. -/
def State.modCtx (s : State) (k : CtxAt) (f : Context → Context) : State := s.setCtx k (f (s.ctx k))

/-- TINUSE, ACCINUSE and the weight state cleared, a pending latch included (R68, R84, R153, R438). -/
def Context.clearWork (c : Context) : Context :=
  { c with tinuse := 0, accinuse := 0, latch := none, shadow := none }

/-- F issues: the event number goes to its destination register (R68, R70), and the switch-in is timed (R78). A
switch-in by F_EN writes no number. The reuse and weight latches are invalidated (R70): those of a saved B are latched again from
their source (R73), those of a B that was not saved are gone. -/
def startF (s : State) (c : Nat) : State :=
  let x := s.core c
  let f := match x.fEvent with
    | some e => x.f.setS x.fDst (BitVec.ofNat 64 e)
    | none => x.f
  let b := if x.saved then x.b else { x.b with latch := none }
  let s := s.setCore c
    { x with f := f, b := b, fEvent := none, switch := .idle, active := .F, eventCycle := none, reuse := none, feed := [] }
  match x.eventCycle with
  | some t =>
    let lat := min (s.grid.now - t) 0xFFFF
    (s.putFld (.coreSwitchLat c) 0 16 lat).raiseReg (.coreSwitchLat c) 16 16 lat
  | none => s

/-- A switch-in begins (R67, R70, R74): B stops issuing; its pipes go to their boundaries when it has live state to save,
else F issues. `ev` is the event number, none for F_EN. F_STATE reads RUNNING from here on, and every enable of F counts as a
switch-in and is timed. [DESIGN CHOICE: log entry 100] -/
def switchIn (s : State) (c : Nat) (ev : Option Nat) : State :=
  let x := s.core c
  let save := x.b.state = .running && !x.saved && x.active = .B && x.switch = .idle
  let busy := x.switch = .stopping || x.switch = .saving
  let s := s.countReg (.coreSwitchCnt c) 0 48 1
  let s := s.setCore c
    { x with
      f := { x.f with state := .running, hold := .none }
      active := .F
      fEvent := ev
      eventCycle := some s.grid.now
      stopped := if save then [] else x.stopped
      switch := if save then .stopping else if busy then x.switch else .idle }
  if save || busy then s else startF s c

/-- The core goes over to B, or idles, when F stops issuing (R68, R73, R438): B's image is restored first when it stands. -/
def switchOut (s : State) (c : Nat) : State :=
  s.modCore c fun x =>
    { x with
      active := .B
      reuse := none
      feed := []
      switch := if x.saved && (x.b.state = .frozen || x.b.state = .running) then .restoring else .idle }

/-- F leaves RUNNING or EVWAIT for a new state (R438). While B is being stopped or saved, the save completes first. -/
def leaveF (s : State) (c : Nat) (st : CtxState) : State :=
  let x := s.core c
  let wasActive := x.active = .F
  let s := s.setCore c { x with f := { x.f with state := st, hold := .none } }
  if wasActive && x.switch = .idle then switchOut (s.modCore c fun x => { x with f := x.f.clearWork }) c
  else s

/-- A context takes DISABLED or FAULTED: F by R438; B in place, a save image of a B that becomes DISABLED being of no more use. -/
def leave (s : State) (k : CtxAt) (st : CtxState) : State :=
  match k.ctx with
  | .F => leaveF s k.core st
  | .B => s.modCore k.core fun x =>
    { x with
      b := { x.b with state := st, hold := .none }
      saved := x.saved && st ≠ .disabled
      relatch := x.relatch && st ≠ .disabled }

/-- A context becomes FAULTED where it stands; a sc.wait already issued goes on (R139). -/
def Context.fault (c : Context) : Context :=
  { c with
    state := .faulted
    hold := match c.hold with
      | .scWait w => .scWait w
      | _ => .none }

/-- end finishes once no earlier instruction and no release of its context is left (R153). -/
def finishEnd (s : State) (k : CtxAt) : State :=
  let c := s.ctx k
  if c.hold = .ending && c.queue.isEmpty && c.releases.isEmpty then
    leave (s.setCtx k { c.clearWork with tstart := 0 }) k .disabled
  else s

/-! ### The save image (R71) -/

/-- The offset of the image in the core store. -/
def saveBase (s : State) (c : Nat) : Nat := s.regFld (.coreSaveBase c) 12 9 * 4096

/-- The bytes of an accumulator region and of its exponent extension. -/
def accImage (x : Core) (a : Nat) : List Byte × List Byte :=
  let xs := (List.range 48).flatMap fun r => x.accRow a r
  (xs.flatMap fun e => toBytes 4 e.toNat, toBytes 576 (packNat 2 (xs.map fun e => e.toNat / 2 ^ 32)))

/-- The bytes of a tile and of its scale plane. -/
def tileImage (x : Core) (t : Nat) : List Byte × List Byte :=
  ((List.range 48).flatMap fun r => toBytes 96 (x.tileRow t r).toNat,
   (List.range 48).flatMap fun r => toBytes 6 (x.scaleRow t r).toNat)

/-- A region written to the image. -/
def saveRegion (c base : Nat) (off : Nat) (bs : List Byte) (s : State) : State := storeWrite s c (base + off) bs

/-- The tiles and accumulators of B that are live. -/
def liveTiles (x : Core) : List Nat := (List.range 16).filter x.b.tileInUse
def liveAccs (x : Core) : List Nat := (List.range 2).filter x.b.accInUse

/-- The tile has a scale plane under B's TCFG. -/
def tileBlock (x : Core) (t : Nat) : Bool := fmtBlock (cfgFmt (x.b.cfg t))

/-- B's live state written to the save image (R71). -/
def saveB (s : State) (c : Nat) : State :=
  let x := s.core c
  let base := saveBase s c
  let s := (liveTiles x).foldl
    (fun s t =>
      let s := saveRegion c base (t * 0x1200) (tileImage x t).1 s
      if tileBlock x t then saveRegion c base (0x16C80 + t * 0x120) (tileImage x t).2 s else s) s
  (liveAccs x).foldl
    (fun s a =>
      saveRegion c base (0x16800 + a * 0x240) (accImage x a).2
        (saveRegion c base (0x12000 + a * 0x2400) (accImage x a).1 s)) s

/-- The parity of state that the save reads is bad (R406). -/
def saveParity (x : Core) : Bool :=
  x.badParity.any fun u =>
    (liveTiles x).contains u || (liveAccs x).any (fun a => 16 + a = u)
      || (32 ≤ u && (liveTiles x).contains (u - 32) && tileBlock x (u - 32))

/-- A tile restored, with its scale plane where the image holds one; the answer says whether every word could be read.
[DEDUCED: log entry 8] -/
def restoreTile (c base t : Nat) (scales : Bool) (s : State) : Bool × State :=
  match storeRead s c (base + t * 0x1200) 4608 with
  | (none, s) => (false, s)
  | (some bs, s) =>
    let s := s.modCore c fun x =>
      (List.range 48).foldl (fun x r => x.setTileRow t r (BitVec.ofNat 768 (bytesAt bs (96 * r) 96))) x
    if scales then
      match storeRead s c (base + 0x16C80 + t * 0x120) 288 with
      | (none, s) => (false, s)
      | (some bs, s) =>
        (true, s.modCore c fun x =>
          (List.range 48).foldl (fun x r => x.setScaleRow t r (BitVec.ofNat 48 (bytesAt bs (6 * r) 6))) x)
    else (true, s)

/-- An accumulator restored. -/
def restoreAcc (c base a : Nat) (s : State) : Bool × State :=
  match storeRead s c (base + 0x12000 + a * 0x2400) 9216 with
  | (none, s) => (false, s)
  | (some lo, s) =>
    match storeRead s c (base + 0x16800 + a * 0x240) 576 with
    | (none, s) => (false, s)
    | (some hi, s) =>
      let ext := ofBytes hi
      (true, s.modCore c fun x =>
        (List.range 48).foldl
          (fun x r => x.setAccRow a r ((List.range 48).map fun j =>
            BitVec.ofNat 34 (bytesAt lo ((r * 48 + j) * 4) 4 + fld ext ((r * 48 + j) * 2) 2 * 2 ^ 32))) x)

/-- Steps that may fail, in order, up to the first that does. -/
def tryAll {α : Type} (f : α → State → Bool × State) : List α → State → Bool × State
  | [], s => (true, s)
  | x :: xs, s =>
    match f x s with
    | (true, t) => tryAll f xs t
    | (false, t) => (false, t)

/-- B's saved regions restored (R73), those that the image holds whatever firmware has made of CTX_INUSE since (R438); the restore
stops where a word is uncorrectable (R406). -/
def restoreB (s : State) (c : Nat) : Bool × State :=
  let x := s.core c
  let base := saveBase s c
  match tryAll (fun (p : Nat × Bool) s => restoreTile c base p.1 p.2 s) x.imageTiles s with
  | (true, s) => tryAll (fun a s => restoreAcc c base a s) x.imageAccs s
  | (false, s) => (false, s)

/-- The offset of the first uncorrectable word of B's saved regions, in the order of the restore. -/
def badImageWord (s : State) (c : Nat) : Nat :=
  let x := s.core c
  let regions := x.imageTiles.flatMap (fun p =>
      (p.1 * 0x1200, 4608) :: if p.2 then [(0x16C80 + p.1 * 0x120, 288)] else [])
    ++ x.imageAccs.flatMap (fun a => [(0x12000 + a * 0x2400, 9216), (0x16800 + a * 0x240, 576)])
  let bad (r : Nat × Nat) : Bool := (storeRead s c (saveBase s c + r.1) r.2).1.isNone
  let r := (regions.find? bad).getD (0, 0)
  badOffset s c (saveBase s c + r.1) r.2

/-- Weights read again from their tiles, under the entries and the feeder configuration captured (R73, R84; log entry 12).
[DEDUCED: log entry 12] -/
def relatch (x : Core) (w : WLatch) : WLatch :=
  let rows (t : Nat) := (List.range 48).map fun r => x.tileRow t r
  let scs (t : Nat) := (List.range 48).map fun r => x.scaleRow t r
  { w with
    rows0 := rows w.src
    sc0 := scs w.src
    rows1 := if w.pair then rows (w.src + 1) else []
    sc1 := if w.pair then scs (w.src + 1) else [] }

end Sys2Proof.Machine
end

