-- ==== Sys2Proof/Machine/Counters.lean ====
section
/-! DEFINITION. Counters, waits and synchronisation errors (R203 to R216). -/

namespace Sys2Proof.Machine

open Sys2Proof

/-- A core counter; one not listed is as after reset. -/
def State.counter (s : State) (c n : Nat) : Counter := SMap.getD s.counters (c * 64 + n) Counter.reset

/-- A core counter replaced. -/
def State.setCounter (s : State) (c n : Nat) (x : Counter) : State :=
  { s with counters := SMap.set s.counters (c * 64 + n) x Counter.reset }

/-- The context that owns a core counter (R204). -/
def counterOwner (n : Nat) : Ctx := if n < 8 then .F else .B

/-- What a wait or an increment names (R216): a core counter or a ring counter, with its device. -/
structure SyncObj where
  dev : Nat
  ring : Bool
  core : Nat
  num : Nat
  deriving DecidableEq, Repr

/-- The value and the poison of a counter of this device. -/
def SyncObj.value (o : SyncObj) (s : State) : BitVec 32 :=
  if o.ring then (s.ring o.num).counter else (s.counter o.core o.num).value
def SyncObj.poisoned (o : SyncObj) (s : State) : Bool :=
  if o.ring then (s.ring o.num).poisoned else (s.counter o.core o.num).poisoned

/-- A wait on value v with target t is satisfied (R205). -/
def waitHolds (v t : BitVec 32) : Bool := decide ((v - t).toNat < 2 ^ 31)

/-! ### Synchronisation errors (R216, R218) -/

/-- The words of SYNC_ERRREC0 to SYNC_ERRREC2. -/
def syncRec0 (kind : Nat) (o : SyncObj) : Word :=
  BitVec.ofNat 64 (2 ^ 63 + kind * 2 ^ 60 + o.dev * 2 ^ 48 + o.ring.toNat * 2 ^ 47 + (if o.ring then 0 else o.core * 2 ^ 32) + o.num)
def syncRec1 (w : IncSource) : Word :=
  BitVec.ofNat 64 (w.dev * 2 ^ 53 + w.kind * 2 ^ 51 + ctxNum w.ctx * 2 ^ 50 + w.num * 2 ^ 40 + w.addr * 2 ^ 27)
def syncRec2 (target value : BitVec 32) : Word := (target.zeroExtend 64 <<< 32) ||| value.zeroExtend 64

/-- The SRC fields of the fault record of a synchronisation error (R402). -/
def syncSource (r : Rec) (w : IncSource) : Rec :=
  let r := { r with dev := w.dev }
  match w.kind with
  | 0 => { r with kind := 0, num := w.num, ctx := ctxNum w.ctx, iaddr := w.addr }
  | 1 => { r with kind := 1, num := w.addr }
  | _ => { r with kind := 8, num := w.num }

/-- A synchronisation error (R216): counted, its bit set, recorded when the record is free, and a fault record. In frost
none is raised (R415). -/
def syncError (s : State) (kind : Nat) (o : SyncObj) (w : IncSource) (target value : BitVec 32) : State :=
  if s.faults.inFrost then s
  else
    let s := (s.countReg .syncErrcnt (16 * (kind - 1)) 16 1).setBit .syncStatus (kind - 1)
    let s := if s.regBit .syncErrrec0 63 then s
      else (((s.setReg .syncErrrec0 (syncRec0 kind o)).setReg .syncErrrec1 (syncRec1 w)).setReg .syncErrrec2
        (syncRec2 target value)).setReg .syncErrrec3 s.time.ns
    let action := if kind ≤ 2 && w.kind = 1 then 2 else 0
    raiseRec s
      { syncSource (Rec.of s 7 kind action 0 0) w with
        d0 := syncRec0 kind o, d1 := syncRec1 w, d2 := syncRec2 target value }

/-! ### Waits (R167, R211, R215) -/

/-- The object of a context's wait. -/
def waitObj (s : State) (core : Nat) (w : ScWait) : SyncObj := ⟨s.dev, w.ring, if w.ring then 0 else core, w.num⟩

/-- The waiter as an error names it. -/
def ctxSource (s : State) (k : CtxAt) (pc : Nat) : IncSource := ⟨s.dev, 0, k.ctx, k.core, pc⟩
def ringSource (s : State) (r : Nat) : IncSource := ⟨s.dev, 1, .B, 0, r⟩

/-- A wait of a context ends with an outcome (R167). A trap of an earlier instruction then takes a RUNNING context to FAULTED
(R139). -/
def endWait (s : State) (k : CtxAt) (w : ScWait) (outcome : Nat) : State :=
  s.modCtx k fun c =>
    { (c.setS w.dst (BitVec.ofNat 64 outcome)) with
      hold := if w.trapped && c.state ≠ .faulted then .faulting c.pc else .none }

/-- A waiting context looks at its counter (R215): outcome 0 where the condition holds, else 2 where it is poisoned. -/
def lookCtx (o : SyncObj) (s : State) (k : CtxAt) : State :=
  match (s.ctx k).hold with
  | .scWait w =>
    if waitObj s k.core w = o then
      if waitHolds (o.value s) w.target then endWait s k w 0
      else if o.poisoned s then syncError (endWait s k w 2) 2 o (ctxSource s k w.pc) w.target (o.value s)
      else s
    else s
  | _ => s

/-- The counter of a ring's WAIT. -/
def ringWaitObj (s : State) (w : ScWait) : SyncObj := waitObj s (if w.ring then 0 else w.pc) w

/-- A ring may start descriptors (R224, R225); a B ring starts none in a held slice (R354). -/
def ringStarts (s : State) (r : Nat) : Bool :=
  s.working && (s.ring r).state = .running && (s.ring r).enable && !(s.svc.held && !ringFrame s r)

/-- A ring's WAIT goes on waiting, though it could not start now (R225). -/
def ringWaits (s : State) (r : Nat) : Bool := s.working && ((s.ring r).state = .running || (s.ring r).state = .trapped)

/-- A ring whose head is a WAIT looks at its counter (R215, R230): its descriptor is done where the condition holds and the ring may start it,
and fails where the counter is poisoned first. -/
def lookRing (o : SyncObj) (s : State) (r : Nat) : State :=
  match (s.ring r).head with
  | some ⟨_, some (w, desc)⟩ =>
    if ringWaits s r && ringWaitObj s w = o then
      if waitHolds (o.value s) w.target then (if ringStarts s r then startJob s r desc .done else s)
      else if o.poisoned s then failHead (syncError s 2 o (ringSource s r) w.target (o.value s)) r (some desc) 13
      else s
    else s
  | _ => s

/-- A ring held by a WAIT looks at its counter again. -/
def relook (s : State) (r : Nat) : State :=
  match (s.ring r).head with
  | some ⟨_, some (w, _)⟩ => lookRing (ringWaitObj s w) s r
  | _ => s

/-- Every wait on a counter looks at it: those of its core's contexts, or of all contexts for a ring counter, and the rings'. -/
def look (s : State) (o : SyncObj) : State :=
  let cores := if o.ring then s.cores.map (·.1) else [o.core]
  let s := cores.foldl (fun s c => lookCtx o (lookCtx o s ⟨c, .F⟩) ⟨c, .B⟩) s
  (s.rings.map (·.1)).foldl (lookRing o) s

/-! ### Increments and poison (R203, R209, R211) -/

/-- An increment that a counter discards (R211, R213): counted, and a DISCARD error. -/
def discardInc (s : State) (m : IncMsg) : State :=
  syncError (s.countReg (.syncDisc m.core) 0 32 1) 3 ⟨s.dev, false, m.core, m.n⟩ m.src m.amount (s.counter m.core m.n).value

/-- An increment reaches a core counter of this device (R209): it is added, or discarded where the counter is poisoned or cleared in the
same cycle (R213). -/
def landInc (s : State) (m : IncMsg) : State :=
  let x := s.counter m.core m.n
  if x.poisoned || s.grid.cleared.contains (m.core * 64 + m.n) then discardInc s m
  else
    look { s.setCounter m.core m.n { x with value := x.value + m.amount } with
      grid := { s.grid with landed := s.grid.landed ++ [m] } } ⟨s.dev, false, m.core, m.n⟩

/-- An increment put on the increment plane (R200, R208). -/
def sendPlane (s : State) (m : IncMsg) : State := { s with incs := s.incs ++ [m] }

/-- An increment that changes its counter in the next cycle (R189, R208). -/
def sendDue (s : State) (m : IncMsg) : State := { s with grid := { s.grid with due := s.grid.due ++ [m] } }

/-- The increments due in this cycle land. -/
def landDue (s : State) : State := s.grid.due.foldl landInc { s with grid := { s.grid with due := [] } }

/-- A ring counter goes up by one (R234); a poisoned one discards it (R211). -/
def countRing (s : State) (r : Nat) : State :=
  let o : SyncObj := ⟨s.dev, true, 0, r⟩
  if (s.ring r).poisoned then syncError s 3 o (ringSource s r) 1 (s.ring r).counter
  else look (s.modRing r fun x => { x with counter := x.counter + 1 }) o

/-- A core counter is poisoned (R211). -/
def poisonCounter (c : Nat) (s : State) (n : Nat) : State :=
  look (s.setCounter c n { s.counter c n with poisoned := true }) ⟨s.dev, false, c, n⟩

/-- A ring counter is poisoned. -/
def poisonRing (s : State) (r : Nat) : State :=
  look (s.modRing r fun x => { x with poisoned := true }) ⟨s.dev, true, 0, r⟩

/-! ### The reset of a ring (R251, R286, R287, R398) -/

/-- A spring drops the commands of a ring: those on the path and in the queue, one that runs, a failed one with its record. -/
def springForget (r : Nat) (x : Spring) : Spring :=
  let mine (no : Option Nat) : Bool := x.queue.any fun c => c.ring = r && some c.no = no
  let keep (f : Option (SpringCmd × Nat)) : Option (SpringCmd × Nat) := f.filter fun p => p.1.ring ≠ r
  { x with
    arriving := x.arriving.filter fun c => c.ring ≠ r
    queue := x.queue.filter fun c => c.ring ≠ r
    compute := if mine x.compute then none else x.compute
    move := if mine x.move then none else x.move
    failC := keep x.failC
    failM := keep x.failM }

/-- The springs drop the commands of a ring. -/
def forgetSprings (s : State) (r : Nat) : State :=
  { s with springs := (s.springs.map fun p => (p.1, springForget r p.2)).filter fun p => p.2 ≠ Spring.reset }

/-- A check unit drops the descriptors of a ring; the session of one whose bytes have begun to come is BROKEN (R398). -/
def chkForget (r : Nat) (s : State) (u : Nat) : State :=
  let x := s.chkUnit u
  let s := (x.queue.filter fun j => j.ring = r && j.ran).foldl (fun s j => markBroken s u (chkSession j.desc)) s
  s.setChkUnit u { s.chkUnit u with queue := x.queue.filter fun j => j.ring ≠ r }

/-- The sessions of a ring's CHK descriptors whose bytes are still coming are BROKEN with its reset (R398). -/
def breakReading (s : State) (r : Nat) : State :=
  ((s.ring r).jobs.filter fun j => dKind j.desc = 11 && j.stage = .reading && !j.buf.isEmpty).foldl
    (fun s j => markBroken s (dUnit j.desc) (chkSession j.desc)) s

/-- A ring is reset (R251): RESETTING, its counter poisoned, nothing more started, issued or completed. -/
def resetRing (s : State) (r : Nat) : State :=
  let s := (breakReading s r).modRing r fun x => { x with state := .resetting, head := none, copy := none, jobs := [] }
  let s := { s with
    reqs := s.reqs.filter fun q => !(q.ring = r && !q.accepted)
    far := s.far.filter fun q => q.ring ≠ r }
  let s := (s.chks.map (·.1)).foldl (chkForget r) (forgetSprings s r)
  poisonRing s r

end Sys2Proof.Machine
end

