-- ==== Sys2Proof/Machine/LinkOps.lean ====
section
/-! DEFINITION. What travels on a link (R313 to R317), the link switch (R326, R327), and the remote requests and increments
of this device (R208, R210, R323). -/

namespace Sys2Proof.Machine

open Sys2Proof

/-! ### CRC-32 (R317) -/

/-- Bits run through the reflected CRC-32. -/
def crc32Bits : List Bool → BitVec 32 → BitVec 32
  | [], c => c
  | b :: bs, c => if c.getLsbD 0 = b then crc32Bits bs (c >>> 1) else crc32Bits bs ((c >>> 1) ^^^ 0xEDB88320)

/-- The CRC-32 of the links and the chain, each byte from its bit 0. -/
def crc32 (bs : List Byte) : BitVec 32 := ~~~(crc32Bits (bs.flatMap fun b => (List.range 8).map b.getLsbD) 0xFFFFFFFF)

/-! ### Flits (R314 to R316) -/

/-- The bytes of a flit. -/
def flitBytes (f : BitVec 512) : List Byte := toBytes 64 f.toNat

/-- n bytes at an offset of a flit. -/
def ffld (f : BitVec 512) (off n : Nat) : Nat := fld f.toNat (8 * off) (8 * n)

/-- A flit from the fields of its first 60 bytes, (offset, value) in the order of their places, with a CRC over those bytes
and the bytes of `body`. -/
def mkFlit (fields : List (Nat × Nat)) (body : List (BitVec 512)) : BitVec 512 :=
  let v := fields.foldl (fun v p => v + p.2 * 2 ^ (8 * p.1)) 0
  BitVec.ofNat 512 (v + (crc32 (toBytes 60 v ++ body.flatMap flitBytes)).toNat * 2 ^ 480)

/-- The CRC at the end of a flit, over its first 60 bytes and its body. -/
def flitGood (f : BitVec 512) (body : List (BitVec 512)) : Bool :=
  ffld f 0x3C 4 = (crc32 ((flitBytes f).take 60 ++ body.flatMap flitBytes)).toNat

/-- A packet's fields (R315). -/
structure Packet where
  ptype : Nat
  vc : Nat
  dst : Nat
  src : Nat
  frame : Bool
  addr : Nat
  tag : Nat
  len : Nat
  hops : Nat
  req : Nat
  body : List (BitVec 512)
  deriving DecidableEq, Repr

/-- The unit that carries a packet. -/
def Packet.unit (p : Packet) : LinkUnit :=
  .packet (mkFlit [(0, p.ptype), (1, p.vc), (2, p.dst), (4, p.src), (6, p.body.length), (7, p.frame.toNat), (8, p.addr),
    (0x10, p.tag), (0x14, p.len), (0x16, p.hops), (0x18, p.req)] p.body) p.body

/-- The packet of a head flit and its body. -/
def packetOf (h : BitVec 512) (body : List (BitVec 512)) : Packet :=
  { ptype := ffld h 0 1, vc := ffld h 1 1 % 16, dst := ffld h 2 2 % 2048, src := ffld h 4 2 % 2048,
    frame := ffld h 7 1 = 1, addr := ffld h 8 8 % 2 ^ 43, tag := ffld h 0x10 4 % 2 ^ 20, len := ffld h 0x14 2,
    hops := ffld h 0x16 2, req := ffld h 0x18 4, body := body }

/-- A synchronisation flit's fields (R316). -/
structure SyncFlit where
  stype : Nat
  vc : Nat
  dst : Nat
  src : Nat
  hops : Nat
  object : Nat
  amount : Nat
  source : Nat
  deriving DecidableEq, Repr

def SyncFlit.flit (f : SyncFlit) : BitVec 512 :=
  mkFlit [(0, f.stype), (1, f.vc), (2, f.dst), (4, f.src), (6, f.hops), (8, f.object), (0xC, f.amount), (0x10, f.source)] []

def syncFlitOf (f : BitVec 512) : SyncFlit :=
  { stype := ffld f 0 1, vc := ffld f 1 1, dst := ffld f 2 2 % 2048, src := ffld f 4 2 % 2048, hops := ffld f 6 2,
    object := ffld f 8 4, amount := ffld f 0xC 4, source := ffld f 0x10 4 }

/-- SOURCE of an INC and back (R316, R218). -/
def sourceBits (w : IncSource) : Nat := w.kind % 4 * 2 ^ 30 + ctxNum w.ctx * 2 ^ 29 + w.num % 1024 * 2 ^ 19 + w.addr % 8192
def sourceOf (dev v : Nat) : IncSource := ⟨dev, fld v 30 2, if fld v 29 1 = 1 then .F else .B, fld v 19 10, fld v 0 13⟩

/-! ### The switch (R326, R327) -/

/-- A link; one not listed is as after reset. -/
def State.link (s : State) (l : Nat) : Link := SMap.getD s.links l Link.reset
def State.setLink (s : State) (l : Nat) (x : Link) : State := { s with links := SMap.set s.links l x Link.reset }
def State.modLink (s : State) (l : Nat) (f : Link → Link) : State := s.setLink l (f (s.link l))

/-- The egress that a switch gives traffic (R326): none where the entry is not valid or the link is out of service. -/
def egress (s : State) (h : Half) (dst src vc : Nat) : Option Nat :=
  let e := s.reg (.linkRoute (halfNum h) dst)
  if Word.bit e 63 then
    let l := Word.fld e (8 * ((src + vc) % (Word.fld e 56 2 + 1))) 6
    if l < 36 ∧ (s.link l).state = .up then some l else none
  else none

/-- The requester of what a link switch forwards and of synchronisation flits, by class (R252). -/
def switchRequester (frame : Bool) : Nat := 132 + frame.toNat

/-- The virtual channel of a unit and its flits. -/
def LinkUnit.vc : LinkUnit → Nat
  | .packet h _ => ffld h 1 1 % 16
  | .sync f => ffld f 1 1 % 16
  | .control _ => 0
def LinkUnit.flits : LinkUnit → Nat
  | .packet _ b => 1 + b.length
  | _ => 1

/-- F flits that enter an egress count in its window of 1,024 flit times (R325, LINK_FWIN). -/
def noteFrame (s : State) (l : Nat) (u : LinkUnit) : State :=
  if 1 < u.vc then s
  else
    let now := s.time.elapsed * 25 / 16
    let xs := (now, u.flits) :: (s.link l).fwin.filter fun x => decide (now < x.1 + 1024)
    (s.modLink l fun x => { x with fwin := xs }).raiseReg (.linkFwin l) 0 11 (xs.foldl (fun n x => n + x.2) 0)

/-- A unit put on an egress queue by a requester. -/
def queueUnit (s : State) (l k : Nat) (u : LinkUnit) : State :=
  noteFrame (s.modLink l fun x => { x with queue := x.queue ++ [(k, u)] }) l u

/-- A unit that needs no notice is sent on, or discarded where it cannot be (R327). [DEDUCED: log entry 47] -/
def sendQuiet (s : State) (h : Half) (f : SyncFlit) : State :=
  useStored (.routes h) s
    (match egress s h f.dst f.src f.vc with
      | some l => queueUnit s l (switchRequester (f.vc = 0)) (.sync { f with hops := f.hops + 1 }.flit)
      | none => s)

/-- The virtual channel of acknowledgements and notices of a class (R321). -/
def noticeVc (frame : Bool) : Nat := if frame then 0 else 2

/-- The tag of a remote request comes back failed: its descriptor fails with cause REMOTE (R231, R327); of a spring, its
command finds it. -/
def failTag (s : State) (tag : Nat) : State :=
  match s.tags.find? fun t => t.tag = tag with
  | none => s
  | some t =>
    if t.spring then { s with tags := s.tags.map fun u => if u.tag = tag then { u with failed := true } else u }
    else
      let s := { s with tags := s.tags.filter fun u => u.tag ≠ tag }
      failJob (s.modRing t.ring fun x => match x.job t.idx with
        | some j => x.putJob { j with out := j.out - 1 }
        | none => x) t.ring t.idx 11

/-- An UNREACH reaches its source (R327): UNDELIVERED for an INC, REMOTE for the request with the tag. Tags of this device
lie at 2^16 and above, so that an OBJECT of an INC is never one (log entry 20). -/
def takeUnreach (s : State) (dst object amount source : Nat) : State :=
  if 2 ^ 16 ≤ object then failTag s object
  else syncError s 4 ⟨dst, false, fld object 6 10, fld object 0 6⟩ (sourceOf s.dev source) (BitVec.ofNat 32 amount) 0

/-- The UNREACH of something that this switch discards (R327). At its own source it acts at once. -/
def unreach (s : State) (h : Half) (frame : Bool) (dst src object amount source : Nat) : State :=
  if src = s.dev then takeUnreach s dst object amount source
  else sendQuiet s h ⟨3, noticeVc frame, src, dst, 0, object, 0, source⟩

/-- A packet of a requester is routed on (R326, R327). A RESP of this device has no descriptor here that a notice could name. -/
def routePacket (s : State) (h : Half) (k : Nat) (p : Packet) : State :=
  useStored (.routes h) s
    (match if 8 ≤ p.hops then none else egress s h p.dst p.src p.vc with
      | some l => queueUnit s l k { p with hops := p.hops + 1 }.unit
      | none =>
        let s := s.setBit .linkStatus 2
        if p.ptype = 3 && p.src = s.dev then s else unreach s h p.frame p.dst p.src p.tag 0 0)

/-- A synchronisation flit is routed on; an ACK or an UNREACH that cannot be is discarded without notice (R327). -/
def routeSync (s : State) (h : Half) (f : SyncFlit) : State :=
  useStored (.routes h) s
    (match if 8 ≤ f.hops then none else egress s h f.dst f.src f.vc with
      | some l => queueUnit s l (switchRequester (f.vc = 0)) (.sync { f with hops := f.hops + 1 }.flit)
      | none =>
        let s := s.setBit .linkStatus 2
        if f.stype = 1 then unreach s h (f.vc = 0) f.dst f.src f.object f.amount f.source else s)

/-! ### What this device sends -/

/-- The half of a core and of an edge engine (R15). -/
def coreHalf (c : Nat) : Half := if coreX c < 16 then .W else .E
def engineHalf (e : Nat) : Half := if e % 32 < 16 then .W else .E

/-- An increment to a counter of this device or of another (R208, R210, R316). -/
def sendInc (s : State) (h : Half) (frame : Bool) (w : IncSource) (dev core n : Nat) (amount : BitVec 32) : State :=
  if dev = s.dev then sendPlane s ⟨core, n, amount, w⟩
  else routeSync s h ⟨1, noticeVc frame, dev, s.dev, 0, core * 64 + n, amount.toNat, sourceBits w⟩

/-- A new tag. [DESIGN CHOICE: log entry 20] -/
def freshTag (s : State) : Nat × State :=
  (s.nextTag, { s with nextTag := if s.nextTag + 1 < 2 ^ 20 then s.nextTag + 1 else 2 ^ 16 })

/-- Who sends a remote request. -/
structure Sender where
  half : Half
  requester : Nat
  spring : Bool
  num : Nat
  idx : BitVec 32
  frame : Bool
  vc : Nat
  deriving DecidableEq, Repr

/-- The bytes of a packet's body as flits. -/
def bodyFlits (bs : List Byte) : List (BitVec 512) :=
  (chunks 64 (ceilDiv bs.length 64) bs).map fun b => BitVec.ofNat 512 (ofBytes b)

/-- One remote request sent (R315, R323): its record waits for the ACK or the RESP. -/
def sendRemote (s : State) (w : Sender) (isWrite : Bool) (dev addr len place : Nat) (data : List Byte) : State :=
  let (tag, s) := freshTag s
  let s := { s with tags := s.tags ++ [⟨tag, isWrite, w.spring, w.num, w.idx, place, len, s.time.elapsed, false⟩] }
  routePacket s w.half w.requester
    { ptype := if isWrite then 1 else 2, vc := w.vc, dst := dev, src := s.dev, frame := w.frame, addr := addr, tag := tag,
      len := len, hops := 0, req := w.spring.toNat * 2 ^ 15 + w.num, body := bodyFlits data }

/-- A range of bytes cut into pieces of at most `step` bytes that cross no multiple of it: address and length. -/
def cutRange (step : Nat) : Nat → Nat → Nat → List (Nat × Nat)
  | 0, _, _ => []
  | fuel + 1, a, n =>
    if n = 0 then []
    else
      let m := min n (step - a % step)
      (a, m) :: cutRange step fuel (a + m) (n - m)

/-- A range cut, with fuel enough for any length. -/
def pieces (step a n : Nat) : List (Nat × Nat) := cutRange step (n / step + 2) a n

/-- Free bytes (log entry 21). [DESIGN CHOICE: log entry 21] -/
def freeBytes (s : State) (n : Nat) : List Byte × State :=
  (toBytes n (Config.freeBits (8 * n) s.free).toNat, { s with free := s.free + 1 })

/-- The 64-byte units that a range touches. -/
def unitRange (a n : Nat) : Nat × Nat := (a / 64 * 64, ceilDiv (a + n) 64 * 64 - a / 64 * 64)

/-- The packets of a write of bytes at an address (R315, R323): address and data. A packet moves whole 64-byte units; the bytes of a unit that
the range does not cover are free values (log entry 21). -/
def remoteWrites (s : State) (a : Nat) (bs : List Byte) : List (Nat × List Byte) × State :=
  let (b, n) := unitRange a bs.length
  let (pre, s) := freeBytes s (a - b)
  let (post, s) := freeBytes s (n - (a - b) - bs.length)
  let all := pre ++ bs ++ post
  ((pieces 1024 b n).map fun p => (p.1, (all.drop (p.1 - b)).take p.2), s)

/-- Remote writes of a sender that waits for none of its requests' room. -/
def remoteWrite (s : State) (w : Sender) (dev a : Nat) (bs : List Byte) : State :=
  let (ps, s) := remoteWrites s a bs
  ps.foldl (fun s p => sendRemote s w true dev p.1 p.2.length 0 p.2) s

/-- The packets of a read of a range (R315, R323): address, length and the place of the data, place 0 being that of the range's unit. -/
def remoteReads (a n place : Nat) : List (Nat × Nat × Nat) :=
  let (b, m) := unitRange a n
  (pieces 1024 b m).map fun p => (p.1, p.2, place + (p.1 - b))

/-- How many packets a range takes. -/
def remoteCount (a n : Nat) : Nat := let (b, m) := unitRange a n; (pieces 1024 b m).length

end Sys2Proof.Machine
end

