-- ==== Sys2Proof/Machine/Pipe.lean ====
section
/-! DEFINITION. The tile pipes (R51 to R61, R82 to R85, R93 to R104, R157 to R161): beginning a tile instruction, its row
groups, its completion, pond broadcasts, and stopping at a boundary. -/

namespace Sys2Proof.Machine

open Sys2Proof

/-! ### Who runs -/

/-- The pipes of a context begin nothing new unless it is the active context and no switch is under way (R59, R70). -/
def pipesGo (s : State) (k : CtxAt) : Bool :=
  s.working && decide (k.core < coreCount) && (s.ctx k).state = .running && (s.core k.core).active = k.ctx
    && (s.core k.core).switch = .idle

/-- A row group under way completes also while B is on its way to a boundary, and in frost (R58, R413). -/
def pipesFinish (s : State) (k : CtxAt) : Bool :=
  s.live && decide (k.core < coreCount) && (s.ctx k).state = .running
    && (((s.core k.core).active = k.ctx && (s.core k.core).switch = .idle)
      || (k.ctx = .B && (s.core k.core).switch = .stopping))

/-- An operation of a queue replaced, found by its order of issue. -/
def Context.putOp (c : Context) (o : TileOp) : Context :=
  { c with queue := c.queue.map fun p => if p.seq = o.seq then o else p }

/-- An operation taken off the queue. -/
def Context.dropOp (c : Context) (o : TileOp) : Context := { c with queue := c.queue.filter fun p => p.seq ≠ o.seq }

/-- The operation that a stage is running: begun, with rows left. -/
def Context.running (c : Context) (st : Stage) : Option TileOp :=
  c.queue.find? fun o => opStage o.opc = st && o.started && decide (o.row < o.rows)

/-- The operation of a stage whose rows are all done. -/
def Context.ranOut (c : Context) (st : Stage) : Option TileOp :=
  c.queue.find? fun o => opStage o.opc = st && o.started && decide (o.rows ≤ o.row)

/-- The earlier operations of a queue. -/
def Context.before (c : Context) (o : TileOp) : List TileOp := c.queue.filter fun p => decide (p.seq < o.seq)

/-- The row group that an operation is at: its first row and the row after its last (R58). -/
def TileOp.group (o : TileOp) : Nat × Nat := (o.row, min (o.row + 8) o.rows)

/-- The operation is a pond broadcast (R101). -/
def TileOp.broadcast (o : TileOp) : Option Product :=
  match o.opc with
  | .prod p => if 2 ≤ p.mode then some p else none
  | _ => none

/-- The participants of a broadcast of a core (R101). -/
def participants (core : Nat) (p : Product) : List Nat :=
  ((List.range 4).filter fun m => fld p.mask m 1 = 1).map (pondCore (corePond core))

/-! ### Accumulators and tiles in the way (R52, R93) -/

/-- The accumulators that an operation reads or writes. -/
def opAccs : TileOpc → List Nat
  | .prod p => prodAccs p
  | .drain acc _ _ => [acc.toNat]
  | _ => []

/-- Lists share an item. -/
def meets (xs ys : List Nat) : Bool := xs.any ys.contains

/-- Tiles in the way of an operation (R52): an earlier one still reads what it writes, or writes what it uses. -/
def tilesFree (core : Nat) (c : Context) (o : TileOp) : Bool :=
  (c.before o).all fun p =>
    decide (p.rows ≤ p.row) ||
      !(meets (opWrites o.opc) (opReads core p ++ opWrites p.opc) || meets (opReads core o) (opWrites p.opc))

/-- Accumulator rows in the way of a row group (R93): earlier operations are done with rows below r1; one that still has
rows of zeros to write beyond its own is done when it completes. -/
def accRowsFree (c : Context) (o : TileOp) (r1 : Nat) : Bool :=
  (c.before o).all fun p =>
    !meets (opAccs o.opc) (opAccs p.opc)
      || (decide (min r1 p.rows ≤ p.row) && (p.clears = 0 || decide (r1 ≤ p.rows)))

/-- No earlier operation still writes the core store (R95). -/
def storeWritten (c : Context) (o : TileOp) : Bool :=
  (c.before o).all fun p => match p.opc with
    | .tst _ _ _ _ => false
    | .drain _ _ (.store _ _) => false
    | _ => true

/-! ### Faults met on a pipe -/

/-- TSTART recorded for an accumulating operation stopped before its last row (R61). -/
def Context.recordRow (c : Context) (o : TileOp) : Context :=
  if opAccumulating o.opc && o.started && decide (o.row < o.rows) then
    { c with tstart := putTstart c.tstart (opStage o.opc) true o.row }
  else c

/-- Rows of an accumulator set to +0 (R55). -/
def zeroRows (x : Core) (a r0 r1 : Nat) : Core :=
  (List.range (r1 - r0)).foldl (fun x i => x.setAccRow a (r0 + i) []) x

/-- The rows from r0 on of the accumulators that an operation takes as +0 become so (R55, R88). -/
def zeroRest (x : Core) (o : TileOp) (r0 : Nat) : Core :=
  (List.range 2).foldl (fun x a => if o.clears.getLsbD a then zeroRows x a r0 48 else x) x

/-- Operations that will not go on leave the queue: TSTART keeps the row of a begun accumulating one (R59, R61), and the
accumulators that they took as +0 are so in the rows not run. -/
def discardOps (s : State) (k : CtxAt) (os : List TileOp) : State :=
  os.foldl
    (fun s o =>
      let s := s.modCore k.core fun x => zeroRest x o o.row
      s.modCtx k fun c => (c.recordRow o).dropOp o) s

/-- The rows that the feeders hold queued for a context are discarded (R96). -/
def dropFeed (s : State) (k : CtxAt) : State :=
  s.modCore k.core fun x => { x with feed := x.feed.filter fun f => f.ctx ≠ k.ctx }

/-- A fault of an operation on its pipe (R66, R102, R406): the record, and the context on its way to FAULTED at that
operation. It and the later operations leave the queue, and so do the releases issued after it, which never see it finished
(log entry 13). [DEDUCED: log entry 13] -/
def pipeFault (s : State) (k : CtxAt) (o : TileOp) (fault : State → State) : State :=
  let s := discardOps (fault s) k ((s.ctx k).queue.filter fun p => decide (o.seq ≤ p.seq))
  dropFeed (s.modCtx k fun c => { c with releases := c.releases.filter fun r => decide (r.seq < o.seq) }) k

/-! ### The rows of each operation -/

/-- Bits below n replaced. -/
def putLow (old n x : Nat) : Nat := old / 2 ^ n * 2 ^ n + x % 2 ^ n

/-- A row of a tile written under its entry: bytes beyond COLS × width stay (R50). -/
def writeRow (x : Core) (t r : Nat) (cfg : BitVec 32) (data scales : Nat) : Core :=
  let x := x.setTileRow t r (BitVec.ofNat 768 (putLow (x.tileRow t r).toNat (cfgCols cfg * fmtWidth (cfgFmt cfg)) data))
  if fmtBlock (cfgFmt cfg) then
    x.setScaleRow t r (BitVec.ofNat 48 (putLow (x.scaleRow t r).toNat (8 * (cfgCols cfg / 32)) scales))
  else x

/-- What rows do: the state, the numeric flags, and whether they wrote a NaN. -/
structure Ran where
  state : State
  flags : NFlags
  nan : Bool
  deriving DecidableEq, Repr

/-- Element i of a memory row that begins at an address. -/
def memElem (s : State) (addr w i : Nat) : Nat := fld (s.memNat (addr + i * w / 8) (ceilDiv w 8)) (i * w % 8) w

/-- A row loaded (R159, R160): packed elements of the memory format, converted where the formats differ. -/
def tldRow (s : State) (k : CtxAt) (o : TileOp) (d base stride mf : Nat) (tr : Bool) (r : Nat) : Ran :=
  let fmt := cfgFmt o.cfg0
  let cols := cfgCols o.cfg0
  let w := fmtWidth mf
  let at_ (row : Nat) : Nat := storeAddr k.core (base + row * stride)
  let xs := (List.range cols).map fun j => if tr then memElem s (at_ j) w r else memElem s (at_ r) w j
  let scales := if fmtBlock fmt then s.memNat (at_ r + ceilDiv (cols * w) 8) (cols / 32) else 0
  if mf = fmt then ⟨s.modCore k.core fun x => writeRow x d r o.cfg0 (packNat w xs) scales, 0, false⟩
  else
    let ys := xs.map fun v => (fmtOf fmt).round ((fmtOf mf).decode v)
    ⟨s.modCore k.core fun x => writeRow x d r o.cfg0 (packNat (fmtWidth fmt) (ys.map (·.1))) scales, orFlags ys,
      ys.any fun y => (fmtOf fmt).isNanBits y.1⟩

/-- One element written to a memory row: its bytes, or its half of a byte. -/
def storeElem (s : State) (core off w i v : Nat) : State :=
  let a := off + i * w / 8
  let old := s.memNat (storeAddr core a) (ceilDiv w 8)
  storeWrite s core a (toBytes (ceilDiv w 8) (old - fld old (i * w % 8) w * 2 ^ (i * w % 8) + v * 2 ^ (i * w % 8)))

/-- A row stored (R159): plain, transposed, or added to memory in the tile's format (R121). -/
def tstRow (s : State) (k : CtxAt) (o : TileOp) (a base stride : Nat) (kind : StoreKind) (r : Nat) : Ran :=
  let fmt := cfgFmt o.cfg0
  let cols := cfgCols o.cfg0
  let w := fmtWidth fmt
  let row := ((s.core k.core).tileRow a r).toNat
  match kind with
  | .plain =>
    let scales := if fmtBlock fmt then toBytes (cols / 32) ((s.core k.core).scaleRow a r).toNat else []
    ⟨storeWrite s k.core (base + r * stride) (toBytes (cols * w / 8) row ++ scales), 0, false⟩
  | .tr =>
    ⟨(List.range cols).foldl (fun s j => storeElem s k.core (base + j * stride) w r (fld row (j * w) w)) s, 0, false⟩
  | .add =>
    let old := unpackNat w cols (s.memNat (storeAddr k.core (base + r * stride)) (cols * w / 8))
    let ys := List.zipWith (fun m t => (fmtOf fmt).addBits m t) old (unpackNat w cols row)
    ⟨storeWrite s k.core (base + r * stride) (toBytes (cols * w / 8) (packNat w (ys.map (·.1)))), orFlags ys,
      ys.any fun y => (fmtOf fmt).isNanBits y.1⟩

/-- A row drained (R56, R119, R161); tdrain.c clears it (R54). -/
def drainRow (s : State) (k : CtxAt) (o : TileOp) (acc clear : Bool) (dst : DrainDst) (r : Nat) : Ran :=
  let ys := ((s.core k.core).accRow acc.toNat r).map drainElem
  let xs := ys.map (·.1)
  let s := if clear then s.modCore k.core fun x => x.setAccRow acc.toNat r [] else s
  let s := match dst with
    | .tiles d => s.modCore k.core fun x =>
      writeRow (writeRow x d r o.cfg0 (packNat 32 (xs.take 24)) 0) (d + 1) r o.cfg1 (packNat 32 (xs.drop 24)) 0
    | .store base stride => storeWrite s k.core (base + r * stride) (toBytes 192 (packNat 32 xs))
    | .handoff p =>
      let q := s.router k.core
      let rows := SMap.getD q.hoff p [] ++ [BitVec.ofNat 1536 (packNat 32 xs)]
      { s with routers := SMap.set s.routers k.core { q with hoff := SMap.set q.hoff p rows [] } Router.reset }
  ⟨s, orFlags ys, xs.any Fmt.fp32.isNanBits⟩

/-- The bits of row r of a product's operand, as the feeders of the core that supplies it read them: from a tile, a tile pair, or
the core store, with the scale bytes after the data (R94, R95, R101). -/
def readFeed (s : State) (src : CtxAt) (o : TileOp) (p : Product) (r : Nat) : FeedRow :=
  let x := s.core src.core
  if p.mode % 2 = 1 then
    let a := storeAddr src.core (p.base + r * p.stride)
    let n := cfgCols o.cfg0 * fmtWidth (cfgFmt o.cfg0) / 8
    ⟨src.ctx, o.seq, r, BitVec.ofNat 768 (s.memNat a n), BitVec.ofNat 48 (s.memNat (a + n) (cfgCols o.cfg0 / 32)), 0⟩
  else
    ⟨src.ctx, o.seq, r, x.tileRow p.tile r, x.scaleRow p.tile r, if formPair p.form then x.tileRow (p.tile + 1) r else 0⟩

/-- Row r of an operation as the feeders of a core hold it queued. -/
def queuedRow (x : Core) (c : Ctx) (o : TileOp) (r : Nat) : Option FeedRow :=
  x.feed.find? fun f => f.ctx = c && f.seq = o.seq && f.row = r

/-- The elements of row r of a product's operand (R94, R95, R101), from the queue of the feeders. -/
def operandRow (s : State) (src : CtxAt) (o : TileOp) (p : Product) (r : Nat) : List Elem :=
  let f := (queuedRow (s.core src.core) src.ctx o r).getD (readFeed s src o p r)
  let one (cfg : BitVec 32) (d : BitVec 768) : List Elem := rowElems (cfgFmt cfg) (cfgCols cfg) d.toNat f.scales.toNat
  if formPair p.form then padElems 24 (one o.cfg0 f.data) ++ one o.cfg1 f.data1 else one o.cfg0 f.data

/-- A row of a product (R88 to R92). An accumulator that it takes as +0 starts from +0 (R55). -/
def prodRowRan (s : State) (k : CtxAt) (o : TileOp) (p : Product) (weights : List (List Elem)) (a : List Elem) (r : Nat) :
    Ran :=
  let x := s.core k.core
  let old (n : Nat) : List (BitVec 34) := if o.clears.getLsbD n then List.replicate 48 0 else x.accRow n r
  let (ra, rb, fl) := prodRow p weights a (old 0) (old 1)
  let used := prodAccs p
  let x := if used.contains 0 then x.setAccRow 0 r ra else x
  let x := if used.contains 1 then x.setAccRow 1 r rb else x
  ⟨s.setCore k.core x, fl, (used.contains 0 && ra.any accIsNan) || (used.contains 1 && rb.any accIsNan)⟩

/-- A row read into a v register, or written from captured bytes (R157). -/
def vtrdRow (s : State) (k : CtxAt) (o : TileOp) (d tile row : Nat) : State :=
  let x := s.core k.core
  let sc := if fmtBlock (cfgFmt o.cfg0) then (x.scaleRow tile row).toNat else 0
  s.modCtx k fun c => c.setV (BitVec.ofNat 5 d) (BitVec.ofNat 1536 ((x.tileRow tile row).toNat + sc * 2 ^ 768))

def vtwrRow (s : State) (k : CtxAt) (o : TileOp) (tile row : Nat) (data : BitVec 1536) : State :=
  s.modCore k.core fun x =>
    let x := x.setTileRow tile row (data.truncate 768)
    if fmtBlock (cfgFmt o.cfg0) then x.setScaleRow tile row ((data >>> 768).truncate 48) else x

/-- One row of an operation; a row of a product takes its operand from `src`. -/
def opRow (k src : CtxAt) (srcOp o : TileOp) (weights : List (List Elem)) (s : State) (r : Nat) : Ran :=
  match o.opc with
  | .tld d base stride mf tr => tldRow s k o d base stride mf tr r
  | .tst a base stride kind => tstRow s k o a base stride kind r
  | .drain acc clear dst => drainRow s k o acc clear dst r
  | .twl _ _ => ⟨s, 0, false⟩
  | .prod p =>
    (match srcOp.opc with
      | .prod q => prodRowRan s k o p weights (operandRow s src srcOp q r) r
      | _ => ⟨s, 0, false⟩)
  | .vtrd d tile row => ⟨vtrdRow s k o d tile row, 0, false⟩
  | .vtwr tile row data => ⟨vtwrRow s k o tile row data, 0, false⟩

/-- The rows of a group, one after another. -/
def opRows (k src : CtxAt) (srcOp o : TileOp) (weights : List (List Elem)) (s : State) (r0 r1 : Nat) : Ran :=
  (List.range (r1 - r0)).foldl
    (fun a i => let b := opRow k src srcOp o weights a.state (r0 + i); ⟨b.state, a.flags ||| b.flags, a.nan || b.nan⟩)
    ⟨s, 0, false⟩

/-! ### Weights (R82 to R85) -/

/-- The pending latch becomes the active set where the array instruction that begins was issued after its twl: that twl completes
(R82, R84). A product that begins again leaves the weights of a later twl in the shadow set. -/
def Context.promote (c : Context) (o : TileOp) : Context :=
  match c.shadow with
  | some w => if w.seq < o.seq then { c with latch := some w, shadow := none } else c
  | none => c

/-- The weights that a twl loads. -/
def loadWeights (x : Core) (o : TileOp) (a : Nat) (pair : Bool) : WLatch :=
  relatch x ⟨o.seq, a, pair, o.cfg0, o.cfg1, o.fc, [], [], [], []⟩

/-- A twl of the current weight source under the same entries and feeder configuration completes at once (R85). -/
def sameWeights (c : Context) (o : TileOp) (a : Nat) (pair : Bool) : Bool :=
  match c.latch with
  | some w => w.src = a && w.pair = pair && w.cfg0 = o.cfg0 && w.cfg1 = o.cfg1 && w.fc = o.fc
  | none => false

/-! ### Beginning (R52, R60, R61, R83) -/

/-- The stage is free for its next operation: earlier operations of its pipe have begun, none runs in this stage, the
products before a twl use their weights, and no twl before a product is still to be loaded (R51, R83). -/
def stageFree (c : Context) (st : Stage) (o : TileOp) : Bool :=
  (c.running st).isNone
    && (c.before o).all (fun p => !samePipe (opStage p.opc) st || p.started)
    && (match st with
      | .move => true
      | .feed => (c.before o).all fun p => opStage p.opc ≠ .weight
      | .weight => (c.before o).all fun p => opStage p.opc ≠ .feed || (p.weights.isSome && !p.inGroup))

/-- The operation is the oldest of its pipe. -/
def pipeHead (c : Context) (o : TileOp) : Bool :=
  (c.before o).all fun p => !samePipe (opStage p.opc) (opStage o.opc)

/-- The row at which an operation begins: TSTART where the pipe's field is valid and it accumulates (R60, R61). -/
def beginRow (c : Context) (o : TileOp) : Nat :=
  if opAccumulating o.opc && pipeHead c o && (tstartOf c (opStage o.opc)).1 then (tstartOf c (opStage o.opc)).2 else 0

/-- TSTART does not fit the operation (R65 cause 7). -/
def tstartBad (c : Context) (o : TileOp) : Bool :=
  opAccumulating o.opc && pipeHead c o && (tstartOf c (opStage o.opc)).1
    && ((tstartOf c (opStage o.opc)).2 % 8 ≠ 0 || decide (o.rows ≤ (tstartOf c (opStage o.opc)).2))

/-- The first operation of a stage that has not begun. -/
def Context.nextOp (c : Context) (st : Stage) : Option TileOp :=
  c.queue.find? fun o => opStage o.opc = st && !o.started

/-- An operation that may begin on its stage. -/
def mayBegin (core : Nat) (c : Context) (st : Stage) (o : TileOp) : Bool :=
  stageFree c st o && tilesFree core c o && (!o.stopped || pipeHead c o)

/-- A twl begins (R82, R85): the array instruction before it gives its weights over; the same weights are not read again. -/
def beginTwl (s : State) (k : CtxAt) (o : TileOp) (a : Nat) (pair : Bool) : State :=
  let s := s.modCtx k fun c => c.promote o
  if sameWeights (s.ctx k) o a pair then finishEnd (s.modCtx k fun c => c.dropOp o) k
  else s.modCtx k fun c => c.putOp { o with started := true, row := 0 }

/-- The core of a product supplies its operand (R94, R101). -/
def suppliesOperand (core : Nat) (p : Product) : Bool := p.mode < 2 || p.member = pondMember core

/-- The product is fed from a tile of its own core (R94). -/
def tileFed (core : Nat) (p : Product) : Bool := p.mode % 2 = 0 && suppliesOperand core p

/-- The reuse latch still holds a product's operand (R97). -/
def reuses (x : Core) (k : CtxAt) (o : TileOp) (p : Product) : Bool :=
  tileFed k.core p && x.reuse = some ⟨k.ctx, p.tile, o.cfg0⟩

/-- A product begins; outside a broadcast the change of weights goes with it (R82). The reuse latch is kept for a product of the
operand fed just before, and empty for any other (R97). -/
def beginProd (s : State) (k : CtxAt) (o : TileOp) (p : Product) (row : Nat) : State :=
  let s := s.modCore k.core fun x => if reuses x k o p then x else { x with reuse := none }
  let s := if p.mode < 2 then s.modCtx k fun c => c.promote o else s
  s.modCtx k fun c => c.putOp { o with started := true, row := row, weights := if p.mode < 2 then c.latch else none }

/-- TILE_OP_BEGIN (R52, R60, R61, R82 to R85): the next operation of a stage begins on its pipe. -/
def execTileOpBegin (k : CtxAt) (st : Stage) (s : State) : Out :=
  let c := s.ctx k
  match c.nextOp st with
  | none => .next s
  | some o =>
    stepIf (pipesGo s k && mayBegin k.core c st o) s
      (if tstartBad c o then
        pipeFault s k o fun s => tileFault s k o.pc 7 31
      else
        match o.opc with
        | .twl a pair => beginTwl s k o a pair
        | .prod p => beginProd s k o p (beginRow c o)
        | _ => s.modCtx k fun c => c.putOp { o with started := true, row := beginRow c o })

/-! ### Row groups -/

/-- The parts of a core store that a row group reads: offset and bytes of each. -/
def groupReads (o : TileOp) (r0 r1 : Nat) : List (Nat × Nat) :=
  let rows (base stride n : Nat) : List (Nat × Nat) := (List.range (r1 - r0)).map fun i => (base + (r0 + i) * stride, n)
  match o.opc with
  | .tld _ base stride mf false => rows base stride (rowBytes mf (cfgCols o.cfg0))
  | .tld _ base stride mf true =>
    let w := fmtWidth mf
    (List.range (cfgCols o.cfg0)).map fun j => (base + j * stride + r0 * w / 8, ceilDiv (r1 * w) 8 - r0 * w / 8)
  | .tst _ base stride .add => rows base stride (rowBytes (cfgFmt o.cfg0) (cfgCols o.cfg0))
  | _ => []

/-- The reads of a group, in order, up to the first that fails: the state after corrections, and the offset that is uncorrectable
(R45). -/
def readAll (core : Nat) : List (Nat × Nat) → State → State × Option Nat
  | [], s => (s, none)
  | (off, n) :: rest, s =>
    match storeRead s core off n with
    | (some _, t) => readAll core rest t
    | (none, t) => (t, some (badOffset t core off n))

/-- The guarded units that a row group of an operation reads (R406): tiles, scale planes, accumulators, latches, the feeder
configuration. `own` holds at the core that supplies the operand. -/
def groupUnits (x : Core) (k : CtxAt) (o : TileOp) : List Nat :=
  let withScale (cfg : BitVec 32) (t : Nat) : List Nat := if fmtBlock (cfgFmt cfg) then [t, 32 + t] else [t]
  match o.opc with
  | .tst a _ _ _ => withScale o.cfg0 a
  | .drain acc _ _ => [16 + acc.toNat]
  | .twl a pair =>
    withScale o.cfg0 a ++ (if pair then withScale o.cfg1 (a + 1) else [])
      ++ (if cfgFmt o.cfg0 = 6 || cfgFmt o.cfg0 = 7 then [19] else [])
  | .prod p =>
    (if tileFed k.core p && !reuses x k o p then
        withScale o.cfg0 p.tile ++ (if formPair p.form then withScale o.cfg1 (p.tile + 1) else [])
      else []) ++ [18] ++ (((prodAccs p).filter fun a => !o.clears.getLsbD a).map fun a => 16 + a)
  | .vtrd _ t _ => withScale o.cfg0 t
  | _ => []

/-- The destination has room for the rows of the group (R58, R161, R185). -/
def groupRoom (s : State) (k : CtxAt) (o : TileOp) (r0 r1 : Nat) : Bool :=
  match o.opc with
  | .drain _ _ (.handoff p) =>
    let q := s.router k.core
    decide ((SMap.getD q.hoff p []).length + (r1 - r0) ≤ q.hoffRows.getD p 0)
  | _ => true

/-- What a row group of an operation needs of its own core is available, but for the rows of the feeders (R58, R93, R95). -/
def needsMet (s : State) (k : CtxAt) (o : TileOp) : Bool :=
  let (r0, r1) := o.group
  accRowsFree (s.ctx k) o r1 && groupRoom s k o r0 r1
    && (match o.opc with
      | .prod p => p.mode % 2 = 0 || storeWritten (s.ctx k) o
      | _ => true)

/-- A row group of an operation may begin at its own core (R58, R102). -/
def groupReady (s : State) (k : CtxAt) (o : TileOp) : Bool :=
  pipesGo s k && !o.inGroup && needsMet s k o && (o.broadcast.isNone || o.agreed)

/-- The cores that move together with an operation: the participants of a broadcast (R103), or its own. -/
def together (k : CtxAt) (o : TileOp) : List CtxAt :=
  match o.broadcast with
  | some p => (participants k.core p).map fun c => ⟨c, k.ctx⟩
  | none => [k]

/-- Every context that moves together, with its running operation of the stage. -/
def groupOps (s : State) (k : CtxAt) (st : Stage) (o : TileOp) : List (CtxAt × TileOp) :=
  (together k o).filterMap fun q => ((s.ctx q).running st).map fun p => (q, p)

/-- An operation stops at a boundary (R59, R61): it stays in the queue, an accumulating one with its row in TSTART; the rows that the
feeders hold queued are discarded (R96). -/
def stopOp (s : State) (k : CtxAt) (o : TileOp) : State :=
  (if opStage o.opc = .feed then dropFeed s k else s).modCtx k fun c =>
    (c.recordRow o).putOp
      { o with started := false, row := 0, inGroup := false, agreed := false, weights := none,
               stopped := opAccumulating o.opc }

/-- The other participants of a broadcast stop with it (R103). -/
def stopPartners (s : State) (k : CtxAt) (o : TileOp) : State :=
  if o.agreed then
    (groupOps s k .feed o).foldl (fun s q => if q.1 = k || !q.2.agreed then s else stopOp s q.1 q.2) s
  else s

/-! ### The feeders (R96) -/

/-- The feeders of a core take row r of a product into their queue: a streamed row is read with the code of the core store (R45);
none where a word is uncorrectable, with its offset. -/
def feedRow (s : State) (k : CtxAt) (o : TileOp) (p : Product) (r : Nat) : State × Option Nat :=
  if (queuedRow (s.core k.core) k.ctx o r).isSome then (s, none)
  else
    let off := p.base + r * p.stride
    let n := rowBytes (cfgFmt o.cfg0) (cfgCols o.cfg0)
    let (ok, s) := if p.mode % 2 = 1 then ((storeRead s k.core off n).1.isSome, (storeRead s k.core off n).2) else (true, s)
    if ok then (s.modCore k.core fun x => { x with feed := x.feed ++ [readFeed s k o p r] }, none)
    else (s, some (badOffset s k.core off n))

/-- Rows taken into the queue in order, up to the first that cannot be read. -/
def feedRows (k : CtxAt) (o : TileOp) (p : Product) : List Nat → State → State × Option Nat
  | [], s => (s, none)
  | r :: rs, s =>
    match feedRow s k o p r with
    | (t, none) => feedRows k o p rs t
    | (t, some off) => (t, some off)

/-- The rows of the row group that an operation is at. -/
def TileOp.groupRows (o : TileOp) : List Nat := (List.range (o.group.2 - o.group.1)).map (o.group.1 + ·)

/-- A product whose rows the feeders may read: no earlier instruction still writes its tile, or the core store (R52, R95), and what
they read has good parity. -/
def mayFeed (x : Core) (k : CtxAt) (o : TileOp) (p : Product) : Bool :=
  suppliesOperand k.core p && tilesFree k.core (x.ctx k.ctx) o && (p.mode % 2 = 0 || storeWritten (x.ctx k.ctx) o)
    && !meets x.badParity (groupUnits x k o)

/-- The rows that the feeders run ahead to: those left of the product being fed, then those of the next (R96). -/
def feedAhead (x : Core) (k : CtxAt) : List (TileOp × Product × Nat) :=
  let prods := (x.ctx k.ctx).queue.filterMap fun o => match o.opc with
    | .prod p => if o.row < o.rows then some (o, p) else none
    | _ => none
  (prods.take 2).flatMap fun (o, p) =>
    let row := if o.started then o.row else beginRow (x.ctx k.ctx) o
    if mayFeed x k o p then (List.range (o.rows - row)).map fun i => (o, p, row + i) else []

/-- Rows taken into the queue while it has room, 24 in all, up to the first that cannot be read. -/
def runAhead (k : CtxAt) : List (TileOp × Product × Nat) → State → State
  | [], s => s
  | (o, p, r) :: rest, s =>
    if 24 ≤ (s.core k.core).feed.length then s
    else
      match feedRow s k o p r with
      | (t, none) => runAhead k rest t
      | (t, some _) => t

/-- The feeders of a core fill their queue. [DEDUCED: log entry 114] -/
def fillFeed (s : State) (k : CtxAt) : State := runAhead k (feedAhead (s.core k.core) k) s

/-- The rows of a group leave the queue as they are fed. -/
def fed (s : State) (k : CtxAt) (o : TileOp) : State :=
  s.modCore k.core fun x => { x with feed := x.feed.filter fun f => f.ctx ≠ k.ctx || f.seq ≠ o.seq || decide (o.group.2 ≤ f.row) }

/-! ### Row groups begin -/

/-- What reading for a row group meets at a core: the state after it, and the fault, if any. Bad parity comes first; the rows of a
streamed operand are read by the feeders where they are not queued. -/
def groupFault (s : State) (k : CtxAt) (o : TileOp) : State × Option (State → State) :=
  let bad := groupUnits (s.core k.core) k o
  match (s.core k.core).badParity.find? bad.contains with
  | some _ => (s, some fun s => eccFault s k o.pc 3 0)
  | none =>
    let read := match o.opc with
      | .prod p => if suppliesOperand k.core p then feedRows k o p o.groupRows s else (s, none)
      | _ => readAll k.core (groupReads o o.group.1 o.group.2) s
    (read.1, read.2.map fun off s => eccFault s k o.pc 1 off)

/-- The reads for the row groups of operations that move together, in order: the state after them, and the first fault. -/
def groupFaults : List (CtxAt × TileOp) → State → State × Option ((CtxAt × TileOp) × (State → State))
  | [], s => (s, none)
  | q :: qs, s =>
    match groupFault s q.1 q.2 with
    | (t, some f) => (t, some (q, f))
    | (t, none) => groupFaults qs t

/-- A row group begins at every core that moves together, or faults the context where its operands cannot be read. -/
def beginGroup (s : State) (ops : List (CtxAt × TileOp)) : State :=
  match groupFaults ops s with
  | (s, some (q, f)) => pipeFault (stopPartners s q.1 q.2) q.1 q.2 f
  | (s, none) => ops.foldl (fun s q => fillFeed (s.modCtx q.1 fun c => c.putOp { q.2 with inGroup := true }) q.1) s

/-- ROW_GROUP_BEGIN (R58, R93, R95, R103). -/
def execRowGroupBegin (k : CtxAt) (st : Stage) (s : State) : Out :=
  match (s.ctx k).running st with
  | none => .next s
  | some o =>
    let ops := groupOps s k st o
    stepIf (ops.length = (together k o).length && ops.all (fun q => groupReady s q.1 q.2 && q.2.row = o.row)) s
      (beginGroup s ops)

/-- The unit of NUM_NANREC0 that an operation traps in: products and drains the array, tile moves the vector unit
(R138). -/
def opUnit (opc : TileOpc) : Nat :=
  match opc with
  | .prod _ => 0
  | .drain _ _ _ => 0
  | .twl _ _ => 0
  | _ => 1

/-- The row group of an operation ends at one core: its rows, flags and NaN trap (R137 to R139), the tiles it wrote (R57,
R97), the weights of a finished twl (R84). -/
def endGroup (k src : CtxAt) (srcOp o : TileOp) (s : State) : State :=
  let (r0, r1) := o.group
  let ran := opRows k src srcOp o (match o.opc, o.weights with
    | .prod _, some w => w.matrix
    | _, _ => []) s r0 r1
  let unit := opUnit o.opc
  let s := (opWrites o.opc).foldl (fun s t => s.modCore k.core fun x => x.wroteTile k.ctx t) ran.state
  let s := addCtxFlags s k (unit = 1) ran.flags
  let trap := ran.nan && !o.nan && trapOn s (ctxTrapBit k.ctx)
  let o' := { o with row := r1, inGroup := false, nan := o.nan || trap }
  let s := (fed s k o).modCtx k fun c => c.putOp o'
  let s := if trap then nanCtx s k unit o.op o.pc else s
  if r1 < o.rows then fillFeed s k
  else
    match o.opc with
    | .twl a pair =>
      let w := loadWeights (s.core k.core) o a pair
      let s := addCtxFlags s k false w.flags
      finishEnd (s.modCtx k fun c => { c.dropOp o' with shadow := some w }) k
    | .prod p =>
      if tileFed k.core p then
        s.modCore k.core fun x => { x with reuse := some ⟨k.ctx, p.tile, o.cfg0⟩ }
      else s
    | _ => s

/-- The row group under way in a stage ends, at every core that moves together. [DEDUCED: log entry 17] -/
def completeGroup (s : State) (k : CtxAt) (st : Stage) : State :=
  match (s.ctx k).running st with
  | none => s
  | some o =>
    if o.inGroup then
      let ops := (groupOps s k st o).filter fun q => q.2.inGroup
      let src := match o.broadcast with
        | some p => (ops.find? fun (q : CtxAt × TileOp) => pondMember q.1.core = p.member).getD (k, o)
        | none => (k, o)
      ops.foldl (fun s q => endGroup q.1 src.1 src.2 q.2 s) s
    else s

/-- ROW_GROUP_COMPLETE (R58). -/
def execRowGroupComplete (k : CtxAt) (st : Stage) (s : State) : Out :=
  stepIf (pipesFinish s k) s (completeGroup s k st)

/-! ### Completion (R55, R61, R84, R164) -/

/-- An earlier operation still uses an accumulator that this one takes as +0. -/
def clearsFree (c : Context) (o : TileOp) : Bool :=
  o.clears = 0 || (c.before o).all fun p => !meets (opAccs o.opc) (opAccs p.opc)

/-- An operation whose rows are all done leaves the queue: the rest of an accumulator that it took as +0 is zero (R55), VALID
clears unless another operation of the pipe is stopped there (R61), a tdrain.c clears ACCINUSE (R55). -/
def completeOp (s : State) (k : CtxAt) (o : TileOp) : State :=
  let s := s.modCore k.core fun x => zeroRest x o o.rows
  let s := s.modCtx k fun c =>
    let st := opStage o.opc
    let keep := (c.dropOp o).queue.any fun p => samePipe (opStage p.opc) st && p.stopped
    let (valid, row) := tstartOf c st
    let c := if valid && !keep && opAccumulating o.opc then { c with tstart := putTstart c.tstart st false row } else c
    let c := match o.opc with
      | .drain acc true _ =>
        if o.superseded then c else { c with accinuse := c.accinuse &&& ~~~(BitVec.ofNat 2 (2 ^ acc.toNat)) }
      | _ => c
    c.dropOp o
  finishEnd s k

/-- TILE_INSTRUCTION_COMPLETE (R164, R55, R61). A twl leaves the queue with its last row group (R84). -/
def execTileInstructionComplete (k : CtxAt) (st : Stage) (s : State) : Out :=
  match (s.ctx k).ranOut st with
  | none => .next s
  | some o => stepIf (pipesFinish s k && clearsFree (s.ctx k) o) s (completeOp s k o)

/-! ### Pond broadcasts (R101 to R103) -/

/-- The broadcast at the head of a core's feed stage, its first row group not begun, with its own needs met (R102). -/
def waitingBroadcast (s : State) (q : CtxAt) : Option (TileOp × Product) :=
  match (s.ctx q).running .feed with
  | some o => (match o.broadcast with
    | some p => if pipesGo s q && !o.inGroup && !o.agreed && needsMet s q o then some (o, p) else none
    | none => none)
  | none => none

/-- What R102 compares: mask, source, form, streamed format, ROWS, COLS. -/
def broadcastKey (o : TileOp) (p : Product) : List Nat :=
  [p.mask, p.member, p.form, p.transposed.toNat, cfgFmt o.cfg0, cfgRows o.cfg0, cfgCols o.cfg0]

/-- The participants of the broadcast at a member, once each of them waits with one. -/
def readyBroadcast (s : State) (c : Ctx) (core : Nat) : Option (List (CtxAt × TileOp × Product)) :=
  match waitingBroadcast s ⟨core, c⟩ with
  | none => none
  | some (_, p) =>
    let qs : List (CtxAt × TileOp × Product) := (participants core p).filterMap fun n =>
      match waitingBroadcast s ⟨n, c⟩ with
      | some x => some (⟨n, c⟩, x.1, x.2)
      | none => none
    if qs.length = (participants core p).length then some qs else none

/-- The participants whose own instruction names them as the source. -/
def sources (qs : List (CtxAt × TileOp × Product)) : List (CtxAt × TileOp) :=
  (qs.filter fun (q : CtxAt × TileOp × Product) => suppliesOperand q.1.core q.2.2).map fun q => (q.1, q.2.1)

/-- Once the first row group of the source is queued, the participants agree and begin, the change of weights going with the first
row (R82), or all of them fault (R102). A source whose rows cannot be read faults alone (R406). -/
def beginBroadcast (s : State) (qs : List (CtxAt × TileOp × Product)) : State :=
  match qs with
  | [] => s
  | (_, o, p) :: _ =>
    match groupFaults (sources qs) s with
    | (s, some (q, f)) => pipeFault s q.1 q.2 f
    | (s, none) =>
    if qs.all (fun (q : CtxAt × TileOp × Product) => broadcastKey q.2.1 q.2.2 = broadcastKey o p) then
      qs.foldl
        (fun s (q : CtxAt × TileOp × Product) => s.modCtx q.1 fun c =>
          let c := c.promote q.2.1
          c.putOp { q.2.1 with agreed := true, weights := c.latch }) s
    else qs.foldl (fun s (q : CtxAt × TileOp × Product) => pipeFault s q.1 q.2.1 fun s => tileFault s q.1 q.2.1.pc 4 31) s

/-- POND_BROADCAST_BEGIN (R102). -/
def execPondBroadcastBegin (pond : Nat) (c : Ctx) (s : State) : Out :=
  match (List.range 4).findSome? fun m => readyBroadcast s c (pondCore pond m) with
  | some qs => stepIf (pond < 192) s (beginBroadcast s qs)
  | none => .next s

/-! ### Stopping at a boundary (R59, R61, R70) -/

/-- Operations of a stage whose rows are all done complete, up to n of them. -/
def completeRanOut (k : CtxAt) (st : Stage) : Nat → State → State
  | 0, s => s
  | n + 1, s =>
    match (s.ctx k).ranOut st with
    | some o => if clearsFree (s.ctx k) o then completeRanOut k st n (completeOp s k o) else s
    | none => s

/-- A stage stops at its boundary: rows in flight enter their accumulator, the operation under way stays at the head. -/
def stopStage (s : State) (k : CtxAt) (st : Stage) : State :=
  let s := completeRanOut k st 8 s
  match (s.ctx k).running st with
  | some o => stopOp (stopPartners s k o) k o
  | none => if st = .feed then dropFeed s k else s

/-- INTERRUPT_BOUNDARY_REACHED (R59, R61, R70): a stage of B stops for a switch-in; after the last, the save begins. -/
def execInterruptBoundaryReached (k : CtxAt) (st : Stage) (s : State) : Out :=
  let x := s.core k.core
  let group := match (s.ctx k).running st with
    | some o => o.inGroup
    | none => false
  stepIf (s.live && decide (k.core < coreCount) && k.ctx = .B && x.switch = .stopping && !x.stopped.contains st && !group) s
    (let s := stopStage s k st
     s.modCore k.core fun x =>
       let done := x.stopped ++ [st]
       { x with stopped := done, switch := if done.length = 3 then .saving else x.switch })

/-- Every stage of a context finishes its row group and stops (a halt or a reset, R59, R77, R78). -/
def stopAll (s : State) (k : CtxAt) : State :=
  [Stage.weight, Stage.feed, Stage.move].foldl (fun s st => stopStage (completeGroup s k st) k st) s

end Sys2Proof.Machine
end

