-- ==== Sys2Proof/Machine/Timebase.lean ====
section
/-! DEFINITION. The timebase as arithmetic: frame rates, frame instants, lines and slices (R339, R342, R343, R354), and the margin
of a frame (R355). Times here are numbers of 2^-32 ns, the resolution of R339. -/

namespace Sys2Proof.Machine

open Sys2Proof

/-- A nanosecond. -/
def oneNs : Nat := 2 ^ 32

/-- A second. -/
def oneSecond : Nat := 1000000000 * 2 ^ 32

/-- The timebase. -/
def Time.at (t : Time) : Nat := t.ns.toNat * 2 ^ 32 + t.frac.toNat

/-- The count of the unit that is not active. -/
def Clock.at (c : Clock) : Nat := c.ns.toNat * 2 ^ 32 + c.frac.toNat

/-- The frame rate of a code as a fraction in Hz (R342); codes of no rate are those of 24 Hz. -/
def rateOf (code : Nat) : Nat × Nat :=
  [(24000, 1001), (24, 1), (25, 1), (30000, 1001), (30, 1), (48000, 1001), (48, 1), (50, 1), (60000, 1001), (60, 1),
    (100, 1), (120000, 1001), (120, 1)].getD code (24, 1)

/-- The fields of TIME_FMT (R360). -/
def fmtRate (v : Word) : Nat := Word.fld v 0 4
def fmtSync (v : Word) : Nat := Word.fld v 8 2
def fmtLines (v : Word) : Nat := Word.fld v 16 16

/-- The frame count of an instant: floor(t × rate) (R343). -/
def framesAt (fmt : Word) (t : Nat) : Nat := t * (rateOf (fmtRate fmt)).1 / ((rateOf (fmtRate fmt)).2 * oneSecond)

/-- The instant of frame k (R343), rounded up to the resolution of the timebase. [DESIGN CHOICE: log entry 57] -/
def frameInstant (fmt : Word) (k : Nat) : Nat :=
  ceilDiv (k * (rateOf (fmtRate fmt)).2 * oneSecond) (rateOf (fmtRate fmt)).1

/-- j n-ths of the frame period P. -/
def framePart (fmt : Word) (j n : Nat) : Nat :=
  ceilDiv (j * (rateOf (fmtRate fmt)).2 * oneSecond) ((rateOf (fmtRate fmt)).1 * n)

/-- The first frame instant after an instant (R343). -/
def nextInstant (fmt : Word) (t : Nat) : Nat := frameInstant fmt (framesAt fmt t + 1)

/-- The start of line n of the frame in progress (R343): an equal part of the frame; under REF_SYNC the later lines are timed from the sync
last seen (log entry 106). -/
def lineStart (t : Time) (n : Nat) : Nat :=
  if n = 0 then t.frameAt else ((t.frameAt + framePart t.fmt n (max 1 (fmtLines t.fmt)) : Nat) + t.linePhase).toNat

/-- The start of slice j of the frame in progress (R354). -/
def sliceAt (t : Time) (j : Nat) : Nat := t.frameAt + framePart t.fmt j 64

/-- The line in progress a time after the frame's start: the last that has begun. -/
def lineAfter (fmt : Word) (since : Nat) : Nat :=
  let p := (rateOf (fmtRate fmt)).2 * oneSecond
  min (since * (rateOf (fmtRate fmt)).1 * fmtLines fmt / p) (fmtLines fmt - 1)

/-- The line in progress. -/
def lineNow (t : Time) : Nat := lineAfter t.fmt (((t.at - t.frameAt : Nat) : Int) - t.linePhase).toNat

/-! ### SVC_DEADLINE (R355, R361) -/

def deadEn (v : Word) : Bool := Word.bit v 63
def deadLine (v : Word) : Nat := Word.fld v 32 16
def deadCount (v : Word) : Nat := Word.fld v 16 10
def deadPhase (v : Word) : Nat := Word.fld v 0 16

/-- The margin of this frame is measured: SVC_MARGIN and SVC_MARGIN_MIN (R355, R361). -/
def recordMargin (s : State) (m : Nat) : State :=
  let m := min m 0xFFFFFFFF
  let s := { s with svc := { s.svc with margin := some m } }
  let s := s.setReg .svcMargin (BitVec.ofNat 64 m)
  if m < s.regFld .svcMarginMin 0 32 then s.putFld .svcMarginMin 0 32 m else s

/-- A ph.end of an F context takes effect (R355): it counts toward the deadline, and the frame is done with the last of them. -/
def countPhase (s : State) (x : Ctx) (id : Nat) : State :=
  let d := s.svc.deadline
  if x = .F && deadEn d && deadPhase d = id && s.svc.margin.isNone then
    let n := s.svc.count + 1
    let s := { s with svc := { s.svc with count := n } }
    if n = deadCount d && decide (s.time.at < lineStart s.time (deadLine d))
    then recordMargin s ((lineStart s.time (deadLine d) - s.time.at) / oneNs) else s
  else s

/-- The deadline line of this frame has begun and the frame is not yet done (R355). -/
def deadlineDue (s : State) : Bool :=
  let d := s.svc.deadline
  deadEn d && s.svc.margin.isNone && decide (deadLine d < fmtLines s.time.fmt)
    && decide (lineStart s.time (deadLine d) ≤ s.time.at)

/-- The frame is a miss (R355): its margin is recorded as 0. -/
def recordMiss (s : State) : State :=
  let s := { s with svc := { s.svc with margin := some 0, missed := true } }
  ((s.setReg .svcMargin (BitVec.ofNat 64 (2 ^ 63))).countReg .svcMarginMin 32 16 1).setBit .svcEvent 0

end Sys2Proof.Machine
end

