-- ==== Sys2Proof/Machine/Sync.lean ====
section
/-! DEFINITION. Counter, transfer and phase-marker instructions, releases, and what happens at counters (R148, R165 to R169,
R203 to R218, R223). -/

namespace Sys2Proof.Machine

open Sys2Proof

/-! ### Register writes by a cluster -/

/-- The bits of a register that its table marks "Reserved: reads 0, write 0" (R10). -/
def Reg.reserved (r : Reg) : Word :=
  r.fields.foldl (fun m f => if f.type = .res then Word.put m f.lo (f.hi - f.lo + 1) (2 ^ (f.hi - f.lo + 1) - 1) else m) 0

/-- A cluster runs (R362, R407, R415): out of reset, in service, ready. -/
def clusterRuns (s : State) (h : Half) : Bool :=
  s.live && (s.clusters.getD (halfNum h) Cluster.reset).inService && s.ready (.cluster h)

/-- A write of a register by a cluster (R31, R365): it has the effect given where the register exists; setting a reserved
bit has an undefined effect (R10), which stops the model. -/
def writeReg (who : Half) (r : Reg) (fitted : Bool) (v : Word) (s : State) (effect : State → State) : Out :=
  if clusterRuns s who && fitted then
    if v &&& r.reserved ≠ 0 then .fault (.reservedBitWritten r.addr) else .next (effect s)
  else .next s

/-! ### Releases (R148) -/

/-- A release is held until its turn; a fifth stalls issue (R148). -/
def hold (k : CtxAt) (op : ReleaseOp) (t : State) : State :=
  let c := t.ctx k
  if 4 ≤ c.releases.length then t
  else t.setCtx k { c with releases := c.releases ++ [⟨c.seq, c.pc, op⟩], seq := c.seq + 1, pc := pcAdd c.pc 1 }

/-- sc.inc (R165): a release. -/
def execScInc (k : CtxAt) (x : BitVec 28) (s : State) : Out :=
  issue k (encR 0x60 0 0 0 0 0 x) s (hold k (.scInc (fld x.toNat 0 6) (BitVec.ofNat 32 (fld x.toNat 12 16))))

/-- The target of sc.inc.r (R166): none where it is not one. -/
def incTarget (v : Word) : Option (Nat × Nat × Nat) :=
  if Word.fld v 54 10 ≠ 0 || Word.fld v 16 27 ≠ 0 || 767 < Word.fld v 6 10 || 47 < Word.fld v 0 6 then none
  else some (Word.fld v 43 11, Word.fld v 6 10, Word.fld v 0 6)

/-- sc.inc.r (R165, R166): a release; a target that is none faults with cause OPERAND. -/
def execScIncR (k : CtxAt) (a : BitVec 5) (x : BitVec 28) (s : State) : Out :=
  let w := encR 0x61 0 0 a 0 0 x
  issue k w s fun t =>
    match incTarget ((t.ctx k).s a) with
    | none => illegalFault t k (t.ctx k).pc 5 w
    | some (dev, core, n) => hold k (.scIncR dev core n (BitVec.ofNat 32 (fld x.toNat 12 16))) t

/-- rg.post (R165, R168): a release. -/
def execRgPost (k : CtxAt) (a : BitVec 5) (x : BitVec 28) (s : State) : Out :=
  issue k (encR 0x64 0 0 a 0 0 x) s fun t => hold k (.rgPost (fld x.toNat 0 13) (Word.fld ((t.ctx k).s a) 0 16)) t

/-- ph.bgn (R165, R169): opens a phase. -/
def execPhBgn (k : CtxAt) (x : BitVec 28) (s : State) : Out :=
  issue k (encR 0x70 0 0 0 0 0 x) s fun t =>
    advance (t.modCtx k fun c => { c with phase := some ⟨fld x.toNat 0 16, t.time.ns, t.time.steps⟩ }) k

/-- ph.end (R165, R169): a release. -/
def execPhEnd (k : CtxAt) (x : BitVec 28) (s : State) : Out :=
  issue k (encR 0x71 0 0 0 0 0 x) s (hold k (.phEnd (fld x.toNat 0 16)))

/-- A post to a ring (R168, R223): added to PI, or discarded with OVERFLOW. A count of 0 has no effect. -/
def postRing (s : State) (r n : Nat) : State :=
  let x := s.ring r
  if n = 0 then s
  else if ringSize s r < (x.pi - x.counter).toNat + n then enterError (raiseRec s (ringRec s r 9 x.pi)) r 9 x.pi
  else s.setRing r { x with pi := x.pi + BitVec.ofNat 32 n }

/-- The end of a phase (R169, R307, R308): where the log is armed its entry waits to be written, or is lost where two already
wait. -/
def endPhase (s : State) (k : CtxAt) (id : Nat) : State :=
  let c := s.ctx k
  let t := s.time
  let (start, steps, matched) := match c.phase with
    | some p => if p.id = id then (p.start, p.steps, true) else (t.ns, t.steps, false)
    | none => (t.ns, t.steps, false)
  let s := countPhase (s.setCtx k { c with phase := if matched then none else c.phase }) k.ctx id
  if !s.regBit .timePlogBase 0 then s
  else if 2 ≤ c.plog.length then
    (s.modCtx k fun c => { c with plogLost := true }).countReg .timePlogLost 0 32 1
  else
    let e : PlogEntry :=
      { start := start, fin := t.ns, frame := t.frame.truncate 32, line := t.line, phase := id, unmatched := !matched,
        lost := false, stepped := steps ≠ t.steps }
    s.modCtx k fun c => { c with plog := c.plog ++ [e] }

/-- Two increments of one source for one core keep their order (R210). -/
def sameSource (a b : IncMsg) : Bool :=
  a.core = b.core && a.src.dev = b.src.dev && a.src.kind = b.src.kind && a.src.ctx = b.src.ctx && a.src.num = b.src.num
    && (a.src.kind ≠ 1 || a.src.addr = b.src.addr)

/-- An increment within the core (R208): its counter changes in the next cycle, but behind the increments that its context has on the
plane for the same core (R210). -/
def sendHere (s : State) (m : IncMsg) : State := if s.incs.any (sameSource m) then sendPlane s m else sendDue s m

/-- What a release does (R148, R165, R168, R169, R208). -/
def releaseEffect (s : State) (k : CtxAt) (r : Release) : State :=
  match r.op with
  | .scInc n amount => sendHere s ⟨k.core, n, amount, ctxSource s k r.pc⟩
  | .scIncR dev core n amount => sendInc s (coreHalf k.core) (k.ctx = .F) (ctxSource s k r.pc) dev core n amount
  | .rgPost ring n => postRing s ring n
  | .phEnd id => endPhase s k id

/-- The oldest release of a context, if every earlier instruction has finished (R148). -/
def readyRelease (c : Context) : Option Release :=
  match c.releases with
  | [] => none
  | r :: _ => if c.queue.all fun o => decide (r.seq < o.seq) then some r else none

/-- The oldest release takes effect. -/
def takeRelease (s : State) (k : CtxAt) : State :=
  match readyRelease (s.ctx k) with
  | none => s
  | some r => finishEnd (releaseEffect (s.modCtx k fun c => { c with releases := c.releases.drop 1 }) k r) k

/-- RELEASE_TAKES_EFFECT (R148). In frost no release takes effect (R413). -/
def execReleaseTakesEffect (k : CtxAt) (s : State) : Out :=
  stepIf (s.working && decide (k.core < coreCount)) s (byClass (takeRelease · k) s)

/-- Every release whose earlier instructions have finished takes effect, in order (R78). -/
def takeReleases (k : CtxAt) : Nat → State → State
  | 0, s => s
  | n + 1, s => takeReleases k n (takeRelease s k)

/-! ### sc.wait and sc.rd (R167) -/

/-- The counter that sc.wait or sc.rd names. -/
def counterNamed (s : State) (core : Nat) (ring : Bool) (x : BitVec 28) : SyncObj :=
  if ring then ⟨s.dev, true, 0, fld x.toNat 0 13⟩ else ⟨s.dev, false, core, fld x.toNat 0 6⟩

/-- sc.wait (R167, R205, R211): it ends at once where its counter is poisoned, its condition holds or its timeout is 0. -/
def execScWait (k : CtxAt) (ring : Bool) (d a b : BitVec 5) (x : BitVec 28) (s : State) : Out :=
  issue k (encR 0x62 ring.toNat d a b 0 x) s fun t =>
    let c := t.ctx k
    let o := counterNamed t k.core ring x
    let target : BitVec 32 := (c.s a).truncate 32
    let timeout := Word.fld (c.s b) 0 48
    if o.poisoned t then syncError (writeS t k d 2) 2 o (ctxSource t k c.pc) target (o.value t)
    else if waitHolds (o.value t) target then writeS t k d 0
    else if timeout = 0 then syncError (writeS t k d 1) 1 o (ctxSource t k c.pc) target (o.value t)
    else t.setCtx k
      { c with hold := .scWait ⟨ring, o.num, target, timeout, t.time.elapsed, d, c.pc, false⟩, pc := pcAdd c.pc 1 }

/-- sc.rd (R165): the counter's value. -/
def execScRd (k : CtxAt) (ring : Bool) (d : BitVec 5) (x : BitVec 28) (s : State) : Out :=
  issue k (encR 0x63 ring.toNat d 0 0 0 x) s fun t =>
    writeS t k d (((counterNamed t k.core ring x).value t).zeroExtend 64)

/-! ### What happens at counters -/

/-- The routers at which two increments start are one: their paths to a core are the same (R200). -/
def samePath (a b : IncMsg) : Bool :=
  a.core = b.core && a.src.dev = b.src.dev && a.src.kind = b.src.kind
    && (if a.src.kind = 1 then ringEngine a.src.addr = ringEngine b.src.addr else a.src.num = b.src.num)

/-- An increment on the plane passes before another (R209, R210): that of its source before it, and the F-owned before the B-owned on one
path. Where their paths differ, how they meet is a matter of cycles (log entry 102). [DESIGN CHOICE: log entry 102] -/
def passesFirst (a b : IncMsg) : Bool :=
  sameSource a b || (samePath a b && counterOwner a.n = .F && counterOwner b.n = .B)

/-- The increments at places of the plane, in their order. -/
def incsAt (s : State) (ns : List Nat) : List IncMsg := (s.incs.zipIdx.filter fun p => ns.contains p.2).map (·.1)

/-- Increments to one counter that met on the way are one (R209): the sum, from the source of the first. -/
def mergeIncs (m : IncMsg) (ms : List IncMsg) : IncMsg := { m with amount := ms.foldl (fun v x => v + x.amount) 0 }

/-- The increment at place n of the plane can land with those that met it: all for one counter, none passed by another. -/
def mayLand (s : State) (m : IncMsg) (ns : List Nat) : Bool :=
  (incsAt s ns).all (fun x => x.core = m.core && x.n = m.n)
    && s.incs.zipIdx.all (fun p => ns.contains p.2 || s.incs.zipIdx.all fun q =>
      !(ns.contains q.2 && decide (p.2 < q.2) && passesFirst p.1 q.1))
    && !(s.grid.due.any fun x => (incsAt s ns).any (sameSource x))

/-- INCREMENT_LANDS (R209): the increment at the first of the places on the plane reaches its counter, together with those to the same counter,
at the other places, that it met at routers. [DESIGN CHOICE: log entry 102] -/
def execIncrementLands (ns : List Nat) (s : State) : Out :=
  match ns.head?.bind (s.incs[·]?) with
  | none => .next s
  | some m =>
    stepIf (s.live && mayLand s m ns) s
      (byClass (landInc · (mergeIncs m (incsAt s ns)))
        { s with incs := (s.incs.zipIdx.filter fun p => !ns.contains p.2).map (·.1) })

/-- A wait has lasted its timeout in elapsed nanoseconds of reference time (R214). -/
def timedOut (s : State) (w : ScWait) : Bool := decide (w.since + w.timeout ≤ s.time.elapsed)

/-- A wait of a context ends as its timeout expires (R215): with 0 where its condition holds, 2 where its counter is poisoned, else 1. -/
def expireCtx (s : State) (k : CtxAt) (w : ScWait) : State :=
  let o := waitObj s k.core w
  if waitHolds (o.value s) w.target then endWait s k w 0
  else
    let kind := if o.poisoned s then 2 else 1
    syncError (endWait s k w kind) kind o (ctxSource s k w.pc) w.target (o.value s)

/-- A WAIT of a ring ends as its timeout expires (R215, R230): it starts, once the ring may, where its condition holds; else its ring goes to
ERROR with cause POISON or TIMEOUT. -/
def expireRing (s : State) (r : Nat) (w : ScWait) (desc : BitVec 512) : State :=
  let o := ringWaitObj s w
  if waitHolds (o.value s) w.target then relook s r
  else
    let kind := if o.poisoned s then 2 else 1
    failHead (syncError s kind o (ringSource s r) w.target (o.value s)) r (some desc) (if kind = 2 then 13 else 12)

/-- WAIT_TIMEOUT_EXPIRY (R214 to R216, R230). -/
def execWaitTimeoutExpiry (w : Waiter) (s : State) : Out :=
  match w with
  | .ctx k =>
    (match (s.ctx k).hold with
      | .scWait w => stepIf (s.working && timedOut s w) s (expireCtx s k w)
      | _ => .next s)
  | .ring r =>
    (match (s.ring r).head with
      | some ⟨_, some (w, desc)⟩ => stepIf (ringWaits s r && timedOut s w) s (byClass (expireRing · r w desc) s)
      | _ => .next s)

/-- Both parts of a core's router are EMPTY (R213). -/
def partsEmpty (s : State) (c : Nat) : Bool := (s.router c).f.state = .empty && (s.router c).b.state = .empty

/-- A counter may be cleared (R213): its owner is DISABLED and the router's parts are EMPTY. -/
def clearable (s : State) (c n : Nat) : Bool := (s.ctx ⟨c, counterOwner n⟩).state = .disabled && partsEmpty s c

/-- A counter is cleared (R213): it becomes 0 and unpoisoned, its waits look at it, and the increments that landed on it in this cycle are
discarded. -/
def clearCounter (core : Nat) (s : State) (n : Nat) : State :=
  let mine := s.grid.landed.filter fun m => m.core = core && m.n = n
  let s := mine.foldl discardInc s
  look { s.setCounter core n Counter.reset with
    grid := { s.grid with
      cleared := (core * 64 + n) :: s.grid.cleared
      landed := s.grid.landed.filter fun m => !(m.core = core && m.n = n) } } ⟨s.dev, false, core, n⟩

/-- SYNC_CLR (R213): each counter named that may be cleared is; a bit ignored sets WIGN. -/
def execSyncClr (who : Half) (core : Nat) (v : Word) (s : State) : Out :=
  writeReg who (.syncClr core) (core < coreCount) v s fun s =>
    let ns := (List.range 48).filter fun n => Word.bit v n
    let t := byClass (fun s => (ns.filter (clearable s core)).foldl (clearCounter core) s) s
    if ns.all (clearable s core) then t else t.setBit .syncStatus 4

/-- SYNC_INC (R208, R218, R415): an increment on the plane; ignored with WIGN in frost or above counter 47. -/
def execSyncInc (who : Half) (core : Nat) (v : Word) (s : State) : Out :=
  writeReg who (.syncInc core) (core < coreCount) v s fun s =>
    if s.faults.inFrost || 47 < Word.fld v 32 6 then s.setBit .syncStatus 4
    else sendPlane s ⟨core, Word.fld v 32 6, BitVec.ofNat 32 (Word.fld v 0 16), ⟨s.dev, 2, .B, halfNum who, 0⟩⟩

end Sys2Proof.Machine
end

