-- ==== Sys2Proof/Machine/Grid.lean ====
section
/-! DEFINITION. The scheduled fabric (R176 to R202) and the edge streams it meets (R199, R220, R221). -/

namespace Sys2Proof.Machine

open Sys2Proof

/-! ### Ports and delays (R176, R180) -/

/-- The router beyond a port. -/
def neighbour (r port : Nat) : Option Nat :=
  match port with
  | 0 => if 0 < coreY r then some (r - 32) else none
  | 1 => if coreX r < 31 then some (r + 1) else none
  | 2 => if coreY r < 23 then some (r + 32) else none
  | 3 => if 0 < coreX r then some (r - 1) else none
  | _ => none

/-- A port that joins an edge engine. -/
def edgePort (r port : Nat) : Bool := (coreY r = 0 && port = 0) || (coreY r = 23 && port = 2)

/-- The engine beside a router of row 0 or 23. -/
def routerEngine (r : Nat) : Nat := if coreY r = 0 then coreX r else 32 + coreX r

/-- The port at the other end of a link. -/
def oppositePort (port : Nat) : Nat := (port + 2) % 4

/-- The stitch between two fields (R12): none within one field. -/
def stitchBetween (f g : Nat) : Option Nat :=
  (List.range 4).find? fun n => stitchFields n = (f, g) || stitchFields n = (g, f)

/-- The stitch that a link crosses. -/
def portStitch (r port : Nat) : Option Nat :=
  match neighbour r port with
  | some q => if coreField r = coreField q then none else stitchBetween (coreField r) (coreField q)
  | none => none

/-- The delay of the link at a port. -/
def linkDelay (r port : Nat) : Nat := if edgePort r port then 2 else if (portStitch r port).isSome then 4 else 1

/-! ### Entries (R197) and descriptors (R183) -/

def ePlane (e : BitVec 64) : Nat := Word.fld e 63 1
def eCycle (e : BitVec 64) : Nat := Word.fld e 53 10
def eOut (e : BitVec 64) : Nat := Word.fld e 50 3
def eInA (e : BitVec 64) : Nat := Word.fld e 47 3
def eInB (e : BitVec 64) : Nat := Word.fld e 44 3
def eOp (e : BitVec 64) : Nat := Word.fld e 42 2
def eStream (e : BitVec 64) : Nat := Word.fld e 37 5
def eBeat (e : BitVec 64) : Nat := Word.fld e 31 6
def eLocal (e : BitVec 64) : Bool := Word.bit e 30
def eInC (e : BitVec 64) : Nat := Word.fld e 27 3
def eTag (e : BitVec 64) : BitVec 16 := e.truncate 16

/-- n bytes at an offset of a stream descriptor. -/
def sdFld (d : BitVec 256) (off n : Nat) : Nat := fld d.toNat (8 * off) (8 * n)

def sdSource (d : BitVec 256) : Bool := fld (sdFld d 0 1) 0 1 = 1
def sdTarget (d : BitVec 256) : Bool := fld (sdFld d 0 1) 1 1 = 1
def sdSrcKind (d : BitVec 256) : Nat := sdFld d 1 1
def sdTgtKind (d : BitVec 256) : Nat := sdFld d 2 1
def sdBeats (d : BitVec 256) : Nat := sdFld d 3 1
def sdPort (d : BitVec 256) : Nat := sdFld d 4 1
def sdDataSc (d : BitVec 256) : Nat := sdFld d 5 1
def sdSentSc (d : BitVec 256) : Nat := sdFld d 6 1
def sdCreditSc (d : BitVec 256) : Nat := sdFld d 7 1
def sdArrSc (d : BitVec 256) : Nat := sdFld d 8 1
def sdXid (d : BitVec 256) : Nat := sdFld d 9 1
def sdDstep (d : BitVec 256) : Nat := sdFld d 0x0A 2
def sdDataBase (d : BitVec 256) : BitVec 32 := BitVec.ofNat 32 (sdFld d 0x0C 4)
def sdCreditBase (d : BitVec 256) : BitVec 32 := BitVec.ofNat 32 (sdFld d 0x10 4)
def sdSrcBase (d : BitVec 256) : Nat := sdFld d 0x14 4
def sdTgtBase (d : BitVec 256) : Nat := sdFld d 0x18 4
def sdSrcBufs (d : BitVec 256) : Nat := sdFld d 0x1C 2
def sdTgtBufs (d : BitVec 256) : Nat := sdFld d 0x1E 2

/-! ### Routers -/

def State.setRouter (s : State) (r : Nat) (x : Router) : State := { s with routers := SMap.set s.routers r x Router.reset }
def State.modRouter (s : State) (r : Nat) (f : Router → Router) : State := s.setRouter r (f (s.router r))

/-- The context that owns a stream (R182). -/
def streamCtx (n : Nat) : Ctx := if n < 8 then .F else .B

def Router.part (x : Router) : Ctx → Part
  | .F => x.f
  | .B => x.b

def Router.setPart (x : Router) (c : Ctx) (p : Part) : Router :=
  match c with
  | .F => { x with f := p }
  | .B => { x with b := p }

/-- A part is running (R198). -/
def Part.live (p : Part) : Bool := p.state = .active || p.state = .stopping

/-- The descriptor of a stream at a router, of a part that runs. -/
def Router.desc (x : Router) (n : Nat) : Option (BitVec 256) :=
  if (x.part (streamCtx n)).live then
    match SMap.get? (x.part (streamCtx n)).descs n with
    | some d => if sdSource d || sdTarget d then some d else none
    | none => none
  else none

/-- A stream at a router. -/
def Router.ep (x : Router) (n : Nat) : Endpoint := SMap.getD x.streams n Endpoint.reset
def Router.setEp (x : Router) (n : Nat) (e : Endpoint) : Router :=
  { x with streams := SMap.set x.streams n e Endpoint.reset }
def State.modEp (s : State) (r n : Nat) (f : Endpoint → Endpoint) : State :=
  s.modRouter r fun x => x.setEp n (f (x.ep n))

/-- The entry at a place of a router's table: those of the F part, then those of the B part. -/
def Router.entry (x : Router) (n : Nat) : Option (Ctx × BitVec 64) :=
  if n < x.f.entries.length then (x.f.entries[n]?).map fun e => (.F, e)
  else (x.b.entries[n - x.f.entries.length]?).map fun e => (.B, e)

/-! ### Edge streams (R220, R221) -/

/-- The staging slot of a beat of an instance. [DEDUCED: log entry 16] -/
def xsSlot (s : State) (e n : Nat) (inst : BitVec 32) (beat : Nat) : Nat :=
  e * 2048 + (xsBase s e n + inst.toNat % xsCap s e n * xsBeats s e n + beat) % 2048

def State.slot (s : State) (i : Nat) : Slot := SMap.getD s.staging i Slot.reset
def State.setSlot (s : State) (i : Nat) (x : Slot) : State := { s with staging := SMap.set s.staging i x Slot.reset }

/-- A difference from 1 to 2^31 - 1. -/
def ahead (a b : BitVec 32) : Bool := decide (0 < (a - b).toNat) && decide ((a - b).toNat < 2 ^ 31)

/-- The readiness of an edge stream for instance c (R221). -/
def xsReady (s : State) (e n : Nat) (c : BitVec 32) : Bool :=
  0 < xsSize s e n &&
    (if xsFromGrid s e n then decide ((c - s.xsCount e n).toNat < xsCap s e n) else ahead (s.xsCount e n) c)

/-- The instance that an edge stream's engine decides next: the one after those committed, the go of this round among them. -/
def EdgeStream.next (x : EdgeStream) : BitVec 32 := if x.go then x.committed + 1 else x.committed

/-! ### Halts (R201) -/

/-- A stream halts at a router: its cause, GRID_STATUS.HALT, and a record. A halted stream stays as it is. -/
def haltStream (s : State) (r n cause : Nat) : State :=
  if ((s.router r).ep n).halt ≠ 0 then s
  else
    let s := s.modEp r n fun e => { e with halt := cause, haltRound := s.grid.round, haltDue := false }
    raiseRec (s.setBit .gridStatus 2) { Rec.of s 9 cause 3 2 r with d0 := BitVec.ofNat 64 n }

/-- A stream whose reset was written in an earlier round (R201): it commits nothing more, and halts once its latched go is carried out. -/
def resetHalts (s : State) (e : Endpoint) : Bool := e.haltDue && decide (e.haltRound < s.grid.round)

/-- Beats of a stream no longer pass a router that halted on them. -/
def blocks (e : Endpoint) : Bool := e.halt = 3 || e.halt = 4 || e.halt = 5

/-! ### Votes (R186, R187) -/

/-- A counter condition of R186: 63 names none; a poisoned counter never holds. -/
def counterReady (s : State) (r sc : Nat) (target : BitVec 32) : Bool :=
  if sc = 63 then true
  else
    let c := s.counter r sc
    !c.poisoned && waitHolds c.value target

/-- A counter that a stream names is poisoned (R186, R211): of a source DATA_SC or SENT_SC, of a target CREDIT_SC or ARR_SC. -/
def endsPoisoned (s : State) (r : Nat) (d : BitVec 256) : Bool :=
  let poisoned (sc : Nat) : Bool := sc ≠ 63 && (s.counter r sc).poisoned
  (sdSource d && (poisoned (sdDataSc d) || poisoned (sdSentSc d))) || (sdTarget d && (poisoned (sdCreditSc d) || poisoned (sdArrSc d)))

/-- This router's readiness for a stream (R186): its core-store and hand-off ends. An edge stream's readiness comes by the
edge port (R199). [DEDUCED: log entry 14] -/
def localReady (s : State) (r n : Nat) : Bool :=
  let x := s.router r
  let e := x.ep n
  match x.desc n with
  | none => false
  | some d =>
    let c := e.committed
    let src := !sdSource d ||
      (match sdSrcKind d with
        | 4 => counterReady s r (sdDataSc d) (sdDataBase d + (c + 1) * BitVec.ofNat 32 (sdDstep d))
        | 5 => decide (2 * sdBeats d * ((c - e.sent).toNat + 1) ≤ (SMap.getD x.hoff (sdPort d) []).length)
        | _ => true)
    let tgt := !sdTarget d ||
      (match sdTgtKind d with
        | 4 => counterReady s r (sdCreditSc d) (sdCreditBase d + c + 1 - BitVec.ofNat 32 (sdTgtBufs d))
        | _ => true)
    e.halt = 0 && !resetHalts s e && src && tgt && !endsPoisoned s r d

/-- The readiness that the edge engine shows a router for a stream (R186, R199, R221). -/
def edgeReady (s : State) (r n : Nat) : Bool :=
  match (s.router r).desc n with
  | some d =>
    let e := routerEngine r
    let ep := (s.router r).ep n
    xsReady s e (sdXid d) (s.xs e (sdXid d)).next && ep.halt = 0 && !resetHalts s ep && !endsPoisoned s r d
  | none => false

/-- A readiness as it was sampled for this cycle (R187); as it is where the cycle is the first that the entry stands in. -/
def sampled (s : State) (r n : Nat) (edge : Bool) (live : Bool) : Bool :=
  match s.grid.samples.find? fun x => x.router = r && x.stream = n && x.edge = edge && x.due = s.grid.now with
  | some x => x.bit
  | none => live

/-- The stitch of a link is ready; a link within a field always is. -/
def stitchReady (s : State) (r port : Nat) : Bool :=
  match portStitch r port with
  | some n => s.ready (.stitch n)
  | none => true

/-- The bit that arrives on a port of the vote plane at this cycle: 0 with no upstream entry, or from a stitch that is not
ready (R187). -/
def voteIn (s : State) (r port : Nat) (go : Bool) : Bool :=
  stitchReady s r port &&
    (match s.grid.votes.find? fun m => m.router = r && m.port = port && m.go = go
        && m.launched + linkDelay r port = s.grid.now with
      | some m => m.bit
      | none => false)

/-- A vote input of an AND entry: a neighbour's vote, or on the edge port the readiness of the stream's edge stream (R199). -/
def voteInput (s : State) (r n port : Nat) : Bool :=
  if edgePort r port then sampled s r n true (edgeReady s r n) else voteIn s r port false

/-- A bit sent on the vote plane. -/
def sendVote (s : State) (r port : Nat) (go bit : Bool) : State :=
  match neighbour r port with
  | some q => { s with grid := { s.grid with votes := s.grid.votes ++ [⟨q, oppositePort port, s.grid.now, go, bit⟩] } }
  | none => s

/-- A part that stops casts no votes and latches no go from the round after (R198). -/
def votesOff (s : State) (p : Part) : Bool := p.state = .stopping && decide (p.stopRound < s.grid.round)

/-- An AND entry (R187, R201): the AND of its inputs and, with LOCAL, of this router's readiness, sent on or decided. A parity
error reads 0 and counts. -/
def fireAnd (s : State) (r : Nat) (p : Part) (e : BitVec 64) (parity : BitVec 3) : State :=
  let n := eStream e
  let ep := (s.router r).ep n
  let input (port i : Nat) : Bool := port = 7 || (!parity.getLsbD i && voteInput s r n port)
  let bad := ((List.range 3).filter fun i => parity.getLsbD i && [eInA e, eInB e, eInC e].getD i 7 ≠ 7).length
  let halted := ep.halt ≠ 0 && (((s.router r).desc n).isSome || decide (ep.haltRound < s.grid.round))
  let bit := input (eInA e) 0 && input (eInB e) 1 && input (eInC e) 2 && (!eLocal e || sampled s r n false (localReady s r n)) && !halted
    && !votesOff s p
  let s := if bad = 0 then s else s.countReg .gridErr 32 16 bad
  if eOut e = 6 then
    s.modEp r n fun x =>
      { x with decided := some bit, defer := if bit || votesOff s p then x.defer else min (x.defer + 1) 0xFFFF }
  else sendVote s r (eOut e) false bit

/-- A GO entry (R187, R188, R199, R201): passes the go on, to the edge engine too, and latches it at an endpoint. -/
def fireGo (s : State) (r : Nat) (p : Part) (e : BitVec 64) (parity : Bool) : State :=
  let n := eStream e
  let ep := (s.router r).ep n
  if votesOff s p then s
  else if parity && eInA e < 4 then haltStream (s.countReg .gridErr 32 16 1) r n 5
  else
    let go := if eInA e = 6 then ep.decided.getD false else voteIn s r (eInA e) true
    let s := if eOut e < 4 then sendVote s r (eOut e) true go else s
    let s := if go && edgePort r (eOut e) then
        { s with grid := { s.grid with edgeGos := s.grid.edgeGos ++ [⟨r, n, s.grid.now + 2⟩] } }
      else s
    if go && ((s.router r).desc n).isSome && ep.halt = 0 && !resetHalts s ep && !s.faults.inFrost then s.modEp r n fun x => { x with go := true }
    else s

/-! ### Data (R179, R181, R184, R188 to R192) -/

/-- An invalid beat. -/
def Beat.none : Beat := ⟨false, 0, 0, 0, false, false⟩

/-- 384 bytes as a beat's data. -/
def beatOf (bs : List Byte) : BitVec 3072 := BitVec.ofNat 3072 (ofBytes bs)

/-- A source has launched the last beat of its instance. -/
def sourceDone (d : BitVec 256) (ep : Endpoint) : Bool := ep.beatsSent.length = sdBeats d

/-- The number of the instance that a source is sending. -/
def sourceInst (d : BitVec 256) (ep : Endpoint) : BitVec 32 := if sourceDone d ep then ep.sent - 1 else ep.sent

/-- The last beat of an instance has been read at its source (R189): sent rises, and SENT_SC in the next cycle. -/
def countSent (s : State) (r n : Nat) (d : BitVec 256) : State :=
  let s := s.modEp r n fun e => { e with sent := e.sent + 1 }
  if sdSentSc d = 63 then s else sendDue s ⟨r, sdSentSc d, 1, ⟨s.dev, 0, streamCtx n, r, 0⟩⟩

/-- A beat leaves a source L or H, under its number; after the last the instance counts. -/
def launched (s : State) (r n : Nat) (d : BitVec 256) (mark : Nat) : State :=
  let ep := (s.router r).ep n
  if ep.beatsSent.contains mark then s
  else
    let ep := { ep with beatsSent := ep.beatsSent ++ [mark] }
    if ep.beatsSent.length = sdBeats d then
      countSent (s.modEp r n fun _ => ep) r n d
    else s.modEp r n fun _ => ep

/-- Where a beat of an instance lies in the buffers of a source L (R184). -/
def sourceOff (d : BitVec 256) (inst : BitVec 32) (beat : Nat) : Nat :=
  sdSrcBase d + inst.toNat % sdSrcBufs d * (sdBeats d * 384) + beat * 384

/-- A beat of the core store read (R180, R184): its bytes, and whether they could be corrected. -/
def readBeat (s : State) (r off : Nat) : List Byte × Bool × State :=
  match storeRead s r off 384 with
  | (some bs, t) => (bs, true, t)
  | (none, t) => (s.memBytes (storeAddr r off) 384, false, t)

/-- The beat of a source L at its entry (R180, R184, R201): as the read that began three cycles before found it; an uncorrectable word halts
the stream with SRCERR and marks the beat. -/
def readStoreBeat (s : State) (r n : Nat) (d : BitVec 256) (e : BitVec 64) : Beat × State :=
  let ep := (s.router r).ep n
  let (bs, good, t) := match s.grid.reads.find? fun x => x.router = r && x.stream = n && x.beat = eBeat e && x.due = s.grid.now with
    | some x => (x.bytes, x.good, s)
    | none => readBeat s r (sourceOff d (sourceInst d ep) (eBeat e))
  let t := launched t r n d (eBeat e)
  (⟨true, eTag e, beatOf bs, 0, !good, false⟩, if good then t else haltStream t r n 6)

/-- A beat read from a hand-off partition: the rows leave it (R185). -/
def readHandoff (s : State) (r n : Nat) (d : BitVec 256) (e : BitVec 64) : Beat × State :=
  let x := s.router r
  let q := SMap.getD x.hoff (sdPort d) []
  let at_ := 2 * (eBeat e - ((x.ep n).beatsSent.filter fun b => decide (b < eBeat e)).length)
  let row (i : Nat) : Nat := (q.getD i 0).toNat
  let s := s.setRouter r { x with hoff := SMap.set x.hoff (sdPort d) (q.take at_ ++ q.drop (at_ + 2)) [] }
  (⟨true, eTag e, BitVec.ofNat 3072 (row at_ + row (at_ + 1) * 2 ^ 1536), 0, false, false⟩, launched s r n d (eBeat e))

/-- The wait of an entry's input from a neighbour (R180, R181): its link, the turn, the join. -/
def inputDelay (r : Nat) (e : BitVec 64) (port : Nat) : Nat :=
  linkDelay r port + (if eOut e ≠ 4 && eInA e < 4 && eOut e ≠ oppositePort (eInA e) then 1 else 0) + (if eOp e = 1 then 2 else 0)

/-- A beat taken from a neighbour's port: a single-bit error corrected and counted (R201), the tag checked (R181). -/
def readPort (s : State) (r n : Nat) (e : BitVec 64) (port : Nat) : Beat × State :=
  let here (m : BeatMsg) : Bool := m.router = r && m.port = port && m.launched + inputDelay r e port = s.grid.now
  match s.grid.beats.find? here with
  | none => (Beat.none, s)
  | some m =>
    let s := { s with grid := { s.grid with beats := s.grid.beats.map fun y => if here y then { y with taken := true } else y } }
    let s := if m.beat.corr && !m.taken then s.countReg .gridErr 0 16 1 else s
    if m.beat.tag = eTag e then ({ m.beat with corr := false }, s) else (Beat.none, haltStream s r n 3)

/-- One input of a data entry. A source sends only in the round after a go (R188). -/
def dataInput (s : State) (r : Nat) (e : BitVec 64) (port : Nat) : Beat × State :=
  let n := eStream e
  let x := s.router r
  let sends (kind : Nat) : Option (BitVec 256) :=
    match x.desc n with
    | some d => if sdSource d && sdSrcKind d = kind && (x.ep n).sending && !blocks (x.ep n) then some d else none
    | none => none
  if port = 4 then
    match sends 4 with
    | some d => readStoreBeat s r n d e
    | none => (Beat.none, s)
  else if port = 5 then
    match sends 5 with
    | some d => readHandoff s r n d e
    | none => (Beat.none, s)
  else readPort s r n e port

/-- The sum of two beats as 96 FP32 values, with the flags of both and of the addition (R191, R192). -/
def joinBeats (a b : Beat) : Beat :=
  let rs := List.zipWith Fmt.fp32.addBits (unpackNat 32 96 a.data.toNat) (unpackNat 32 96 b.data.toNat)
  { a with
    data := BitVec.ofNat 3072 (packNat 32 (rs.map (·.1)))
    flags := a.flags ||| b.flags ||| rs.foldl (fun f r => f ||| r.2) 0
    uncorr := a.uncorr || b.uncorr }

/-- A beat has been written at a target (R189, R201): an uncorrectable one halts the stream and is an error of class ECC (R403), the rest of its instance being written; after the
last of a good instance arrived rises, and ARR_SC in the next cycle. -/
def landed (s : State) (r n : Nat) (d : BitVec 256) (uncorr : Bool) : State :=
  let s := if uncorr then haltStream (raiseEcc (s.countReg .gridErr 16 16 1) (Rec.of s 5 6 3 2 r)) r n 2 else s
  let ep := (s.router r).ep n
  let ep := { ep with beatsIn := ep.beatsIn + 1, uncorr := ep.uncorr || uncorr }
  if ep.beatsIn < sdBeats d then s.modEp r n fun _ => ep
  else if ep.uncorr then s.modEp r n fun _ => { ep with beatsIn := 0, uncorr := false }
  else
    let s := s.modEp r n fun _ => { ep with beatsIn := 0, arrived := ep.arrived + 1 }
    if sdArrSc d = 63 then s else sendDue s ⟨r, sdArrSc d, 1, ⟨s.dev, 0, streamCtx n, r, 0⟩⟩

/-- The edge engine counts a beat that it has taken into staging, as the target's router does. -/
def edgeLanded (s : State) (e n beats : Nat) (uncorr : Bool) : State :=
  s.modXs e n fun x =>
    let bad := x.uncorr || uncorr
    if x.beatsIn + 1 < beats then { x with beatsIn := x.beatsIn + 1, uncorr := bad }
    else { x with beatsIn := 0, uncorr := false, arrived := if bad then x.arrived else x.arrived + 1 }

/-- A target takes a beat: its stream is not halted, but by an uncorrectable beat of the same instance. -/
def takesBeat (ep : Endpoint) : Bool := !blocks ep && (ep.halt ≠ 2 || ep.uncorr)

/-- A beat reaches the core store or the staging memory (R180, R184, R189, R191, R199). -/
def writeBeat (s : State) (w : BeatWrite) : State :=
  let r := w.router
  let n := w.stream
  match (s.router r).desc n with
  | none => s
  | some d =>
    let ep := (s.router r).ep n
    if !takesBeat ep then s
    else if w.edge then
      let g := routerEngine r
      let x := s.xs g (sdXid d)
      let s := s.setSlot (xsSlot s g (sdXid d) x.arrived x.beatsIn) ⟨w.beat.data, w.beat.uncorr⟩
      landed (edgeLanded (addEdgeFlags s g w.beat.flags) g (sdXid d) (sdBeats d) w.beat.uncorr) r n d w.beat.uncorr
    else
      let off := sdTgtBase d + ep.arrived.toNat % sdTgtBufs d * (sdBeats d * 384) + w.place * 384
      let s := storeWrite s r off (toBytes 384 w.beat.data.toNat)
      landed (addCtxFlags s ⟨r, streamCtx n⟩ true w.beat.flags) r n d w.beat.uncorr

/-- A valid beat sent to a target L or X of this router: it is there two cycles later (R180). -/
def writeTarget (s : State) (r : Nat) (e : BitVec 64) (edge : Bool) (b : Beat) : State :=
  match (s.router r).desc (eStream e) with
  | none => s
  | some d =>
    if !sdTarget d || sdTgtKind d ≠ (if edge then 6 else 4) then s
    else { s with grid := { s.grid with
      writes := s.grid.writes ++ [⟨r, eStream e, edge, eBeat e, s.grid.now + 2, b⟩] } }

/-- What a data entry makes of its inputs: a pass, or a join, which halts where exactly one operand is valid (R192). Two inputs H name the
same rows, which leave once (R185). -/
def combine (s : State) (r : Nat) (e : BitVec 64) : Beat × State :=
  let n := eStream e
  let (a, s) := dataInput s r e (eInA e)
  if eOp e = 1 then
    let (b, s) := if eInA e = 5 && eInB e = 5 then (a, s) else dataInput s r e (eInB e)
    if a.valid && b.valid then (joinBeats a b, s)
    else if a.valid || b.valid then (Beat.none, haltStream s r n 4)
    else (Beat.none, s)
  else (a, s)

/-- A data-plane entry (R179, R190 to R192). `wire` is what becomes of the beat it sends on its way to the next router or to the edge
engine (R201). -/
def fireData (s : State) (r : Nat) (e : BitVec 64) (wire : Fec) : State :=
  let (b, s) := combine s r e
  if !b.valid || blocks ((s.router r).ep (eStream e)) then s
  else
    let b := { b with tag := eTag e }
    if eOut e = 4 then writeTarget s r e false b
    else
    let b := { b with uncorr := b.uncorr || wire = .uncorrectable, corr := wire = .corrected }
    if edgePort r (eOut e) then writeTarget s r e true b
    else
      match neighbour r (eOut e) with
      | some q =>
        { s with grid := { s.grid with
          beats := s.grid.beats ++ [⟨q, oppositePort (eOut e), s.grid.now, b, false⟩] } }
      | none => s

/-- An entry of a running part at this cycle, not yet carried out in it. [DESIGN CHOICE: log entry 96] -/
def dueEntry (s : State) (r n : Nat) : Option (Part × BitVec 64) :=
  match (s.router r).entry n with
  | some (c, e) =>
    let p := (s.router r).part c
    if s.live && s.grid.running && decide (r < coreCount) && p.live && eCycle e = s.grid.cycle && !s.grid.fired.contains (r, n)
    then some (p, e) else none
  | none => none

/-- The entry is noted as carried out. -/
def noteFired (s : State) (r n : Nat) : State := { s with grid := { s.grid with fired := (r, n) :: s.grid.fired } }

/-- VOTE_AND_ENTRY (R187). -/
def execVoteAndEntry (r n : Nat) (parity : BitVec 3) (s : State) : Out :=
  match dueEntry s r n with
  | some (p, e) => stepIf (ePlane e = 1 && eOp e = 0) s (useStored (.slotTable r) s (fireAnd (noteFired s r n) r p e parity))
  | none => .next s

/-- VOTE_GO_ENTRY (R187). -/
def execVoteGoEntry (r n : Nat) (parity : Bool) (s : State) : Out :=
  match dueEntry s r n with
  | some (p, e) => stepIf (ePlane e = 1 && eOp e = 1) s (useStored (.slotTable r) s (fireGo (noteFired s r n) r p e parity))
  | none => .next s

/-- DATA_SLOT_ENTRY (R179). -/
def execDataSlotEntry (r : Nat) (x : SlotEntry) (s : State) : Out :=
  match dueEntry s r x.place with
  | some (_, e) => stepIf (ePlane e = 0) s (useStored (.slotTable r) s (fireData (noteFired s r x.place) r e x.wire))
  | none => .next s

/-! ### Rounds (R178, R188, R198) -/

/-- A stream at the start of a round: a latched go commits, and its instance is sent in this round (R188). -/
def epRound (e : Endpoint) : Endpoint :=
  { e with
    committed := if e.go then e.committed + 1 else e.committed
    sending := e.go
    go := false
    decided := none
    beatsSent := [] }

/-- The endpoint of an edge engine at the start of a round, in the same way. -/
def EdgeStream.roundStart (x : EdgeStream) : EdgeStream :=
  { x with committed := x.next, sending := x.go, go := false, beatsSent := [] }

/-- A part's streams as it leaves or enters the table: all their state is gone but DEFER, which a read alone clears (R202). -/
def freshStreams (x : Router) (c : Ctx) : SMap Endpoint :=
  (x.streams.map fun e => if streamCtx e.1 = c then (e.1, { Endpoint.reset with defer := e.2.defer }) else e).filter fun e =>
    e.2 ≠ Endpoint.reset

/-- A LOADED part becomes ACTIVE where the start is due (R198). -/
def partRound (x : Router) (start : Bool) (c : Ctx) : Router :=
  if (x.part c).state = .loaded && start then
    { x.setPart c { x.part c with state := .active } with streams := freshStreams x c }
  else x

/-- A router at the start of a round. -/
def routerRound (x : Router) (start : Bool) : Router :=
  let x := { x with streams := x.streams.map fun e => (e.1, epRound e.2) }
  partRound (partRound x start .F) start .B

/-- The endpoints of an edge engine whose streams belong to parts that have just become ACTIVE count from 0 (R198, R221). -/
def freshEdges (old new : SMap Router) (s : State) : State :=
  new.foldl
    (fun s p =>
      let before := SMap.getD old p.1 Router.reset
      [Ctx.F, Ctx.B].foldl
        (fun s c =>
          if (before.part c).state = .loaded && (p.2.part c).state = .active then
            (p.2.part c).descs.foldl
              (fun s d =>
                if (sdSource d.2 && sdSrcKind d.2 = 6) || (sdTarget d.2 && sdTgtKind d.2 = 6) then
                  s.modXs (routerEngine p.1) (sdXid d.2) fun x => { EdgeStream.reset with count := x.count }
                else s) s
          else s) s) s

/-- A part that was told to stop in an earlier round than the last one has carried out what it had latched (R198), once its last beats are
written too. -/
def emptyPart (s : State) (r : Nat) (c : Ctx) : State :=
  let p := (s.router r).part c
  if p.state = .stopping && decide (p.stopRound + 2 ≤ s.grid.round)
      && !(s.grid.writes.any fun w => w.router = r && streamCtx w.stream = c) then
    s.modRouter r fun x => { x.setPart c Part.reset with streams := freshStreams x c }
  else s

/-- The parts that have stopped. -/
def emptyParts (s : State) : State :=
  (s.routers.map (·.1)).foldl (fun s r => emptyPart (emptyPart s r .F) r .B) s

/-- The halts of resets that are due: after the round of the reset, and of the instance whose go was latched in it (R201). -/
def dueHalts (s : State) : State :=
  s.routers.foldl
    (fun s x => x.2.streams.foldl (fun s e => if resetHalts s e.2 && !e.2.sending then haltStream s x.1 e.1 1 else s) s) s

/-- The start of a round: the counts, GRID_START, the round length, GRID_START.PENDING (R178, R198). -/
def roundStart (s : State) : State :=
  let round := s.grid.round + 1
  let start := s.grid.startPending && decide (s.regFld .gridStart 0 48 ≤ round)
  let old := s.routers
  let s := { s with
    routers := old.map fun x => (x.1, routerRound x.2 start)
    streams := (s.streams.map fun x => (x.1, x.2.roundStart)).filter fun x => x.2 ≠ EdgeStream.reset
    grid := { s.grid with
      round := round
      cycle := 0
      len := s.regFld .gridCtl 0 11
      startPending := s.grid.startPending && !start } }
  dueHalts (freshEdges old s.routers s)

/-- The entries of a router's running parts. -/
def liveEntries (x : Router) : List (BitVec 64) :=
  (if x.f.live then x.f.entries else []) ++ (if x.b.live then x.b.entries else [])

/-- An entry whose cycle is d cycles from now. -/
def cycleIn (s : State) (e : BitVec 64) (d : Nat) : Bool := eCycle e = (s.grid.cycle + d) % s.grid.len

/-- The readiness sampled at the start of this cycle (R187): for the AND entries of the cycle that of their router, for those two cycles on
that which the edge engine sends (R180). -/
def sampleReady (s : State) : State :=
  let both := s.routers.flatMap fun x =>
    ((liveEntries x.2).filter fun e => ePlane e = 1 && eOp e = 0).flatMap fun e =>
      let n := eStream e
      (if eLocal e && cycleIn s e 0 then [(⟨x.1, n, false, s.grid.now, localReady s x.1 n⟩ : ReadySample)] else [])
        ++ (if ([eInA e, eInB e, eInC e].any (edgePort x.1)) && cycleIn s e 2 then
              [⟨x.1, n, true, s.grid.now + 2, edgeReady s x.1 n⟩] else [])
  { s with grid := { s.grid with samples := (s.grid.samples.filter fun x => decide (s.grid.now ≤ x.due)) ++ both } }

/-- A core-store read begins for an entry three cycles on (R180), where its source sends in that cycle. In the last cycles of a round the
entry is of the next: its go is the one latched in this. -/
def beginRead (r : Nat) (s : State) (e : BitVec 64) : State :=
  let n := eStream e
  let x := s.router r
  let ep := x.ep n
  let wraps := decide (s.grid.len ≤ s.grid.cycle + 3)
  let due := s.grid.now + 3
  match x.desc n with
  | none => s
  | some d =>
    let inst := if !wraps then sourceInst d ep
      else if ep.sending && !sourceDone d ep then ep.sent + 1 else ep.sent
    if ePlane e = 0 && (eInA e = 4) && cycleIn s e 3 && sdSource d && sdSrcKind d = 4 && (if wraps then ep.go else ep.sending)
        && !blocks ep && !(s.grid.reads.any fun y => y.router = r && y.stream = n && y.beat = eBeat e && y.due = due) then
      let (bs, good, t) := readBeat s r (sourceOff d inst (eBeat e))
      { t with grid := { t.grid with reads := t.grid.reads ++ [⟨r, n, eBeat e, due, bs, good⟩] } }
    else s

/-- The reads that begin in this cycle. -/
def beginReads (s : State) : State :=
  let s := { s with grid := { s.grid with reads := s.grid.reads.filter fun x => decide (s.grid.now ≤ x.due) } }
  s.routers.foldl (fun s x => (liveEntries x.2).foldl (beginRead x.1) s) s

/-- A beat leaves the staging memory for an entry that takes it when its wait has passed (R180, R181, R199): the beats of an instance go in
the order of their cycles. After the last the instance counts, in the engine and at the router (R189). [DEDUCED: log entry 16] -/
def sendEdge (r : Nat) (s : State) (e : BitVec 64) : State :=
  let n := eStream e
  let g := routerEngine r
  let port (p : Nat) : Bool := edgePort r p && cycleIn s e (inputDelay r e p)
  let ports := ([eInA e] ++ (if eOp e = 1 then [eInB e] else [])).filter port
  match (s.router r).desc n, ports with
  | some d, p :: _ =>
    let x := s.xs g (sdXid d)
    if ePlane e = 0 && sdSource d && sdSrcKind d = 6 && x.sending && !x.beatsSent.contains s.grid.cycle
        && decide (x.beatsSent.length < sdBeats d) then
      let slot := s.slot (xsSlot s g (sdXid d) x.sent x.beatsSent.length)
      let last := decide (x.beatsSent.length + 1 = sdBeats d)
      let s := s.modXs g (sdXid d) fun x =>
        { x with beatsSent := x.beatsSent ++ [s.grid.cycle], sent := if last then x.sent + 1 else x.sent }
      let s := { s with grid := { s.grid with
        beats := s.grid.beats ++ [⟨r, p, s.grid.now, ⟨true, eTag e, slot.data, 0, slot.uncorr, false⟩, false⟩] } }
      if last then countSent s r n d else s
    else s
  | _, _ => s

/-- The beats that leave the edge engines in this cycle. -/
def sendEdges (s : State) : State :=
  s.routers.foldl (fun s x => (liveEntries x.2).foldl (sendEdge x.1) s) s

/-- The writes that complete in this cycle. -/
def endWrites (s : State) : State :=
  let now := s.grid.writes.filter fun w => decide (w.due ≤ s.grid.now)
  now.foldl writeBeat { s with grid := { s.grid with writes := s.grid.writes.filter fun w => !decide (w.due ≤ s.grid.now) } }

/-- The gos that reach edge engines in this cycle are latched there (R199), but not in frost (R201). -/
def latchEdges (s : State) : State :=
  let now := s.grid.edgeGos.filter fun g => decide (g.due ≤ s.grid.now)
  now.foldl
    (fun s g => match (s.router g.router).desc g.stream with
      | some d =>
        if ((sdSource d && sdSrcKind d = 6) || (sdTarget d && sdTgtKind d = 6)) && !s.faults.inFrost
            && ((s.router g.router).ep g.stream).halt = 0 then
          s.modXs (routerEngine g.router) (sdXid d) fun x => { x with go := true }
        else s
      | none => s)
    { s with grid := { s.grid with edgeGos := s.grid.edgeGos.filter fun g => !decide (g.due ≤ s.grid.now) } }

/-- A valid beat that no entry has taken can be taken no longer: it is discarded and counts in ORPHAN (R179). -/
def sweepWires (s : State) : State :=
  let lost (m : BeatMsg) : Bool := decide (m.launched + linkDelay m.router m.port + 3 < s.grid.now)
  let orphan := s.grid.beats.any fun m => lost m && !m.taken && m.beat.valid
  let s := { s with grid := { s.grid with
    beats := s.grid.beats.filter fun m => !lost m
    votes := s.grid.votes.filter fun m => decide (s.grid.now ≤ m.launched + 4) } }
  if orphan then s.setBit .gridStatus 1 else s

/-- The entries of a router still due in this cycle are carried out: votes, then data. -/
def fireRest (s : State) (r : Nat) : State :=
  let n := (s.router r).f.entries.length + (s.router r).b.entries.length
  (List.range n).foldl
    (fun s i => match dueEntry s r i with
      | some (p, e) =>
        let t := noteFired s r i
        useStored (.slotTable r) s <|
        if ePlane e = 0 then fireData t r e .clean else if eOp e = 0 then fireAnd t r p e 0 else fireGo t r p e false
      | none => s) s

/-- The start of a cycle of the fabric: what arrives in it, what is sampled, what begins. -/
def cycleStart (s : State) : State := sendEdges (beginReads (sampleReady (emptyParts (latchEdges (endWrites s)))))

/-- One cycle of the fabric (R178): what is due in it, then the next cycle or round; increments due land in the new cycle, which samples its
readiness before them (R187). -/
def gridTick (s : State) : State :=
  if s.grid.running then
    let s := (s.routers.map (·.1)).foldl fireRest s
    let s := { s with grid := { s.grid with now := s.grid.now + 1, fired := [], cleared := [], landed := [] } }
    let s := sweepWires s
    let s := if s.grid.len ≤ s.grid.cycle + 1 then roundStart s
      else { s with grid := { s.grid with cycle := s.grid.cycle + 1 } }
    landDue (cycleStart s)
  else landDue { s with grid := { s.grid with now := s.grid.now + 1, cleared := [], landed := [] } }

/-! ### GRID registers (R198, R202) -/

/-- GRID_START (R198, R202, R415). -/
def execGridStart (who : Half) (v : Word) (s : State) : Out :=
  writeReg who .gridStart true v s fun s =>
    if s.faults.inFrost then s.setBit .gridStatus 0
    else
      let s := s.setReg .gridStart (Word.put 0 0 48 (Word.fld v 0 48))
      { s with grid := { s.grid with startPending := true } }

/-- A part is told to stop (R198). -/
def stopPart (s : State) (r : Nat) (c : Ctx) : State :=
  s.modRouter r fun x =>
    let p := x.part c
    match p.state with
    | .active => x.setPart c { p with state := .stopping, stopRound := s.grid.round }
    | .loaded => x.setPart c Part.reset
    | _ => x

/-- A write of 1 to F_STOP. -/
def execFStop (who : Half) (r : Nat) (s : State) : Out :=
  writeReg who (.gridRtrPart r) (r < coreCount) 0x100 s fun s => stopPart s r .F

/-- A write of 1 to B_STOP. -/
def execBStop (who : Half) (r : Nat) (s : State) : Out :=
  writeReg who (.gridRtrPart r) (r < coreCount) 0x200 s fun s => stopPart s r .B

/-- GRID_CTL (R178, R202): accepted from 64 to 1,024 while every part is EMPTY. -/
def execGridCtl (who : Half) (v : Word) (s : State) : Out :=
  writeReg who .gridCtl true v s fun s =>
    if 64 ≤ Word.fld v 0 11 ∧ Word.fld v 0 11 ≤ 1024 ∧ (s.routers.all fun x => x.2.f.state = .empty && x.2.b.state = .empty)
    then s.setReg .gridCtl (Word.put 0 0 11 (Word.fld v 0 11))
    else s.setBit .gridStatus 0

end Sys2Proof.Machine
end

