-- ==== Sys2Proof/Machine/Context.lean ====
section
/-! DEFINITION. The contexts of a core as they are enabled, switched, halted, reset, ended and faulted (R66 to R78, R153,
R438). -/

namespace Sys2Proof.Machine

open Sys2Proof

/-! ### end and ev.wait -/

/-- end (R153): issue stops; the context becomes DISABLED once its earlier instructions and releases have finished. -/
def execEndCtx (k : CtxAt) (s : State) : Out :=
  issue k (encR 0x0D 0 0 0 0 0 0) s fun t =>
    finishEnd (t.modCtx k fun c => { c with hold := .ending, pc := pcAdd c.pc 1 }) k

/-- ev.wait (R68): waits for F's pipes; then takes the oldest pending event, or F enters EVWAIT and the core goes to B. -/
def execEvWait (k : CtxAt) (d : BitVec 5) (s : State) : Out :=
  issue k (encR 0x0E 0 d 0 0 0 0) s fun t =>
    let x := t.core k.core
    if !(t.ctx k).queue.isEmpty then t
    else
      match x.events with
      | e :: es => writeS (t.setCore k.core { x with events := es }) k d (BitVec.ofNat 64 e)
      | [] =>
        let f := { (t.ctx k).clearWork with state := .evwait, pc := pcAdd (t.ctx k).pc 1 }
        switchOut (t.setCore k.core { x with f := f, fDst := d }) k.core

/-! ### Faults and line events -/

/-- CONTEXT_ENTERS_FAULTED (R66, R139): once the instructions before the fault have completed. -/
def execContextEntersFaulted (k : CtxAt) (s : State) : Out :=
  let c := s.ctx k
  match c.hold with
  | .faulting pc =>
    stepIf (s.live && decide (k.core < coreCount) && c.state = .running && c.queue.isEmpty && (s.core k.core).active = k.ctx
      && (s.core k.core).switch = .idle) s (leave (s.modCtx k fun c => { c with pc := pc }) k .faulted)
  | _ => .next s

/-- The event is on its way to the core, and is the first of those that have not reached it. -/
def onItsWay (s : State) (core ev : Nat) : Bool :=
  match s.time.out.find? fun p => !p.2.contains core with
  | some p => p.1 = ev
  | none => false

/-- The event has reached the core; one that has reached all 768 is done. -/
def reached (core : Nat) : List (Nat × List Nat) → List (Nat × List Nat)
  | [] => []
  | p :: ps =>
    if p.2.contains core then p :: reached core ps
    else if p.2.length + 1 = coreCount then ps
    else (p.1, core :: p.2) :: ps

/-- An enabled event at a core (R69, R70, R74): a switch-in where F is in EVWAIT, else the pending queue of 4, else
OVERRUN. A DISABLED or FAULTED F ignores it (R153; for FAULTED, log entry 100). [DESIGN CHOICE: log entry 100] -/
def takeEvent (s : State) (core ev : Nat) : State :=
  let x := s.core core
  match x.f.state with
  | .evwait => switchIn s core (some ev)
  | .running =>
    if x.events.length < 4 then s.setCore core { x with events := x.events ++ [ev] }
    else (s.setBit (.coreFPend core) 8).countReg (.coreFPend core) 16 16 1
  | _ => s

/-- LINE_EVENT_DELIVERY (R69): events not enabled are ignored; in frost none reaches a core (R414). -/
def execLineEventDelivery (core ev : Nat) (s : State) : Out :=
  stepIf (s.working && decide (core < coreCount) && onItsWay s core ev) s
    (let s := { s with time := { s.time with out := reached core s.time.out } }
     if s.regBit (.coreFEvent core) ev then takeEvent s core ev else s)

/-- The events of a grid cycle reach every core in that cycle, in the order in which they go out (R20, R347); in frost none does. -/
def deliverEvents (s : State) : State :=
  let out := s.time.out
  if out.isEmpty then s
  else
    let s := { s with time := { s.time with out := [] } }
    if s.working then
      out.foldl (fun s p => (List.range coreCount).foldl
        (fun s c => if p.2.contains c || !s.regBit (.coreFEvent c) p.1 then s else takeEvent s c p.1) s) s
    else s

/-! ### The save and the restore -/

/-- B after its save (R70, R139, R406, R438): FROZEN, or FAULTED where it was on its way there, a NaN trap of an earlier instruction
stood while it waits in sc.wait, or a region had bad parity. A sc.wait goes on. -/
def savedB (s : State) (core : Nat) : State :=
  let x := s.core core
  if x.b.state = .running then
    let bad := saveParity x
    let s := saveB s core
    let s := if bad then
        raiseEcc s { ctxRec s ⟨core, .B⟩ 5 3 x.b.pc with addr := 0 }
      else s
    let trapped := match x.b.hold with
      | .faulting _ => true
      | .scWait w => w.trapped
      | _ => false
    let pc := match x.b.hold with
      | .faulting pc => pc
      | _ => x.b.pc
    s.modCore core fun x =>
      { x with
        b := if bad || trapped then { x.b with pc := pc }.fault else { x.b with state := .frozen }
        saved := true
        imageTiles := (liveTiles x).map fun t => (t, tileBlock x t)
        imageAccs := liveAccs x
        relatch := x.b.latch.isSome }
  else s

/-- SAVE_COMPLETE (R70, R438): then F issues, or the core goes back where F has left meanwhile. [DEDUCED: log entry 95] -/
def execSaveComplete (core : Nat) (s : State) : Out :=
  stepIf (s.working && decide (core < coreCount) && (s.core core).switch = .saving) s
    (let s := (savedB s core).modCore core fun x => { x with switch := .idle, stopped := [] }
     if (s.core core).f.state = .running then startF s core
     else switchOut (s.modCore core fun x => { x with f := x.f.clearWork }) core)

/-- RESTORE_COMPLETE (R73, R406): B's regions are restored, its weights latched again, and B issues; an uncorrectable word
of the image faults B and leaves the image. -/
def execRestoreComplete (core : Nat) (s : State) : Out :=
  stepIf (s.working && decide (core < coreCount) && (s.core core).switch = .restoring) s
    (match restoreB s core with
      | (false, s) =>
        let s := raiseEcc s { ctxRec s ⟨core, .B⟩ 5 1 (s.core core).b.pc with addr := badImageWord s core }
        s.modCore core fun x => { x with b := x.b.fault, switch := .idle }
      | (true, s) =>
        s.modCore core fun x =>
          let latch := if x.relatch then x.b.latch.map (Machine.relatch x) else x.b.latch
          { x with
            b := { x.b with state := .running, latch := latch, shadow := x.b.shadow.map (Machine.relatch x) }
            saved := false
            relatch := false
            switch := .idle })

/-! ### Enable, halt, reset (R67, R77, R78) -/

/-- A self-test of a field is running (R379). -/
def fieldTesting (s : State) (f : Nat) : Bool := s.svc.tests.contains (f, true)

/-- A program starts where every context was DISABLED; the spec does not say how the device learns the PROGRAM_ID of its image (R172),
so that takes a free value. [DESIGN CHOICE: log entry 50] -/
def startProgram (s : State) : State :=
  if s.cores.all fun x => x.2.f.state = .disabled && x.2.b.state = .disabled then
    { s with programId := Config.freeBits 64 s.free, free := s.free + 1 }
  else s

/-- A context starts at its entry, or resumes from FAULTED at its pc (R67, R78), a twl whose rows were all latched loading again
(R84). A sc.wait that still goes on holds it. Registers never written become free values when it is first enabled (R42). -/
def startContext (s : State) (k : CtxAt) : State :=
  let c := s.ctx k
  let (s, c) := if c.fresh then undefineRegs s c else (s, c)
  let pc := if c.state = .disabled then s.regFld (.ctxEntry k.core k.ctx) 0 13 else c.pc
  let hold := match c.hold with
    | .scWait w => Hold.scWait { w with trapped := false }
    | _ => .none
  s.setCtx k
    { c with state := .running, pc := pc, hold := hold, shadow := c.shadow.map (relatch (s.core k.core)), fresh := false }

/-- The enable of a context (R67, R78, R438): one that is neither DISABLED nor FAULTED is not affected; in frost an enable is ignored
with WIGN (R415). -/
def enableContext (s : State) (k : CtxAt) : State :=
  let c := s.ctx k
  if c.state = .disabled || c.state = .faulted then
    if s.faults.inFrost then s.setBit (.coreStatus k.core) 8
    else
      let s := startContext (startProgram s) k
      match k.ctx with
      | .F => switchIn s k.core none
      | .B => s.modCore k.core fun x =>
        if x.saved && x.active = .B && x.switch = .idle then { x with switch := .restoring } else x
  else s

/-- CORE_CTL writes are ignored with WIGN while the core's field is tested (R379). -/
def writeCoreCtl (who : Half) (core : Nat) (v : Word) (s : State) (effect : State → State) : Out :=
  writeReg who (.coreCtl core) (core < coreCount) v s fun s =>
    if fieldTesting s (coreField core) then s.setBit (.coreStatus core) 8 else effect s

/-- The bit of a context in CORE_CTL's enables. -/
def enableBit : Ctx → Word
  | .F => 2
  | .B => 1

/-- CONTEXT_ENABLE (R67, R78). -/
def execContextEnable (who : Half) (k : CtxAt) (s : State) : Out :=
  writeCoreCtl who k.core (enableBit k.ctx) s fun s => enableContext s k

/-- A context's work is gone: its queue, TSTART, in-use bits and weights. -/
def Context.noWork (c : Context) : Context := { c.clearWork with queue := [], tstart := 0, releases := [] }

/-- A context that is halted or reset becomes DISABLED: B gives up its save image, and a switch under way goes on without
it; F leaves by R438. -/
def disableContext (s : State) (k : CtxAt) : State :=
  match k.ctx with
  | .F => leaveF s k.core .disabled
  | .B => s.modCore k.core fun x =>
    { x with
      b := { x.b with state := .disabled, hold := .none }
      saved := false
      relatch := false
      switch := match x.switch with
        | .stopping => .saving
        | .restoring => .idle
        | sw => sw }

/-- The halt of a context (R78, R59): begun row groups finish, releases whose turn has come take effect, the rest is
discarded. [DESIGN CHOICE: log entry 90] -/
def haltContext (s : State) (k : CtxAt) : State :=
  if (s.ctx k).state = .disabled then s
  else
    let s := takeReleases k 4 (stopAll s k)
    disableContext (s.modCtx k Context.noWork) k

/-- CONTEXT_HALT (R78). -/
def execContextHalt (who : Half) (k : CtxAt) (s : State) : Out :=
  writeCoreCtl who k.core 0 s (byClass (haltContext · k))

/-- The rings that a context owns (R204). -/
def ownedRings (s : State) (k : CtxAt) : List Nat := (List.range ringCount).filter fun r => ringOwner s r = k

/-- The counters that a context owns (R204). -/
def ownedCounters : Ctx → List Nat
  | .F => List.range 8
  | .B => (List.range 40).map fun i => 8 + i

/-- The streams of a context at its router halt at the end of the round (R201). -/
def haltStreams (s : State) (k : CtxAt) : State :=
  s.modRouter k.core fun x =>
    (List.range 32).foldl
      (fun x n => if streamCtx n = k.ctx && (x.desc n).isSome then x.setEp n { x.ep n with haltDue := true, haltRound := s.grid.round } else x) x

/-- The reset of a context (R77, R148, R201, R211, R251). Its own wait on a counter that it owns ends by the poison as any other. F's queue of
pending events stays (log entry 100). [DESIGN CHOICE: log entry 100] -/
def resetContext (s : State) (k : CtxAt) : State :=
  let s := (ownedCounters k.ctx).foldl (poisonCounter k.core) (stopAll s k)
  let s := (ownedRings s k).foldl resetRing s
  let s := s.modCtx k fun c => { c.noWork with fc := .reset }
  let s := disableContext s k
  let (s, c) := undefineRegs s (s.ctx k)
  haltStreams (s.setCtx k c) k

/-- F_RESET (R77). -/
def execFReset (who : Half) (core : Nat) (s : State) : Out :=
  writeCoreCtl who core 0x20 s (byClass (resetContext · ⟨core, .F⟩))

/-- B_RESET (R77). -/
def execBReset (who : Half) (core : Nat) (s : State) : Out :=
  writeCoreCtl who core 0x10 s (byClass (resetContext · ⟨core, .B⟩))

end Sys2Proof.Machine
end

