-- ==== Sys2Proof/Machine/EdgeConv.lean ====
section
/-! DEFINITION. The rows of a descriptor and the conversions of the edge load and store paths (R50, R116, R122, R123, R128, R129,
R228). -/

namespace Sys2Proof.Machine

open Sys2Proof

/-! ### Rows (R228) -/

/-- A format code that a descriptor may name: those of R49, 12 for packed mask, 14 for raw bytes. -/
def dFormat (f : Nat) : Bool := f ≤ 12 || f = 14

/-- The bytes of a row of n elements. -/
def edgeRowBytes (f n : Nat) : Nat :=
  if f = 12 then ceilDiv n 8
  else if f = 14 then n
  else ceilDiv (n * fmtWidth f) 8 + (if fmtBlock f then n / 32 else 0)

/-- The elements of a destination row: CX16 gives a pair of FP32 values per element (R128). -/
def targetElems (src tgt n : Nat) : Nat := if src = 11 && tgt = 0 then 2 * n else n

def dRound (d : BitVec 512) : Nat := fld (dRmode d) 0 2
def dStash (d : BitVec 512) : Nat := fld (dRmode d) 2 2

/-- A floating-point format of the first row of the table of R128. -/
def wideFmt (f : Nat) : Bool := f ≤ 2

/-- A pair that the load path (`load`) or the store path converts, under a rounding field (R122, R128): neither a packed mask
nor raw bytes goes through unchanged. -/
def edgePair (load : Bool) (src tgt mode stash : Nat) : Bool :=
  match mode with
  | 2 => !load && wideFmt src && tgt = 12 && stash ≤ 2
  | 0 => stash = 0 && dFormat src && dFormat tgt && pair
  | 1 => stash = 0 && (tgt = 1 || tgt = 4 || tgt = 9) && pair
  | _ => false
where
  pair : Bool :=
    (src = tgt && src ≠ 12 && src ≠ 14) || (wideFmt src && (wideFmt tgt || isSmall tgt)) || (isSmall src && wideFmt tgt) || (src = 11 && tgt = 0)
      || (load && src = 12 && wideFmt tgt)

/-! ### Conversion -/

/-- The values of a row of n elements. -/
def rowVals (src tgt n v : Nat) : List Val :=
  if src = 12 then (unpackNat 1 n v).map fun b => (fmtOf tgt).decode (stashUnpack (fmtOf tgt) (b = 1))
  else if src = 11 then (unpackNat 16 (2 * n) v).map Fmt.fp16.decode
  else smallVals src n 0 (n * fmtWidth src / 8) v

/-- A converted row: its bytes as a number, the flags, whether it holds a NaN. -/
structure RowResult where
  bits : Nat
  flags : NFlags
  nan : Bool
  deriving DecidableEq, Repr

/-- How element k of a transfer is rounded (R123, R228). -/
def edgeRounding (d : BitVec 512) (pos : Nat) : Rounding :=
  if dRound d = 1 then .sr (roundingGen (BitVec.ofNat 64 (dSeed d)) (BitVec.ofNat 64 (dIndex d + pos))) else .rne

/-- A row that holds n elements, the first at a position in the transfer, through the path (R128). -/
def convRow (d : BitVec 512) (n pos v : Nat) : RowResult :=
  let src := dSfmt d
  let tgt := dTfmt d
  if dRound d = 2 then
    let xs := unpackNat (fmtWidth src) n v
    ⟨packNat 1 (xs.map fun x => (stashBit (fmtOf src) (dStash d) x).toNat), 0, false⟩
  else if src = tgt then ⟨v, 0, false⟩
  else
    let vs := rowVals src tgt n v
    let ws := (List.range vs.length).map fun i => edgeRounding d (pos + i)
    if fmtBlock tgt then
      let (xs, ss, fl) := cvtBlocks tgt (ceilDiv n 32) ws vs
      ⟨packNat (fmtWidth tgt) xs + packNat 8 ss * 2 ^ (n * fmtWidth tgt), fl, vs.any Val.isNan⟩
    else
      let rs := List.zipWith (cvtElem tgt) ws vs
      ⟨packNat (fmtWidth tgt) (rs.map (·.1)), rs.foldl (fun a r => a ||| r.2) 0,
        rs.any fun r => (fmtOf tgt).isNanBits r.1⟩

end Sys2Proof.Machine
end

