-- ==== Sys2Proof/Machine/Port.lean ====
section
/-! DEFINITION. The stack and lake ports: slots, order, ECC, retries (R237, R241 to R249, R407), and the arbiters (R252 to R256). -/

namespace Sys2Proof.Machine

open Sys2Proof

/-! ### Where an address of HBM or the lake lies -/

/-- The stack or lake channel of a memory address (R27, R28). -/
def memFn (s : State) (a : Nat) : Fn :=
  if a < lakeBase then .stack (hbmPlace s.config.interleave a).1 else .lake (lakeChannel s.part.l1t a)

/-- The number of the stack or lake channel. -/
def memNum (s : State) (a : Nat) : Nat :=
  if a < lakeBase then (hbmPlace s.config.interleave a).1 else lakeChannel s.part.l1t a

/-- The arbiter of a memory address (R252). -/
def memArb (s : State) (a : Nat) : Nat := if a < lakeBase then memNum s a else 16 + memNum s a / 4

/-- The pseudo-channel of an HBM address (R241). -/
def pseudoChannel (s : State) (a : Nat) : Nat :=
  let o := (hbmPlace s.config.interleave a).2
  ((o >>> 8) ^^^ (o >>> 13)) % 32

def portStatusReg (s : State) (a : Nat) : Reg := if a < lakeBase then .hbmpStatus (memNum s a) else .lakeStatus (memNum s a)
def portEccReg (s : State) (a : Nat) : Reg := if a < lakeBase then .hbmpEcc (memNum s a) else .lakeEcc (memNum s a)
def portErrReg (s : State) (a : Nat) : Reg := if a < lakeBase then .hbmpErraddr (memNum s a) else .lakeErraddr (memNum s a)
def portUseReg (s : State) (a : Nat) : Reg := if a < lakeBase then .hbmpOutst (memNum s a) else .lakeOutst (memNum s a)

/-- The source of a record about the port of an address: 3 stack, 4 lake channel (R402). -/
def portKind (a : Nat) : Nat := if a < lakeBase then 3 else 4

/-- The port has left service (R407). -/
def portOut (s : State) (a : Nat) : Bool := s.regBit (portStatusReg s a) 2

/-- A unit leaves service (R407): its ready bit falls, and a record of class SERVICE names its kind and carries its status register as it
then reads. One that does not return within a thaw will not rise in this one (R35). -/
def leaveService (s : State) (f : Fn) (kind num : Nat) (status : State → Word) : State :=
  let s := s.fall f
  let s := if returns f then s else { s with config := { s.config with outs := f :: s.config.outs.filter (· ≠ f) } }
  raiseRec s { Rec.of s 11 kind 5 kind num with d0 := status s }

/-- A spring leaves service with its stack or after a self-test (R407): its accepted commands fail with UNCORR. -/
def springOut (s : State) (n : Nat) : State :=
  let x := s.spring n
  if x.out then s
  else
    let y := { x with out := true, queue := [], compute := none, move := none, failC := none, failM := none }
    let s := leaveService (s.setSpring n y) (.spring n) 5 n fun _ => y.stateWord
    x.queue.foldl (fun s c => failJob s c.ring c.idx 10) s

/-- A stack leaves service, and its spring with it (R407). -/
def stackLeaves (s : State) (n : Nat) : State :=
  if s.regBit (.hbmpStatus n) 2 then s
  else
    let s := s.setBit (.hbmpStatus n) 2
    byClass (fun s => springOut (leaveService s (.stack n) 3 n fun s => s.reg (.hbmpStatus n)) n) s

/-- A lake channel leaves service (R407). -/
def lakeLeaves (s : State) (n : Nat) : State :=
  if s.regBit (.lakeStatus n) 2 then s
  else
    let s := s.setBit (.lakeStatus n) 2
    leaveService s (.lake n) 4 n fun s => s.reg (.lakeStatus n)

/-- The stack or lake channel of an address leaves service. -/
def portLeaves (s : State) (a : Nat) : State :=
  if a < lakeBase then stackLeaves s (memNum s a) else lakeLeaves s (memNum s a)

/-! ### The edge engines' rights (R364) -/

/-- A range of n bytes meets a partition of the lake. -/
def meetsPartition (s : State) (h : Half) (a n : Nat) : Bool :=
  match h with
  | .W => decide (a < partWEnd s.part.l1t) && decide (lakeEnd s.part.l1t < a + n)
  | .E => decide (a < partEEnd s.part.l1t) && decide (partWEnd s.part.l1t < a + n)

/-- CTRL_PART lets edge engines read or write the partition of a half. -/
def edgeRight (s : State) (h : Half) (write : Bool) : Bool := s.regBit .ctrlPart (4 * halfNum h + write.toNat)

/-- Why a range of n bytes of this device is refused to an edge engine or a spring: the address and the cause of class ADDRESS
(R25, R364, R403); none where it is allowed. A range that runs out of its extent is named by its last byte, which the spec leaves open.
[DESIGN CHOICE: log entry 110] -/
def memDenied (s : State) (a n : Nat) (write : Bool) : Option (Nat × Nat) :=
  let kind (r : Region) : Nat := match r with
    | .hbm => 1
    | .lake => 2
    | .partition _ => 2
    | _ => 0
  let x := kind (s.region a)
  if x = 0 then some (a, 1)
  else if kind (s.region (a + n - 1)) ≠ x then some (a + n - 1, 1)
  else if (meetsPartition s .W a n && !edgeRight s .W write) || (meetsPartition s .E a n && !edgeRight s .E write)
  then some (a, 2)
  else none

/-! ### ECC (R247 to R249) -/

/-- A unit stays uncorrectable (R249): counted, its address recorded, a record of class ECC. [DEDUCED: log entry 88] -/
def unitFailed (s : State) (u : Nat) : State :=
  let s := s.countReg (portEccReg s u) 48 16 1
  let s := if s.regBit (portErrReg s u) 63 then s else s.setReg (portErrReg s u) (BitVec.ofNat 64 (2 ^ 63 + u))
  raiseEcc s { Rec.of s 5 (portKind u + 1) 0 (portKind u) (memNum s u) with addr := u }

/-- What n readings leave of a unit that gives `k` uncorrectable ones. -/
def afterReadings (s : State) (u k n : Nat) : State :=
  if k ≤ n then { s with marks := SMap.erase s.marks u } else { s with marks := SMap.insert s.marks u (.bad (k - n)) }

/-- The command to a unit meets its interface errors (R247, R407): each is a replay; the sixteenth in succession takes the port out of
service. -/
def replayUnit (s : State) (u : Nat) : State :=
  match SMap.get? s.glitches u with
  | none => s
  | some k =>
    let s := ({ s with glitches := SMap.erase s.glitches u } : State).countReg (portEccReg s u) 16 16 (min k 16)
    if 16 ≤ k then portLeaves s u else s

/-- A unit read, with its replays and retries (R247, R248): whether it could be read, and the state after. -/
def readUnit (s : State) (u : Nat) : Bool × State :=
  let s := replayUnit s u
  if portOut s u then (false, unitFailed s u)
  else
    match SMap.get? s.marks u with
    | none => (true, s)
    | some .corr =>
      (true, { s.countReg (portEccReg s u) 0 16 1 with
        writeBacks := if s.writeBacks.contains u then s.writeBacks else s.writeBacks ++ [u] })
    | some (.bad k) =>
      if k < 3 then (true, (afterReadings s u k k).countReg (portEccReg s u) 32 16 k)
      else (false, unitFailed ((afterReadings s u k 3).countReg (portEccReg s u) 32 16 2) u)

/-- The addresses of the units that n bytes at an address touch. -/
def unitsOf (a n : Nat) : List Nat :=
  (List.range ((unitRange a n).2 / 64)).map fun i => (unitRange a n).1 + 64 * i

/-- Units read one after another: whether all could be read. -/
def readUnits (s : State) : List Nat → Bool × State
  | [] => (true, s)
  | u :: us =>
    let (ok, s) := readUnit s u
    let (oks, s) := readUnits s us
    (ok && oks, s)

/-- n bytes of HBM or the lake read at once by a unit that waits for them: none where a unit stays uncorrectable. -/
def portRead (s : State) (a n : Nat) : Option (List Byte) × State :=
  let (ok, s) := readUnits s (unitsOf a n)
  (if ok then some (s.memBytes a n) else none, s)

/-- A unit that stays uncorrectable through a read-modify-write keeps its contents and its error (R237). -/
def keepBad (u : Nat) (m : Option Mark) (s : State) : State :=
  match m with
  | some (.bad k) => { s with marks := SMap.insert s.marks u (.bad k) }
  | _ => s

/-- Bytes within one unit written: a whole unit carries a fresh code; a part is a read-modify-write (R237), which is not
performed where the unit stays uncorrectable. -/
def writeUnit (s : State) (a : Nat) (bs : List Byte) : Bool × State :=
  let u := a / 64 * 64
  let (ok, t) := if bs.length = 64 then (fun t => (!portOut t u, t)) (replayUnit s u) else readUnit s u
  if ok then (true, { t.memStore a bs with marks := SMap.erase t.marks u })
  else (false, keepBad u (SMap.get? s.marks u) t)

/-- Bytes written unit by unit: whether all were. -/
def writeUnits (s : State) (a : Nat) (bs : List Byte) : List (Nat × Nat) → Bool × State
  | [] => (true, s)
  | p :: ps =>
    let (ok, s) := writeUnit s p.1 ((bs.drop (p.1 - a)).take p.2)
    let (oks, s) := writeUnits s a bs ps
    (ok && oks, s)

/-- Bytes written to HBM or the lake at once. -/
def portWrite (s : State) (a : Nat) (bs : List Byte) : Bool × State := writeUnits s a bs (pieces 64 a bs.length)

/-! ### Slots and order (R219, R242 to R244) -/

/-- Two requests touch one 64-byte unit. -/
def unitsMeet (x y : Req) : Bool :=
  decide (x.addr / 64 ≤ (y.addr + y.len - 1) / 64) && decide (y.addr / 64 ≤ (x.addr + x.len - 1) / 64)

/-- The requests that hold a slot of the port of an address. -/
def holding (s : State) (a : Nat) : List Req := s.reqs.filter fun q => q.accepted && memFn s q.addr = memFn s a

/-- The port has a slot for the request. -/
def portRoom (s : State) (q : Req) : Bool :=
  let all := holding s q.addr
  let bulk := all.filter fun x => !x.frame
  if q.addr < lakeBase then
    let here (xs : List Req) : Nat := (xs.filter fun x => pseudoChannel s x.addr = pseudoChannel s q.addr).length
    decide (all.length < 6400) && decide (here all < 640)
      && (q.frame || (decide (bulk.length < 5760) && decide (here bulk < 576)))
  else decide (all.length < 160) && (q.frame || decide (bulk.length < 144))

/-- The requests that an edge engine has outstanding (R219): those that hold a slot of a port and those that other devices have not
answered. -/
def engineOut (s : State) (e : Nat) : Nat :=
  (s.reqs.filter fun x => x.accepted && x.requester / 2 = e).length + (s.tags.filter fun t => !t.spring && ringEngine t.ring = e).length

/-- The engine has fewer than 512 requests outstanding; what is no engine's has no such limit. -/
def engineRoom (s : State) (e : Nat) : Bool := 64 ≤ e || decide (engineOut s e < 512)

/-- Requests to one unit keep their order (R242): a write waits for the reads of its unit that hold slots, and a request for the earlier ones
of its engine. -/
def inTurn (s : State) (q : Req) : Bool :=
  s.reqs.all fun x => x.id = q.id || !unitsMeet x q ||
    (if x.accepted then x.isWrite || !q.isWrite else x.requester / 2 ≠ q.requester / 2 || decide (q.id < x.id))

/-- A recalibration of a unit runs (R358). -/
def recalRuns (s : State) (u : RecalUnit) : Bool := s.svc.recals.any fun r => r.unit = u && r.running

/-- The port of an address serves: no recalibration of its stack or lake channel runs (R358). -/
def portServes (s : State) (a : Nat) : Bool :=
  !recalRuns s (if a < lakeBase then .stack (memNum s a) else .lake (memNum s a))

/-- The port has a slot that the request may take: one that freed while an F request waited for a slot there goes to an F request (R349). -/
def slotFor (s : State) (q : Req) : Bool :=
  portRoom s q && (q.frame || !(s.reqs.any fun x => x.starved && !x.accepted && memFn s x.addr = memFn s q.addr))

/-- A request that the port can accept, but for the order of its engine's classes. -/
def acceptable (s : State) (q : Req) : Bool :=
  !q.accepted && portServes s q.addr && slotFor s q && engineRoom s (q.requester / 2) && inTurn s q

/-- A request that its engine can send: its F rings' go before its B rings' (R349). -/
def sendable (s : State) (q : Req) : Bool :=
  acceptable s q && (q.frame || !(s.reqs.any fun x => x.frame && x.requester / 2 = q.requester / 2 && acceptable s x))

/-- The slots in use at the port of an address rise to their largest (HBMP_OUTST, LAKE_OUTST), `more` of them for a moment. -/
def noteSlots (s : State) (a more : Nat) : State := s.raiseReg (portUseReg s a) 16 13 ((holding s a).length + more)

/-- The F requests that wait for a slot of the port of an address (R349). -/
def noteStarved (s : State) (a : Nat) : State :=
  { s with reqs := s.reqs.map fun x =>
      if x.frame && !x.accepted && memFn s x.addr = memFn s a && !portRoom s x then { x with starved := true } else x }

/-- Two addresses of one pseudo-channel, or of one lake channel. -/
def sameChannel (s : State) (a b : Nat) : Bool :=
  memFn s a = memFn s b && (decide (lakeBase ≤ a) || pseudoChannel s a = pseudoChannel s b)

/-- An accepted request is served next (R243, R248): no earlier one of its unit is left, and no F request of its pseudo-channel waits; but one
B request, under way when an F request came, is served before it (R349). -/
def servedNext (s : State) (q : Req) : Bool :=
  s.reqs.all fun x => !x.accepted || x.id = q.id ||
    (!(unitsMeet x q && decide (x.order < q.order))
      && (q.frame || !x.frame || !sameChannel s x.addr q.addr || (decide (q.order < x.order) && !x.passed)))

/-- A request has been served and gives up its slot. An F request that it passed will be passed by no other. -/
def freeSlot (s : State) (q : Req) : State :=
  let s := noteStarved s q.addr
  { s with reqs := (s.reqs.filter fun x => x.id ≠ q.id).map fun x =>
      if !q.frame && x.frame && x.accepted && sameChannel s x.addr q.addr then { x with passed := true } else x }

/-! ### Demand of F requests (R350, SVC_HBMF) -/

/-- An F request at a stack: the windows of 10 µs and 1 µs (R350). -/
def noteDemand (s : State) (a : Nat) : State :=
  let st := memNum s a
  let pc := pseudoChannel s a
  let now := s.time.elapsed
  let xs := (now, st, pc) :: s.svc.fReqs.filter fun x => decide (now < x.1 + 10000)
  let here := xs.filter fun x => x.2.1 = st
  let w1 := here.filter fun x => decide (now < x.1 + 1000)
  let p1 := w1.filter fun x => x.2.2 = pc
  let s := { s with svc := { s.svc with fReqs := xs } }
  let s := s.raiseReg (.svcHbmf st) 32 16 here.length
  let s := s.raiseReg (.svcHbmf st) 16 16 w1.length
  let s := s.raiseReg (.svcHbmf st) 0 16 p1.length
  if 20000 < here.length || 2000 < w1.length || 62 < p1.length then s.setBit .svcEvent 3 else s

/-- The F requests of 256 bytes at most that an access of n bytes makes at a stack. -/
def noteDemands (s : State) (frame : Bool) (a n : Nat) : State :=
  if frame && decide (a < lakeBase) then (pieces 256 a n).foldl (fun s p => noteDemand s p.1) s else s

/-! ### Arbiters (R252 to R256) -/

/-- An arbiter that is fitted (R252). -/
def arbFitted (s : State) (a : Nat) : Bool :=
  a < 68 && !(s.part.l1t && decide (16 ≤ a) && decide (a < 32) && decide (4 ≤ a % 8))

def State.arb (s : State) (a : Nat) : Arbiter := SMap.getD s.arbs a Arbiter.reset
def State.setArb (s : State) (a : Nat) (x : Arbiter) : State := { s with arbs := SMap.set s.arbs a x Arbiter.reset }

/-- The priority of a requester (R253). -/
def arbPriority (s : State) (a k : Nat) : Nat := s.regFld (.arbPrio a k) 0 2

/-- The credits that a link holds for a virtual channel (R322): those not returned are taken from the share of LINK_CRED. -/
def linkCredit (s : State) (l vc : Nat) : Nat := SMap.getD (s.link l).credits vc 0

/-- A queued unit is a packet. -/
def LinkUnit.isPacket : LinkUnit → Bool
  | .packet _ _ => true
  | _ => false

/-- The packets of a requester at a link, the flits of one virtual channel keeping their order (R318). -/
def linkWants (s : State) (l k : Nat) : Bool :=
  let q := (s.link l).queue.filter fun p => p.2.isPacket
  q.any fun p => p.1 = k && decide (p.2.flits ≤ linkCredit s l p.2.vc) && (q.find? fun x => x.2.vc = p.2.vc) = some p

/-- A requester has a request that it can send. -/
def requesting (s : State) (a k : Nat) : Bool :=
  if a < 32 then s.reqs.any fun q => q.arb = a && q.requester = k && sendable s q else linkWants s (a - 32) k

/-- The requesters of an arbiter that request. -/
def requesters (s : State) (a : Nat) : List Nat := (List.range 134).filter (requesting s a)

/-- Of requesters, the one that an arbiter without a holder grants (R253): the highest PRIO, and among equals the first above the one
granted last at that PRIO, counting cyclically. -/
def bestOf (s : State) (a : Nat) (ks : List Nat) : Option Nat :=
  let top := ks.foldl (fun m k => max m (arbPriority s a k)) 0
  let ks := ks.filter fun k => arbPriority s a k = top
  match ks.find? fun k => decide (SMap.getD (s.arb a).last top 133 < k) with
  | some k => some k
  | none => ks.head?

/-- The requester that is granted next. -/
def nextGrant (s : State) (a : Nat) : Option Nat := bestOf s a (requesters s a)

/-- A grant (R253, R256). -/
def grant (s : State) (a k : Nat) : State :=
  let x := s.arb a
  let p := arbPriority s a k
  let wait := match SMap.get? x.since k with
    | some t => s.grid.now - t
    | none => 0
  let s := s.countReg (.arbGrants a k) 0 48 1
  let s := s.raiseReg (.arbLongest a k) 0 48 wait
  s.setArb a { x with
    holder := some k, prio := p, moved := 0, xfer := [], last := SMap.insert x.last p k, since := SMap.erase x.since k }

/-- A grant ends. -/
def endGrant (s : State) (a : Nat) : State :=
  let s := s.setArb a { s.arb a with holder := none, prio := 0, moved := 0, xfer := [] }
  if a < 32 then s else s.modLink (a - 32) fun l => { l with xfer := [] }

/-- The burst limit of the present grant (R253). -/
def burst (s : State) (a : Nat) : Nat :=
  (if (s.arb a).prio = 3 then s.regFld (.arbCfg a) 16 12 else s.regFld (.arbCfg a) 0 12) + 1

/-- Beats have moved: the grant ends where the burst is done or the holder has nothing to send. -/
def beatsMoved (s : State) (a n : Nat) : State :=
  let x := s.arb a
  let s := s.setArb a { x with moved := x.moved + n }
  match x.holder with
  | some k => if burst s a ≤ x.moved + n || !requesting s a k then endGrant s a else s
  | none => s

/-- A holder that keeps its grant against a requester of PRIO 3 (R254, R255). -/
def keepsGrant (s : State) (a k : Nat) : Bool := (s.arb a).prio = 3 || arbPriority s a k = 3

/-- Requests made again, under new numbers (R254). -/
def askOver (s : State) (qs : List Req) : State :=
  qs.foldl
    (fun s q => { s with
      reqs := s.reqs ++ [{ q with id := s.nextReq, accepted := false, order := 0, tries := 0, replays := 0, passed := false, starved := false }]
      nextReq := s.nextReq + 1 }) s

/-- What requests already made bring is discarded (R254): those accepted keep their slots until they are served. -/
def discardReqs (s : State) (p : Req → Bool) : State :=
  let turn (q : Req) : Req := if p q then { q with idx := q.idx + 0x80000000 } else q
  { s with reqs := (s.reqs.filter fun q => !(p q && !q.accepted)).map turn }

/-- A job whose transfer was preempted (R254): its reads are requested again; its writes are performed again with the same data,
unless its reads are requested again too, when the writes follow from them. A SIN that is staging keeps the instances it has staged
(R237). [DEDUCED: log entry 42] -/
def restartJob (xfer : List Req) (s : State) (j : Nat × BitVec 32) : State :=
  let mine (q : Req) : Bool := q.ring = j.1 && q.idx = j.2
  match (s.ring j.1).job j.2 with
  | none => s
  | some x =>
    let reads := xfer.filter fun q => mine q && !q.isWrite
    let writes := xfer.filter fun q => mine q && q.isWrite
    let isRead (q : Req) : Bool := mine q && reads.any fun y => y.id = q.id
    let x := { x with restarts := min (x.restarts + 1) 255 }
    let far := (s.tags.filter fun t => !t.spring && t.ring = j.1 && t.idx = j.2).length + (s.far.filter fun q => q.ring = j.1 && q.idx = j.2).length
    let put (st : JobStage) (s : State) : State :=
      s.modRing j.1 fun r => r.putJob { x with stage := st, out := (s.reqs.filter mine).length + far }
    match x.stage with
    | .reading => put .reading (askOver (discardReqs s isRead) reads)
    | .writing =>
      if reads.isEmpty then
        if writes.isEmpty then put .writing s
        else put .writing (askOver (discardReqs s fun q => mine q && writes.any fun y => y.id = q.id) writes)
      else if far ≠ 0 then s.modRing j.1 fun r => r.putJob x
      else put .reading (askOver (discardReqs s mine) reads)
    | .done =>
      if writes.isEmpty then s.modRing j.1 fun r => r.putJob x
      else put .writing (askOver (discardReqs s fun q => mine q && writes.any fun y => y.id = q.id) writes)
    | _ => s.modRing j.1 fun r => r.putJob x

/-- The descriptors that have beats in a transfer. -/
def xferJobs (xfer : List Req) : List (Nat × BitVec 32) := (xfer.map fun q => (q.ring, q.idx)).eraseDups

/-- A packet sent again: a READ with a new tag (R321). -/
def sendAgain (l : Nat) (s : State) (u : Nat × LinkUnit) : State :=
  match u.2 with
  | .packet h body =>
    let p := packetOf h body
    if p.ptype = 2 && p.src = s.dev then
      let (tag, s) := freshTag s
      let s := { s with tags := s.tags.map fun t => if t.tag = p.tag then { t with tag := tag } else t }
      queueUnit s l u.1 ({ p with tag := tag } : Packet).unit
    else queueUnit s l u.1 u.2
  | _ => s

/-- The transfer of a holder is ended by a requester of PRIO 3 and will restart from its first beat (R254, R321). -/
def preempt (s : State) (a : Nat) : State :=
  let x := s.arb a
  let s := s.countReg (.arbStatus a) 16 48 1
  let s := (xferJobs x.xfer).foldl (restartJob x.xfer) s
  let s := if a < 32 then s
    else
      let l := a - 32
      let old := s.link l
      let t := (old.xfer.foldl (sendAgain l) (s.setLink l { old with queue := [], xfer := [] }))
      t.modLink l fun y => { y with queue := y.queue ++ old.queue }
  endGrant s a

/-- The holder of a grant that still has something to send (R253). -/
def activeHolder (s : State) (a : Nat) : Option Nat := (s.arb a).holder.filter (requesting s a)

/-- A requester of PRIO 3 that preempts the holder, if one does (R254). -/
def preempts (s : State) (a : Nat) : Bool :=
  match activeHolder s a with
  | some k => !keepsGrant s a k && (requesters s a).any fun r => arbPriority s a r = 3
  | none => false

/-- The preemption and the grant that follows it. -/
def preemptNow (s : State) (a : Nat) : State :=
  let s := preempt s a
  match nextGrant s a with
  | some k => grant s a k
  | none => s

/-- No grant is held: a holder with nothing that it can send has ended its grant (R253). -/
def grantFree (s : State) (a : Nat) : Bool := (activeHolder s a).isNone

/-- The grants of holders with nothing that they can send end (R253). -/
def endIdle (s : State) : State :=
  s.arbs.foldl (fun s p => if p.2.holder.isSome && grantFree s p.1 then endGrant s p.1 else s) s

/-- ARBITER_GRANT (R253). -/
def execArbiterGrant (a : Nat) (s : State) : Out :=
  match nextGrant s a with
  | some k => stepIf (s.working && arbFitted s a && grantFree s a) s (useStored (.arbiter a) s (grant s a k))
  | none => .next s

/-- ARBITER_PREEMPT (R254). -/
def execArbiterPreempt (a : Nat) (s : State) : Out :=
  stepIf (s.working && arbFitted s a && preempts s a) s (preemptNow s a)

/-- One cycle of an arbiter (R256): each requester without the grant counts it in WAITS, and notes when it began to request. -/
def noteWaits (s : State) (a : Nat) : State :=
  let x := s.arb a
  let ks := (requesters s a).filter fun k => x.holder ≠ some k
  let since := x.since.filter fun p => ks.contains p.1
  let s := ks.foldl (fun s k => s.countReg (.arbWaits a k) 0 48 1) s
  s.setArb a { x with since := ks.foldl (fun m k => if (SMap.get? m k).isSome then m else SMap.insert m k s.grid.now) since }

/-- An access of n bytes that is accepted and served within one step (log entry 22): that of a bridge, of the local path, of a descriptor
fetch or of a completion record, as a request. -/
def accessReq (s : State) (a n k : Nat) (write : Bool) : Req :=
  { id := s.nextReq, arb := memArb s a, requester := k, frame := k % 2 = 1, isWrite := write, addr := a, len := n, data := [],
    ring := ringCount, idx := 0, place := 0, accepted := false, order := s.nextReq, tries := 0, replays := 0, since := 0,
    passed := false, starved := false }

/-- Such an access gets the grant of its arbiter now (R253, R254): it holds it, preempts the holder, or wins the next decision. -/
def winsGrant (s : State) (a k : Nat) : Bool :=
  match activeHolder s a with
  | some h => h = k || (arbPriority s a k = 3 && !keepsGrant s a h)
  | none => bestOf s a ((List.range 134).filter fun x => x = k || requesting s a x) = some k

/-- A port answers accesses: its unit is ready, or out of service, which answers with uncorrectable data (R407). -/
def portUp (s : State) (a : Nat) : Bool := s.ready (memFn s a) || portOut s a

/-- A range within one port can be accessed now: the port answers and serves, has a slot, and nothing goes before the access. -/
def pieceFree (s : State) (k : Nat) (write : Bool) (p : Nat × Nat) : Bool :=
  let q := accessReq s p.1 p.2 k write
  portUp s p.1 && portServes s p.1 && slotFor s q && engineRoom s (k / 2) && inTurn s q && servedNext s q && winsGrant s q.arb k

/-- A range can be accessed now (R242, R243, R253, R358). [DESIGN CHOICE: log entry 22] -/
def portFree (s : State) (a n k : Nat) (write : Bool) : Bool := (pieces 4096 a n).all (pieceFree s k write)

/-- The access passes its arbiters (log entry 22): it is granted, holding preempted where R254 says so, moves its beats and holds a slot for
the moment. [DESIGN CHOICE: log entry 22] -/
def passPiece (k : Nat) (s : State) (p : Nat × Nat) : State :=
  let a := memArb s p.1
  let s := match activeHolder s a with
    | some h => if h = k then s else grant (if arbPriority s a k = 3 && !keepsGrant s a h then preempt s a else endGrant s a) a k
    | none => grant s a k
  beatsMoved (noteDemands (noteSlots s p.1 1) (k % 2 = 1) p.1 p.2) a (pieces 256 p.1 p.2).length

/-- A range passes its arbiters. -/
def passPort (s : State) (a n k : Nat) : State := (pieces 4096 a n).foldl (passPiece k) s

/-! ### Remote requests (R219, R315, R323) -/

/-- A remote request leaves its engine. -/
def sendFar (s : State) (q : FarReq) : State :=
  sendRemote s
    ⟨engineHalf (ringEngine q.ring), ringRequester s q.ring, false, q.ring, q.idx, ringFrame s q.ring, ringVc s q.ring⟩ q.isWrite q.dev
    q.addr q.len q.place q.data

/-- The waiting remote requests of a class leave their engines while there is room. -/
def pumpClass (frame : Bool) (s : State) : State :=
  s.far.foldl
    (fun s q =>
      if ringFrame s q.ring = frame && engineRoom s (ringEngine q.ring) && s.far.head?.isSome then
        sendFar { s with far := s.far.erase q } q
      else s) s

/-- The waiting remote requests leave their engines, those of F rings first (R349), while there is room (R219). In frost none does. -/
def pumpFar (s : State) : State := if s.working then pumpClass false (pumpClass true s) else s

/-- What follows whenever requests come, go or can be served: remote requests go out, and grants of holders with nothing to send end. -/
def settlePorts (s : State) : State := endIdle (pumpFar s)

end Sys2Proof.Machine
end

