-- ==== Sys2Proof/Machine/SpringCmd.lean ====
section
/-! DEFINITION. The commands of a spring as a SPRG descriptor carries them (R261, R264, R265, R270, R275): fields, ranges,
and the checks that the edge engine makes. -/

namespace Sys2Proof.Machine

open Sys2Proof

/-! ### Fields (R264) -/

def cOp (d : BitVec 512) : Nat := dfld d 8 1
def cGfmt (d : BitVec 512) : Nat := dfld d 9 1
def cOfmt (d : BitVec 512) : Nat := dfld d 0xA 1
def cMode (d : BitVec 512) : Nat := dfld d 0xB 1
def cCount (d : BitVec 512) : Nat := dfld d 0xC 4
/-- Operand word i. -/
def cA (d : BitVec 512) (i : Nat) : Nat := dfld d (0x10 + 8 * i) 8

/-- Option bit i of MODE. -/
def cBit (d : BitVec 512) (i : Nat) : Bool := fld (cMode d) i 1 = 1

/-- The dimensions m, n, r of a low-rank command (R275). -/
def cM (d : BitVec 512) : Nat := fld (cA d 4) 0 24
def cN (d : BitVec 512) : Nat := fld (cA d 4) 24 24
def cR (d : BitVec 512) : Nat := fld (cA d 4) 48 8

/-- The row length of a CAST (R274). -/
def cRow (d : BitVec 512) : Nat := fld (cA d 4) 0 32

/-- The bytes of the destination of a CAST. -/
def castBytes (d : BitVec 512) : Nat :=
  cCount d * fmtWidth (cOfmt d) / 8 + (if fmtBlock (cOfmt d) then cCount d / 32 else 0)

/-- A listed command. -/
def cListed (d : BitVec 512) : Bool :=
  [0x01, 0x02, 0x03, 0x04, 0x08, 0x09, 0x0A, 0x0B, 0x0C, 0x10, 0x11].contains (cOp d)

/-- A low-rank command. -/
def cLowRank (d : BitVec 512) : Bool := decide (8 ≤ cOp d) && decide (cOp d ≤ 0x0C)

/-- The command runs on the move engine. -/
def cMoves (d : BitVec 512) : Bool := cOp d = 0x10 || cOp d = 0x11

/-- The parts of its own stack that a command reads: stack offset and bytes. -/
def cReads (d : BitVec 512) : List (Nat × Nat) :=
  let c := cCount d
  let e := 4 * cM d * cN d
  let q := 4 * cN d * cR d
  let p := 4 * cM d * cR d
  match cOp d with
  | 0x01 => (if cBit d 1 then [] else [(cA d 0, 4 * c)]) ++ [(cA d 1, c * fmtWidth (cGfmt d) / 8)]
  | 0x02 => [(cA d 0, 4 * c), (cA d 1, 4 * c), (cA d 2, 4 * c), (cA d 3, 4 * c), (cA d 4, 64)]
  | 0x03 => [(cA d 0, 4 * c), (cA d 1, 4 * c), (cA d 2, 4 * c), (cA d 3, 64)]
  | 0x04 => [(cA d 0, 4 * c)]
  | 0x09 => [(cA d 0, e), (cA d 1, e), (cA d 2, q)]
  | 0x0A => [(cA d 0, p)]
  | 0x0B => [(cA d 0, e), (cA d 1, p)]
  | 0x0C => [(cA d 0, e), (cA d 1, p), (cA d 2, q)]
  | 0x10 => [(cA d 0, c), (cA d 1, 8 * cA d 2)]
  | 0x11 => [(cA d 0, c)]
  | _ => []

/-- The parts of its own stack that a command writes. -/
def cWrites (d : BitVec 512) : List (Nat × Nat) :=
  let c := cCount d
  let e := 4 * cM d * cN d
  let q := 4 * cN d * cR d
  let p := 4 * cM d * cR d
  match cOp d with
  | 0x01 => [(cA d 0, 4 * c)]
  | 0x02 => [(cA d 0, 4 * c), (cA d 1, 4 * c), (cA d 2, 4 * c)] ++ (if cBit d 1 then [(cA d 3, 4 * c)] else [])
  | 0x03 => [(cA d 0, 4 * c), (cA d 1, 4 * c)] ++ (if cBit d 1 then [(cA d 2, 4 * c)] else [])
  | 0x04 => [(cA d 1, castBytes d)]
  | 0x08 => [(cA d 0, q), (cA d 3, e)]
  | 0x09 => [(cA d 1, e), (cA d 3, p)]
  | 0x0A => [(cA d 0, p)]
  | 0x0B => [(cA d 2, q)]
  | 0x0C => [(cA d 0, e), (cA d 3, e)]
  | _ => []

/-! ### Checks (R265) -/

/-- The operand words that hold stack offsets. -/
def cOffsets (d : BitVec 512) : List Nat :=
  match cOp d with
  | 0x01 => [0, 1]
  | 0x02 => [0, 1, 2, 3, 4]
  | 0x03 => [0, 1, 2, 3]
  | 0x04 => [0, 1]
  | 0x08 => [0, 3]
  | 0x09 => [0, 1, 2, 3]
  | 0x0A => [0]
  | 0x0B => [0, 1, 2]
  | 0x0C => [0, 1, 2, 3]
  | 0x10 => [0, 1]
  | 0x11 => [0]
  | _ => []

/-- The operand words that a command uses. -/
def cUsed (d : BitVec 512) : List Nat :=
  match cOp d with
  | 0x01 => [0, 1]
  | 0x03 => [0, 1, 2, 3]
  | 0x0A => [0, 4]
  | 0x0B => [0, 1, 2, 4]
  | 0x10 => [0, 1, 2]
  | 0x11 => [0, 1]
  | _ => [0, 1, 2, 3, 4]

/-- The MODE bits that a command lists, as a mask. -/
def cModes (d : BitVec 512) : Nat :=
  match cOp d with
  | 0x01 => 2
  | 0x02 => 2
  | 0x03 => 6
  | 0x04 => 1
  | _ => 0

/-- Cause RESERVED: an OP or a MODE bit not listed, a nonzero unused field, bits above a stack offset, a dimension, a row
length or a destination count. -/
def sprgReserved (d : BitVec 512) : Bool :=
  !cListed d || cMode d % 256 &&& cModes d ≠ cMode d
    || (List.range 5).any (fun i => !(cUsed d).contains i && cA d i ≠ 0)
    || (cOffsets d).any (fun i => 2 ^ 37 ≤ cA d i)
    || (cLowRank d && (cCount d ≠ 0 || fld (cA d 4) 56 8 ≠ 0 || (cOp d = 0x0A && cN d ≠ 0)))
    || (cOp d = 0x04 && 2 ^ 32 ≤ cA d 4) || (cOp d = 0x10 && 2 ^ 7 ≤ cA d 2)

/-- Cause FORMAT. -/
def sprgFormat (d : BitVec 512) : Bool :=
  match cOp d with
  | 0x01 => !([0, 1, 2, 4].contains (cGfmt d)) || cOfmt d ≠ 0
  | 0x04 =>
    cGfmt d ≠ 0 || !([1, 2, 3, 4, 5, 8, 9, 10].contains (cOfmt d)) || (cBit d 0 && !([1, 4, 9].contains (cOfmt d)))
  | 0x10 => cGfmt d ≠ 14 || cOfmt d ≠ 14
  | 0x11 => cGfmt d ≠ 14 || cOfmt d ≠ 14
  | _ => cGfmt d ≠ 0 || cOfmt d ≠ 0

/-- Cause SHAPE. -/
def sprgShape (d : BitVec 512) : Bool :=
  (cOffsets d).any (fun i => cA d i % 64 ≠ 0) || (cOp d = 0x11 && cA d 1 % 64 ≠ 0)
    || (!cLowRank d && cCount d = 0) || (cMoves d && cCount d % 64 ≠ 0)
    || (cOp d = 0x04 && (cRow d = 0 || cCount d % cRow d ≠ 0 || (fmtBlock (cOfmt d) && cRow d % 32 ≠ 0)
        || (fmtIs4 (cOfmt d) && cRow d % 2 = 1)))
    || (cOp d = 0x01 && fmtIs4 (cGfmt d) && cCount d % 2 = 1)
    || (cOp d = 0x10 && (cA d 2 = 0 || 64 < cA d 2))
    || (cLowRank d && (cM d = 0 || (cOp d ≠ 0x0A && cN d = 0) || cR d < 4 || 64 < cR d
        || ((cOp d = 0x09 || cOp d = 0x0B || cOp d = 0x0C) && 1048576 < cN d * cR d)
        || (cOp d = 0x0A && 1048576 < cM d * cR d)))

/-- Cause ADDRESS: a range beyond the last offset of the stack, or a lake address outside the populated map. -/
def sprgAddress (s : State) (d : BitVec 512) : Bool :=
  (cReads d ++ cWrites d).any (fun r => decide (lastOffset s.config.interleave < r.1 + r.2 - 1))
    || (cOp d = 0x11 &&
      !(lakeBase ≤ cA d 1 && cA d 1 + cCount d ≤ partEEnd s.part.l1t))

/-- The cause of R265 that a command meets. -/
def sprgCause (s : State) (d : BitVec 512) : Option Nat :=
  if dSfmt d ≠ 0 || dTfmt d ≠ 0 || dRmode d ≠ 0 || sprgReserved d then some 2
  else if sprgFormat d then some 3
  else if sprgShape d then some 4
  else if sprgAddress s d then some 5
  else if 15 < dUnit d then some 6
  else none

end Sys2Proof.Machine
end

