-- ==== Sys2Proof/Machine/EdgeCheck.lean ====
section
/-! DEFINITION. What an edge engine checks of a descriptor before it starts (R225 to R233, R238, R392, R393). -/

namespace Sys2Proof.Machine

open Sys2Proof

/-! ### Addresses (R32, R227) -/

/-- The device of an address. A field that may name another device (`far`, R227) holds a global address, whose bits [53:43] are the
device, 0 like any other (R32). Any other holds a local address, or this device's global one (log entry 23).
[DEDUCED: log entry 23] -/
def addrDev (s : State) (far : Bool) (a : Nat) : Nat := if !far && a / 2 ^ 43 = 0 then s.dev else a / 2 ^ 43

/-- The local address within it. -/
def addrLocal (a : Nat) : Nat := a % 2 ^ 43

/-- An address on another device. -/
def remoteAddr (s : State) (far : Bool) (a : Nat) : Bool := addrDev s far a ≠ s.dev

/-- The kinds whose source, and those whose destination, may lie on another device (R227). -/
def readsFar (d : BitVec 512) : Bool := dKind d = 1 || dKind d = 2
def writesFar (d : BitVec 512) : Bool := dKind d = 1 || dKind d = 3

/-- What a descriptor reads or writes: a range of bytes at an address, or at an offset of a core's store; `last` is the last
row's offset from the first, `row` the bytes of a row; `far` says that the address may name another device (R227).
[DEDUCED: log entry 23] -/
structure Side where
  write : Bool
  far : Bool
  core : Option Nat
  addr : Nat
  rows : Nat
  stride : Nat
  row : Nat
  deriving DecidableEq, Repr

/-- The bytes from the first of row 0 to the last of the last row. -/
def Side.len (x : Side) : Nat := (x.rows - 1) * x.stride + x.row

/-- The rows of a descriptor's source and destination. -/
def srcRow (d : BitVec 512) : Nat := edgeRowBytes (dSfmt d) (dElems d)
def dstRow (d : BitVec 512) : Nat := edgeRowBytes (dTfmt d) (targetElems (dSfmt d) (dTfmt d) (dElems d))

/-- The ranges of a descriptor in memory and core stores (R227, R233, R246, R392, R393). -/
def dSides (d : BitVec 512) : List Side :=
  let src := Side.mk false (readsFar d) none (dSrc d) (dRows d) (dSstride d) (srcRow d)
  let dst := Side.mk true (writesFar d) none (dDst d) (dRows d) (dDstride d) (dstRow d)
  match dKind d with
  | 1 => [src, dst]
  | 2 => [src]
  | 3 => [dst]
  | 4 => [⟨false, false, none, dSrc d, 1, 0, 8 * dRows d⟩, dst]
  | 5 => [src, ⟨false, false, none, dDst d, 1, 0, 8 * dRows d⟩]
  | 6 => [src, { dst with core := some (dUnit d) }]
  | 7 => [{ src with core := some (dUnit d) }, dst]
  | 8 => [⟨false, false, none, dSrc d, 1, 0, 8 * dRows d⟩]
  | 9 => [⟨false, false, none, dSrc d, 1, 0, dElems d⟩]
  | 11 => src :: (if dDst d = 0 then [] else [⟨true, false, none, dDst d, 1, 0, 8⟩])
  | _ => []

/-! ### Cause RESERVED -/

/-- The fields SFMT, TFMT, RMODE, UNIT, SRC, DST, ROWS, ELEMS, SSTRIDE, DSTRIDE, SEED, INDEX. -/
def dFields (d : BitVec 512) : List Nat :=
  [dSfmt d, dTfmt d, dRmode d, dUnit d, dSrc d, dDst d, dRows d, dElems d, dSstride d, dDstride d, dSeed d, dIndex d]

/-- The fields that a kind uses, in that order (R226, R227, R230, R246, R392). -/
def dUsed (kind : Nat) : List Bool :=
  match kind with
  | 0 => [false, false, false, false, false, false, false, false, false, false, false, false]
  | 1 => [true, true, false, false, true, true, true, true, true, true, false, false]
  | 2 => [true, true, true, true, true, false, true, true, true, true, true, true]
  | 3 => [true, true, true, true, false, true, true, true, true, true, true, true]
  | 4 => [true, true, false, false, true, true, true, true, false, true, false, false]
  | 5 => [true, true, false, false, true, true, true, true, true, false, false, false]
  | 6 => [true, true, true, true, true, true, true, true, true, true, true, true]
  | 7 => [true, true, true, true, true, true, true, true, true, true, true, true]
  | 8 => [false, false, false, true, true, true, true, false, false, false, false, false]
  | 9 => [false, false, false, true, true, true, true, true, false, false, false, false]
  | 11 => [true, true, false, true, true, true, true, true, true, false, true, true]
  | 12 => [false, false, false, false, true, true, false, false, false, false, true, false]
  | _ => [true, true, true, true, true, true, true, true, true, true, true, true]

/-- INC out of its limits (R229). -/
def incBad (d : BitVec 512) : Bool :=
  let v := dInc d
  fld v 54 10 ≠ 0 || 16384 < fld v 27 16 || fld v 16 11 ≠ 0 || 767 < fld v 6 10 || 47 < fld v 0 6

/-- The counter, target and timeout of a WAIT out of their ranges (R230). -/
def waitBad (d : BitVec 512) : Bool :=
  (if fld (dSrc d) 63 1 = 1 then 2 ^ 13 ≤ dSrc d % 2 ^ 63
    else 2 ^ 16 ≤ dSrc d || 767 < fld (dSrc d) 6 10 || 47 < fld (dSrc d) 0 6)
  || 2 ^ 32 ≤ dDst d || 2 ^ 48 ≤ dSeed d

/-- Cause RESERVED of a CHK descriptor (R393). -/
def chkBad (d : BitVec 512) : Bool :=
  2 ^ 10 ≤ dIndex d || (chkPset d ≠ 0 && !chkStart d) || (chkCompare d && !chkFinal d) || (chkGate d && !chkCompare d)
    || (dSeed d ≠ 0 && !chkCompare d)

/-- Cause RESERVED (R226, R229, R230). [DEDUCED: log entry 40] -/
def dReserved (d : BitVec 512) : Bool :=
  dfld d 5 1 ≠ 0 || 2 ≤ dFlags d || incBad d || 2 ^ 4 ≤ dRmode d
    || (List.zipWith (fun u v => !u && decide (v ≠ 0)) (dUsed (dKind d)) (dFields d)).any id
    || (dKind d = 12 && waitBad d) || (dKind d = 11 && chkBad d)

/-! ### Causes FORMAT, SHAPE, ADDRESS, UNIT, ILOAD -/

/-- A kind that carries rows through the load path or the store path. -/
def dLoads (kind : Nat) : Bool := kind = 2 || kind = 6
def dStores (kind : Nat) : Bool := kind = 3 || kind = 7

/-- Cause FORMAT (R122, R128, R227, R393). -/
def dFormatBad (d : BitVec 512) : Bool :=
  let k := dKind d
  if dLoads k || dStores k then !edgePair (dLoads k) (dSfmt d) (dTfmt d) (dRound d) (dStash d)
  else if k = 11 then dSfmt d ≠ 14 || dTfmt d ≠ 14
  else dSfmt d ≠ dTfmt d || !dFormat (dSfmt d)

/-- A row length that a format does not allow (R231). -/
def oddRow (f n : Nat) : Bool := (fmtIs4 f && n % 2 = 1) || (fmtBlock f && n % 32 ≠ 0)

/-- A base or stride outside R228. -/
def baseBad (a : Nat) : Bool := a % 32 ≠ 0
def strideBad (stride row : Nat) : Bool := stride % 32 ≠ 0 || stride < row

/-- Cause SHAPE (R228, R231, R246, R393), on a ring of engine e. -/
def dShapeBad (s : State) (e : Nat) (d : BitVec 512) : Bool :=
  let k := dKind d
  let rows := dRows d = 0 || dElems d = 0 || oddRow (dSfmt d) (dElems d) || oddRow (dTfmt d) (dElems d)
  let src := baseBad (dSrc d) || strideBad (dSstride d) (srcRow d)
  let dst := baseBad (dDst d) || strideBad (dDstride d) (dstRow d)
  let whole (stride : Nat) : Bool :=
    let b := xsBeats s e (dUnit d)
    dUnit d < 32 && b ≠ 0 && dRows d * stride % (b * 384) ≠ 0
  match k with
  | 1 => rows || src || dst
  | 2 => rows || src || strideBad (dDstride d) (dstRow d) || whole (dDstride d)
  | 3 => rows || strideBad (dSstride d) (srcRow d) || dst || whole (dSstride d)
  | 4 => rows || baseBad (dSrc d) || dst
  | 5 => rows || src || baseBad (dDst d)
  | 6 => rows || src || dst
  | 7 => rows || src || dst
  | 8 => dRows d = 0 || baseBad (dSrc d)
  | 9 => dRows d ≠ 1 || dElems d = 0 || baseBad (dSrc d)
  | 11 => rows || src || dDst d % 8 ≠ 0
  | _ => false

/-- Why a side is refused (R25, R227, R239, R364): the address and the cause of its record. -/
def sideDenied (s : State) (x : Side) : Option (Nat × Nat) :=
  match x.core with
  | some c => if storeSize < x.addr + x.len then some (storeAddr c x.addr, 1) else none
  | none =>
    if 2 ^ 54 ≤ x.addr then some (x.addr, 1)
    else if remoteAddr s x.far x.addr then
      if x.far && decide (addrLocal x.addr + x.len ≤ 2 ^ 43) then none else some (x.addr, 1)
    else memDenied s (addrLocal x.addr) x.len x.write

/-- Both ends on other devices. -/
def bothRemote (s : State) (d : BitVec 512) : Bool := dKind d = 1 && remoteAddr s true (dSrc d) && remoteAddr s true (dDst d)

/-- The refusal of a descriptor's addresses, the first found. -/
def addrDenied (s : State) (d : BitVec 512) : Option (Nat × Nat) :=
  if bothRemote s d then some (dSrc d, 1)
  else
    match (dSides d).filterMap (sideDenied s) with
    | x :: _ => some x
    | [] => none

/-- The engine of a core's service column (R238). -/
def serviceEngine (c : Nat) : Nat := if coreY c < 12 then coreX c else 32 + coreX c

/-- Cause UNIT (R231, R238, R393). -/
def dUnitBad (s : State) (e : Nat) (d : BitVec 512) : Bool :=
  let u := dUnit d
  match dKind d with
  | 2 => 31 < u || xsSize s e u = 0 || xsFromGrid s e u
  | 3 => 31 < u || xsSize s e u = 0 || !xsFromGrid s e u
  | 6 => 767 < u || serviceEngine u ≠ e
  | 7 => 767 < u || serviceEngine u ≠ e
  | 8 => 767 < u || serviceEngine u ≠ e
  | 9 => 767 < u || serviceEngine u ≠ e
  | 11 => 15 < u
  | _ => false

/-- The lowest of causes 1 to 7 that a descriptor meets (R231). -/
def dCause (s : State) (e : Nat) (d : BitVec 512) : Option Nat :=
  if 12 < dKind d then some 1
  else if dReserved d then some 2
  else if dKind d = 10 then sprgCause s d
  else if dFormatBad d then some 3
  else if dShapeBad s e d then some 4
  else if (addrDenied s d).isSome then some 5
  else if dUnitBad s e d then some 6
  else if dKind d = 8 && 8192 < dDst d + dRows d then some 7
  else none

/-- The address that the ADDRESS record of a SPRG descriptor names. -/
def sprgAddr (s : State) (d : BitVec 512) : Nat :=
  match (cReads d ++ cWrites d).find? fun r => decide (lastOffset s.config.interleave < r.1 + r.2 - 1) with
  | some r => hbmAddr s.config.interleave (dUnit d) r.1
  | none => cA d 1

/-- A descriptor in flight fails with the cause it meets (R231). -/
def failDescriptor (s : State) (r : Nat) (i : BitVec 32) (d : BitVec 512) (cause : Nat) : State :=
  if cause = 5 then
    match if dKind d = 10 then some (sprgAddr s d, 1) else addrDenied s d with
    | some (a, c) => failAddress s r i a c
    | none => failJob s r i 5
  else failJob s r i cause

/-- A descriptor fails with a cause it meets at the head of its ring (R231). -/
def failStart (s : State) (r : Nat) (d : BitVec 512) (cause : Nat) : State :=
  let a := if dKind d = 10 then some (sprgAddr s d, 1) else addrDenied s d
  let s := match a with
    | some (x, c) => if cause = 5 then raiseRec s { Rec.of s 4 c 2 1 r with addr := x } else s
    | none => s
  failHead s r (some d) cause

/-! ### Holds (R34, R171, R198, R232, R233, R238) -/

/-- The places of the rows of a side, one per row. -/
def Side.starts (x : Side) : List Nat := (List.range x.rows).map fun i => x.addr + i * x.stride

/-- The functions that hold the bytes of a side of this device. -/
def sideFns (s : State) (x : Side) : List Fn :=
  match x.core with
  | some _ => []
  | none =>
    if remoteAddr s x.far x.addr then []
    else x.starts.flatMap fun a => (pieces 4096 (addrLocal a) x.row).map fun p => memFn s p.1

/-- The link that a remote side would leave by is not yet ready: its bit has not risen in this thaw (R34, R35; log entry 24). One that has
left service is not waited for (R327). [DEDUCED: log entry 24] -/
def linkWaits (s : State) (r : Nat) (x : Side) : Bool :=
  if x.core.isNone && remoteAddr s x.far x.addr then
    let h := engineHalf (ringEngine r)
    let e := s.reg (.linkRoute (halfNum h) (addrDev s x.far x.addr))
    let l := Word.fld e (8 * ((s.dev + ringVc s r) % (Word.fld e 56 2 + 1))) 6
    Word.bit e 63 && decide (l < 36) && !(s.config.rises.any fun p => p.1 = .link l)
  else false

/-- A target is not ready (R34). -/
def targetWaits (s : State) (r : Nat) (d : BitVec 512) : Bool :=
  (dKind d = 10 && !s.ready (.spring (dUnit d))) || (dKind d = 11 && !s.ready (.chk (dUnit d)))
    || (dSides d).any fun x => linkWaits s r x || (sideFns s x).any fun f => !s.ready f

/-- The routers of the service path to a core (R238). -/
def servicePath (c : Nat) : List Nat :=
  if coreY c < 12 then (List.range (coreY c + 1)).map fun y => 32 * y + coreX c
  else (List.range (24 - coreY c)).map fun i => 32 * (coreY c + i) + coreX c

/-- No part on the path is ACTIVE or STOPPING. -/
def pathClear (s : State) (c : Nat) : Bool :=
  (servicePath c).all fun r => !(s.router r).f.live && !(s.router r).b.live

/-- The parts that an SLD writes. -/
def sldParts (d : BitVec 512) : List Ctx :=
  (if fld (dDst d) 0 1 = 1 then [.F] else []) ++ (if fld (dDst d) 1 1 = 1 then [.B] else [])

/-- A part that an SLD writes is not EMPTY (R198). -/
def sldWaits (s : State) (d : BitVec 512) : Bool := (sldParts d).any fun c => ((s.router (dUnit d)).part c).state ≠ .empty

/-- A range rounded outward to 4 KiB (R233), with its device; core stores by local address. -/
def sideRange (s : State) (x : Side) : Nat × Nat × Nat :=
  let a := match x.core with
    | some c => storeAddr c x.addr
    | none => addrLocal x.addr
  (match x.core with
    | some _ => s.dev
    | none => addrDev s x.far x.addr, a / 4096, (a + x.len - 1) / 4096)

/-- Two rounded ranges overlap. -/
def rangesMeet (a b : Nat × Nat × Nat) : Bool := a.1 = b.1 && decide (a.2.1 ≤ b.2.2) && decide (b.2.1 ≤ a.2.2)

/-- A kind that starts alone (R233, R266). -/
def dAlone (kind : Nat) : Bool := kind = 4 || kind = 5 || kind = 10

/-- A descriptor must wait for an earlier one of its ring (R233). -/
def hazard (s : State) (old new : BitVec 512) : Bool :=
  dAlone (dKind old) || dAlone (dKind new) ||
    (dSides old).any fun x => (dSides new).any fun y =>
      (x.write || y.write) && rangesMeet (sideRange s x) (sideRange s y)

/-- The window is full (R219): 8 descriptors of the ring are in flight, or 64 of its engine. -/
def windowFull (s : State) (r : Nat) : Bool :=
  let e := ringEngine r
  let inEngine := ((List.range 128).map fun i => (s.ring (128 * e + i)).jobs.length).foldl (· + ·) 0
  8 ≤ (s.ring r).jobs.length || 64 ≤ inEngine

/-- The hold that comes before a descriptor's checks: 7 window, 6 FENCE. -/
def earlyHold (s : State) (r : Nat) (d : BitVec 512) : Option Nat :=
  if windowFull s r then some 7
  else if fld (dFlags d) 0 1 = 1 && !(s.ring r).jobs.isEmpty then some 6
  else none

/-- The hold of a well-formed descriptor: 8 hazard, 1 target not ready, 2 ILD, 3 SLD, 4 service path. -/
def lateHold (s : State) (r : Nat) (d : BitVec 512) : Option Nat :=
  let k := dKind d
  let b := (s.ctx ⟨dUnit d, .B⟩).state
  if (s.ring r).jobs.any fun j => hazard s j.desc d then some 8
  else if targetWaits s r d then some 1
  else if k = 8 && (b = .running || b = .frozen) then some 2
  else if k = 9 && sldWaits s d then some 3
  else if (k = 6 || k = 7 || k = 8 || k = 9) && !pathClear s (dUnit d) then some 4
  else none

end Sys2Proof.Machine
end

