-- ==== Sys2Proof/Machine/SlotLoad.lean ====
section
/-! DEFINITION. The slot table image and the checks of a slot-load (R183, R185, R193, R194, R196 to R198). -/

namespace Sys2Proof.Machine

open Sys2Proof

/-- The header of an image (R196). -/
structure SlotHeader where
  roundLen : Nat
  parts : Nat
  hoff : List Nat
  fEntries : Nat
  bEntries : Nat
  fStreams : Nat
  bStreams : Nat
  deriving DecidableEq, Repr

def slotHeader (im : List Byte) : SlotHeader :=
  { roundLen := bytesAt im 4 2, parts := bytesAt im 6 1, hoff := (List.range 16).map fun p => bytesAt im (8 + p) 1,
    fEntries := bytesAt im 0x18 2, bEntries := bytesAt im 0x1A 2, fStreams := bytesAt im 0x1C 1,
    bStreams := bytesAt im 0x1D 1 }

/-- The header keeps R196 for an image of `len` bytes under a round length. [DEDUCED: log entry 41] -/
def headerGood (s : State) (im : List Byte) (len dst : Nat) : Bool :=
  let h := slotHeader im
  let sum (xs : List Nat) : Nat := xs.foldl (· + ·) 0
  decide (64 ≤ len) && im.take 4 = ascii "KSLT" && h.roundLen = s.regFld .gridCtl 0 11 && h.parts = dst && h.parts < 4
    && bytesAt im 7 1 = 0 && bytesAt im 0x1E 34 = 0
    && h.hoff.all (fun x => x % 8 = 0) && decide (sum (h.hoff.take 4) ≤ 32) && decide (sum (h.hoff.drop 4) ≤ 96)
    && decide (h.fEntries ≤ 1024) && decide (h.bEntries ≤ 3072) && decide (h.fStreams ≤ 8) && decide (h.bStreams ≤ 24)
    && (h.parts % 2 = 1 || (h.fEntries = 0 && h.fStreams = 0)) && (2 ≤ h.parts || (h.bEntries = 0 && h.bStreams = 0))
    && len = 64 + 32 * (h.fStreams + h.bStreams) + 8 * (h.fEntries + h.bEntries)

/-- The stream descriptors of an image with their stream numbers. -/
def imageStreams (im : List Byte) : List (Nat × BitVec 256) :=
  let h := slotHeader im
  let at_ (i : Nat) : BitVec 256 := BitVec.ofNat 256 (bytesAt im (64 + 32 * i) 32)
  (List.range h.fStreams).map (fun i => (i, at_ i)) ++ (List.range h.bStreams).map fun i => (8 + i, at_ (h.fStreams + i))

/-- The entries of a part of an image. -/
def imageEntries (im : List Byte) (c : Ctx) : List (BitVec 64) :=
  let h := slotHeader im
  let base := 64 + 32 * (h.fStreams + h.bStreams)
  let at_ (i : Nat) : BitVec 64 := BitVec.ofNat 64 (bytesAt im (base + 8 * i) 8)
  match c with
  | .F => (List.range h.fEntries).map at_
  | .B => (List.range h.bEntries).map fun i => at_ (h.fEntries + i)

/-- A counter field of a stream descriptor. -/
def counterField (n : Nat) : Bool := n < 48 || n = 63

/-- Buffers in the core store (R183, R184). -/
def buffersGood (base bufs beats : Nat) : Bool :=
  base % 64 = 0 && decide (1 ≤ bufs) && decide (base + bufs * (beats * 384) ≤ storeSize)

/-- A stream descriptor of a router keeps R183 and the partitions of R185 and R198. -/
def streamGood (r : Nat) (hoff : List Nat) (n : Nat) (d : BitVec 256) : Bool :=
  if sdFld d 0 1 = 0 then d = 0
  else
    let src := sdSource d
    let tgt := sdTarget d
    let fromX := src && sdSrcKind d = 6
    let toX := tgt && sdTgtKind d = 6
    let fromH := src && sdSrcKind d = 5
    decide (sdFld d 0 1 ≤ 3) && decide (1 ≤ sdBeats d) && decide (sdBeats d ≤ 64)
      && counterField (sdDataSc d) && counterField (sdSentSc d) && counterField (sdCreditSc d) && counterField (sdArrSc d)
      && (!src || sdSrcKind d = 4 || sdSrcKind d = 5 || sdSrcKind d = 6) && (!tgt || sdTgtKind d = 4 || sdTgtKind d = 6)
      && (!(src && sdSrcKind d = 4) || (decide (1 ≤ sdDstep d) && buffersGood (sdSrcBase d) (sdSrcBufs d) (sdBeats d)))
      && (!(tgt && sdTgtKind d = 4) || buffersGood (sdTgtBase d) (sdTgtBufs d) (sdBeats d))
      && (if fromH then decide (sdPort d < 16) && (decide (sdPort d < 4) == decide (n < 8))
            && decide (2 * sdBeats d ≤ hoff.getD (sdPort d) 0)
          else sdPort d = 0)
      && (if fromX || toX then decide (sdXid d < 32) && (coreY r = 0 || coreY r = 23) else sdXid d = 0)
      && !(fromX && toX)

/-- A neighbour's port, or none. -/
def votePort (p : Nat) : Bool := p < 4 || p = 7

/-- An entry keeps R193 and R197. -/
def entryGood (c : Ctx) (len : Nat) (e : BitVec 64) : Bool :=
  Word.fld e 16 11 = 0 && decide (eCycle e < len) && streamCtx (eStream e) = c && decide (eOp e ≤ 1) &&
    (if ePlane e = 0 then
      decide (eOut e ≤ 4) && decide (eInA e ≤ 5) && !eLocal e && eInC e = 7
        && (if eOp e = 1 then decide (eInB e < 4) || eInB e = 5 else eInB e = 7)
    else
      (decide (eOut e < 4) || eOut e = 6) && eTag e = 0 && eBeat e = 0 &&
        (if eOp e = 0 then votePort (eInA e) && votePort (eInB e) && votePort (eInC e)
        else (decide (eInA e < 4) || eInA e = 6) && eInB e = 7 && eInC e = 7 && !eLocal e))

/-- Entries in increasing order of their cycles. -/
def inCycleOrder : List (BitVec 64) → Bool
  | [] => true
  | [_] => true
  | a :: b :: es => decide (eCycle a ≤ eCycle b) && inCycleOrder (b :: es)

/-- Whether an entry uses the core store, or the hand-off buffer. -/
def usesL (e : BitVec 64) : Bool := ePlane e = 0 && (eInA e = 4 || eOut e = 4)
def usesH (e : BitVec 64) : Bool := ePlane e = 0 && (eInA e = 5 || (eOp e = 1 && eInB e = 5))

/-- The cycles between two cycles of a round, the shorter way round. -/
def cycleGap (len a b : Nat) : Nat := min ((a + len - b) % len) ((b + len - a) % len)

/-- Two entries may stand in one table (R193, R194, R198). -/
def entriesAgree (len : Nat) (a b : BitVec 64) : Bool :=
  !(ePlane a = ePlane b && eCycle a = eCycle b && eOut a = eOut b)
    && !(usesH a && usesH b && eCycle a = eCycle b)
    && (!(usesL a && usesL b) || decide (4 ≤ cycleGap len (eCycle a) (eCycle b))
      || (eCycle a = eCycle b && eInA a = 4 && eInA b = 4 && eStream a = eStream b && eBeat a = eBeat b && eTag a = eTag b))

/-- Every two entries agree. -/
def allAgree (len : Nat) : List (BitVec 64) → Bool
  | [] => true
  | e :: es => es.all (entriesAgree len e) && allAgree len es

/-- The entries of the parts that an image does not write. -/
def heldEntries (x : Router) (parts : Nat) : List (BitVec 64) :=
  (if parts % 2 = 1 then [] else x.f.entries) ++ (if 2 ≤ parts then [] else x.b.entries)

/-- A slot-load passes the checks of R198. -/
def slotLoadGood (s : State) (r : Nat) (im : List Byte) (len dst : Nat) : Bool :=
  headerGood s im len dst &&
    (let h := slotHeader im
     let ds := imageStreams im
     let fs := imageEntries im .F
     let bs := imageEntries im .B
     let endpoint (n : Nat) : Bool := ds.any fun d => d.1 = n && sdFld d.2 0 1 ≠ 0
     let beatGood (e : BitVec 64) : Bool :=
       match ds.find? fun d => d.1 = eStream e && sdFld d.2 0 1 ≠ 0 with
       | some d => !(usesL e || usesH e) || decide (eBeat e < sdBeats d.2)
       | none => true
     ds.all (fun d => streamGood r h.hoff d.1 d.2) && fs.all (entryGood .F h.roundLen) && bs.all (entryGood .B h.roundLen)
       && inCycleOrder fs && inCycleOrder bs && (fs ++ bs).all beatGood
       && allAgree h.roundLen (fs ++ bs ++ heldEntries (s.router r) h.parts)
       && (fs ++ bs).all (fun e => !(ePlane e = 1 && eOp e = 0 && eLocal e) || endpoint (eStream e)))

/-- A part loaded from an image (R198). -/
def loadedPart (im : List Byte) (c : Ctx) : Part :=
  let ds := (imageStreams im).filter fun d => streamCtx d.1 = c && sdFld d.2 0 1 ≠ 0
  ⟨.loaded, 0, imageEntries im c, ds⟩

/-- The parts that an image holds are loaded; their hand-off partitions take the image's sizes and are empty (log entry 26).
[DEDUCED: log entry 26] -/
def loadParts (x : Router) (im : List Byte) : Router :=
  let h := slotHeader im
  let mine (p : Nat) : Bool := if partitionOf p = .F then h.parts % 2 = 1 else 2 ≤ h.parts
  let x := if h.parts % 2 = 1 then { x with f := loadedPart im .F } else x
  let x := if 2 ≤ h.parts then { x with b := loadedPart im .B } else x
  { x with
    hoffRows := (List.range 16).map fun p => if mine p then h.hoff.getD p 0 else x.hoffRows.getD p 0
    hoff := x.hoff.filter fun q => !mine q.1 }

end Sys2Proof.Machine
end

