-- ==== Sys2Proof/Machine/Edge.lean ====
section
/-! DEFINITION. How an edge engine carries a descriptor out: its requests, its conversions, its ends (R171, R198, R221, R227 to R239,
R242, R246). -/

namespace Sys2Proof.Machine

open Sys2Proof

/-! ### Requests of a descriptor -/

/-- A job changed in place. -/
def modJob (s : State) (r : Nat) (i : BitVec 32) (f : Job → Job) : State :=
  s.modRing r fun x => match x.job i with
    | some j => x.putJob (f j)
    | none => x

/-- A job that goes on: in flight and not failed. -/
def jobAlive (s : State) (r : Nat) (i : BitVec 32) : Bool :=
  match (s.ring r).job i with
  | some j => (match j.stage with
    | .failed _ => false
    | _ => true)
  | none => false

/-- The descriptor of a job is of a sort. -/
def jobIs (s : State) (r : Nat) (i : BitVec 32) (p : BitVec 512 → Bool) : Bool :=
  match (s.ring r).job i with
  | some j => p j.desc
  | none => false

/-- A read of a descriptor stays uncorrectable: it fails with UNCORR (R231); a CHK descriptor fails at its unit, in the unit's order
(R395, R398). -/
def readFails (s : State) (r : Nat) (i : BitVec 32) : State :=
  if jobIs s r i fun d => dKind d = 11 then modJob s r i fun j => { j with out := j.out - 1, spoiled := true }
  else failJob s r i 10

/-- A local request of a descriptor (R242). -/
def addReq (s : State) (r : Nat) (i : BitVec 32) (isWrite : Bool) (place : Nat) (a n : Nat) (data : List Byte) : State :=
  let s := modJob s r i fun j => { j with out := j.out + 1 }
  { s with
    reqs := s.reqs ++ [⟨s.nextReq, memArb s a, ringRequester s r, ringFrame s r, isWrite, a, n, data, r, i, place, false, 0, 0, 0,
      s.time.elapsed, false, false⟩]
    nextReq := s.nextReq + 1 }

/-- Remote requests of a descriptor: they go out as its engine has room for them (R219). -/
def addFar (s : State) (qs : List FarReq) : State := pumpFar { s with far := s.far ++ qs }

/-- n bytes at an address are asked for; byte x of the address goes to `place` plus its distance from the address's unit. -/
def issueRead (s : State) (r : Nat) (i : BitVec 32) (place a n : Nat) : State :=
  let la := addrLocal a
  let far := jobIs s r i readsFar
  if !jobAlive s r i then s
  else if remoteAddr s far a then
    let s := modJob s r i fun j => { j with out := j.out + remoteCount la n }
    addFar s ((remoteReads la n place).map fun p => ⟨r, i, false, addrDev s far a, p.1, p.2.1, p.2.2, []⟩)
  else (pieces 256 la n).foldl (fun s p => addReq s r i false (place + (p.1 - la / 64 * 64)) p.1 p.2 []) s

/-- Bytes are written at an address. -/
def issueWrite (s : State) (r : Nat) (i : BitVec 32) (a : Nat) (bs : List Byte) : State :=
  let la := addrLocal a
  let far := jobIs s r i writesFar
  if !jobAlive s r i then s
  else if remoteAddr s far a then
    let s := modJob s r i fun j => { j with out := j.out + remoteCount la bs.length }
    let (ps, s) := remoteWrites s la bs
    addFar s (ps.map fun p => ⟨r, i, true, addrDev s far a, p.1, p.2.length, 0, p.2⟩)
  else (pieces 256 la bs.length).foldl (fun s p => addReq s r i true 0 p.1 p.2 ((bs.drop (p.1 - la)).take p.2)) s

/-- The room that a row takes in the buffer of a job. -/
def rowPad (n : Nat) : Nat := ceilDiv n 64 * 64 + 64

/-- Rows are asked for, row k into the buffer at base + k × rowPad. -/
def issueRows (s : State) (r : Nat) (i : BitVec 32) (base row : Nat) (starts : List Nat) : State :=
  starts.zipIdx.foldl (fun s p => issueRead s r i (base + p.2 * rowPad row) p.1 row) s

/-- n bytes of an address as they lie in the buffer. -/
def bufRow (j : Job) (base k row a n : Nat) : List Byte := Memory.readN j.buf (base + k * rowPad row + a % 64) n

/-- The rows of a source in the buffer. -/
def bufRows (j : Job) (base row : Nat) (starts : List Nat) : List (List Byte) :=
  starts.zipIdx.map fun p => bufRow j base p.2 row p.1 row

/-- The starts of n rows. -/
def rowStarts (a stride n : Nat) : List Nat := (List.range n).map fun i => a + i * stride

/-- A job goes on to write rows, row k at the kth place. -/
def writeRows (s : State) (r : Nat) (i : BitVec 32) (starts : List Nat) (rows : List (List Byte)) : State :=
  (starts.zip rows).foldl (fun s p => issueWrite s r i p.1 p.2) (modJob s r i fun j => { j with stage := .writing })

/-- A job has performed its data effects. -/
def finishJob (s : State) (r : Nat) (i : BitVec 32) : State := modJob s r i fun j => { j with stage := .done, buf := [] }

/-! ### Conversion (R128, R138, R140) -/

/-- Rows through the path: the engine's flags, and a NaN trap noted in the job (log entry 27), its
conversion code SFMT × 16 + TFMT (log entry 119). [DEDUCED: log entry 27; DESIGN CHOICE: log entry 119] -/
def convRows (s : State) (r : Nat) (j : Job) (rows : List (List Byte)) : List (List Byte) × State :=
  let d := j.desc
  let rs := rows.zipIdx.map fun p => convRow d (dElems d) (p.2 * dElems d) (ofBytes p.1)
  let e := ringEngine r
  let s := addEdgeFlags s e (rs.foldl (fun f x => f ||| x.flags) 0)
  let s := if rs.any (·.nan) && trapOn s 7 then
      let s := nanTrap s (nanRec0 3 0 e (dSfmt d * 16 + dTfmt d) r) (Rec.of s 6 4 2 1 r)
      modJob s r j.idx fun j => { j with nan := true }
    else s
  (rs.map fun x => toBytes (dstRow d) x.bits, s)

/-! ### Staging (R219 to R222) -/

/-- No earlier descriptor of the ring still moves instances of the same stream (log entry 25). [DEDUCED: log entry 25] -/
def streamTurn (x : Ring) (j : Job) : Bool :=
  (x.jobs.takeWhile fun y => y.idx ≠ j.idx).all fun y =>
    dKind y.desc ≠ dKind j.desc || dUnit y.desc ≠ dUnit j.desc || (match y.stage with
      | .done => true
      | .skipped => true
      | _ => false)

/-- One instance is staged from an image, where the stream has room (R221). -/
def stageOne (r : Nat) (i : BitVec 32) (s : State) : State :=
  match (s.ring r).job i with
  | none => s
  | some j =>
    let e := ringEngine r
    let n := dUnit j.desc
    let b := xsBeats s e n
    let total := dRows j.desc * dDstride j.desc / (b * 384)
    let filled := s.xsCount e n
    if j.stage ≠ .writing || !streamTurn (s.ring r) j || total ≤ j.moved
        || xsCap s e n ≤ (filled - (s.xs e n).sent).toNat then s
    else
      let s := (List.range b).foldl (fun s k =>
        s.setSlot (xsSlot s e n filled k) ⟨beatOf (Memory.readN j.buf ((j.moved * b + k) * 384) 384), false⟩) s
      let s := modJob (s.setXsCount e n (filled + 1)) r i fun j => { j with moved := j.moved + 1 }
      if j.moved + 1 = total then finishJob s r i else s

/-- A record of class ECC for a staging beat (R406). -/
def stagingError (s : State) (r : Nat) : State := raiseEcc s (Rec.of s 5 7 2 1 r)

/-- One instance is taken out of staging, where it has arrived (R221); an uncorrectable beat fails the descriptor (R406). -/
def drainOne (r : Nat) (i : BitVec 32) (s : State) : State :=
  match (s.ring r).job i with
  | none => s
  | some j =>
    let e := ringEngine r
    let n := dUnit j.desc
    let b := xsBeats s e n
    let total := dRows j.desc * dSstride j.desc / (b * 384)
    let drained := s.xsCount e n
    if j.stage ≠ .reading || !streamTurn (s.ring r) j || total ≤ j.moved || !ahead (s.xs e n).arrived drained then s
    else
      let slots := (List.range b).map fun k => s.slot (xsSlot s e n drained k)
      let bad := slots.filter (·.uncorr)
      if !bad.isEmpty then failJob (bad.foldl (fun s _ => stagingError s r) s) r i 10
      else
        let bs := slots.flatMap fun x => toBytes 384 x.data.toNat
        modJob (s.setXsCount e n (drained + 1)) r i fun j =>
          { j with moved := j.moved + 1, buf := Memory.writeN j.buf (j.moved * b * 384) bs }

/-- A step repeated. -/
def repeatStep (f : State → State) : Nat → State → State
  | 0, s => s
  | n + 1, s => repeatStep f n (f s)

/-! ### The service path (R171, R198, R238, R239) -/

/-- What the kth beat of rows carries (R238): of each row that it meets, the place and the bytes. -/
def beatSlices (starts : List Nat) (n k : Nat) : List (Nat × Nat × Nat) :=
  (starts.zipIdx.map fun p =>
    let a := max (p.2 * n) (384 * k)
    let b := min (p.2 * n + n) (384 * k + 384)
    (p.1 + (a - p.2 * n), a, b - a)).filter fun x => decide (0 < x.2.2)

/-- A beat of a CSLD: its bytes go to the core store. -/
def loadBeat (s : State) (c : Nat) (starts : List Nat) (n : Nat) (buf : List Host.Cell) (k : Nat) : State :=
  (beatSlices starts n k).foldl (fun s x => storeWrite s c x.1 (Memory.readN buf x.2.1 x.2.2)) s

/-- The bytes of a beat of a CSRD: none where a word is uncorrectable. -/
def storeBeat (c : Nat) (buf : List Host.Cell) : List (Nat × Nat × Nat) → State → Option (List Host.Cell) × State
  | [], s => (some buf, s)
  | x :: xs, s =>
    match storeRead s c x.1 x.2.2 with
    | (none, t) => (none, t)
    | (some bs, t) => storeBeat c (Memory.writeN buf x.2.1 bs) xs t

/-- The offsets of the uncorrectable words that slices of a core store meet. -/
def badWords (s : State) (c : Nat) (xs : List (Nat × Nat × Nat)) : List Nat :=
  (xs.flatMap fun x => ((List.range (wordCount x.1 x.2.2)).map fun k => 8 * (x.1 / 8 + k)).filter fun w =>
    match SMap.get? s.marks (storeAddr c w) with
    | some (.bad _) => true
    | _ => false).eraseDups

/-- Words written to an instruction memory, each with a fresh code (R171). -/
def loadInstrs (s : State) (c first : Nat) (ws : List Word) : State :=
  ws.zipIdx.foldl (fun s p =>
    { s with
      imem := SMap.set s.imem (c * 8192 + first + p.2) p.1 0
      imarks := SMap.erase s.imarks (c * 8192 + first + p.2) }) s

/-! ### What follows when the requests of a stage have returned -/

/-- The entries of the list of a GATHER or a SCATTER. -/
def listEntries (j : Job) (a n : Nat) : List Nat :=
  (List.range n).map fun k => ofBytes (Memory.readN j.buf (a % 64 + 8 * k) 8)

/-- Why a list entry is refused (R246; log entry 28): SHAPE where it is no multiple of 32, ADDRESS where the row crosses a 4 KiB
boundary or leaves HBM and the lake. [DEDUCED: log entry 28] -/
def entryCause (s : State) (write : Bool) (row a : Nat) : Option (Nat × Nat × Nat) :=
  if a % 32 ≠ 0 then some (4, 0, 0)
  else if a % 4096 + row > 4096 then some (5, a, 1)
  else if 2 ^ 43 ≤ a then some (5, a, 1)
  else match memDenied s (addrLocal a) row write with
    | some (x, c) => some (5, x, c)
    | none => none

/-- The first list entry refused fails the descriptor. -/
def checkList (s : State) (r : Nat) (i : BitVec 32) (write : Bool) (row : Nat) (as : List Nat) : Option State :=
  match as.filterMap (entryCause s write row) with
  | [] => none
  | (c, a, k) :: _ => some (if c = 5 then failAddress s r i a k else failJob s r i c)

/-- A CHK descriptor whose bytes have come is delivered to its unit in ring order, while the queue of 8 has room (R395). -/
def pushChk (s : State) (r : Nat) (j : Job) (bytes : List Byte) : State :=
  let x := s.ring r
  let u := dUnit j.desc
  let c := SMap.getD s.chks u ChkUnit.reset
  let turn := (x.jobs.takeWhile fun y => y.idx ≠ j.idx).all fun y => dKind y.desc ≠ 11 || (match y.stage with
    | .reading => false
    | _ => true)
  if decide (c.queue.length < 8) && turn then
    modJob { s with chks := SMap.set s.chks u { c with queue := c.queue ++ [⟨r, j.idx, j.desc, bytes, false, j.spoiled⟩] } ChkUnit.reset }
      r j.idx fun j => { j with stage := .unit, buf := [] }
  else s

/-- The addresses of a descriptor's source and destination rows, and the source rows in its buffer. -/
def jobSrcs (d : BitVec 512) : List Nat := rowStarts (dSrc d) (dSstride d) (dRows d)
def jobDsts (d : BitVec 512) : List Nat := rowStarts (dDst d) (dDstride d) (dRows d)
def jobRows (j : Job) : List (List Byte) := bufRows j 0 (srcRow j.desc) (jobSrcs j.desc)

/-- The bytes of a service transfer have come: its beats go with the service table (R238). -/
def readyBeats (s : State) (r : Nat) (i : BitVec 32) (bs : List Byte) : State :=
  modJob s r i fun j => { j with stage := .writing, buf := Memory.writeN [] 0 bs, moved := 0 }

/-- A descriptor with no request out goes on as far as it can; the beats of the service path go with the cycles (R238). -/
def moveJob (r : Nat) (s : State) (i : BitVec 32) : State :=
  match (s.ring r).job i with
  | none => s
  | some j =>
    let d := j.desc
    let k := dKind d
    let e := ringEngine r
    if j.out ≠ 0 then s
    else if j.stage = .reading then
      match k with
      | 1 => writeRows s r i (jobDsts d) (jobRows j)
      | 2 =>
        let (out, s) := convRows s r j (jobRows j)
        let image := (out.zipIdx).foldl (fun m p => Memory.writeN m (p.2 * dDstride d) p.1) []
        let total := dRows d * dDstride d / (xsBeats s e (dUnit d) * 384)
        repeatStep (stageOne r i) total (modJob s r i fun j => { j with stage := .writing, buf := image })
      | 3 =>
        let total := dRows d * dSstride d / (xsBeats s e (dUnit d) * 384)
        let s := repeatStep (drainOne r i) total s
        (match (s.ring r).job i with
          | none => s
          | some j =>
            if j.stage = .reading && decide (total ≤ j.moved) then
              let got := (List.range (dRows d)).map fun n => Memory.readN j.buf (n * dSstride d) (srcRow d)
              let (out, s) := convRows s r j got
              writeRows s r i (jobDsts d) out
            else s)
      | 4 =>
        let as := listEntries j (dSrc d) (dRows d)
        if j.listed then writeRows s r i (jobDsts d) (bufRows j (rowPad (8 * dRows d)) (srcRow d) as)
        else
          (match checkList s r i false (srcRow d) as with
            | some t => t
            | none =>
              issueRows (modJob s r i fun j => { j with listed := true }) r i (rowPad (8 * dRows d)) (srcRow d) as)
      | 5 =>
        let as := listEntries j (dDst d) (dRows d)
        (match checkList s r i true (srcRow d) as with
          | some t => t
          | none => writeRows s r i as (bufRows j (rowPad (8 * dRows d)) (srcRow d) (jobSrcs d)))
      | 6 =>
        let (out, s) := convRows s r j (jobRows j)
        readyBeats s r i out.flatten
      | 8 => readyBeats s r i (bufRow j 0 0 (8 * dRows d) (dSrc d) (8 * dRows d))
      | 9 => readyBeats s r i (bufRow j 0 0 (dElems d) (dSrc d) (dElems d))
      | 11 => pushChk s r j (jobRows j).flatten
      | _ => s
    else if j.stage = .writing then
      if k = 2 then repeatStep (stageOne r i) (dRows d * dDstride d / (xsBeats s e (dUnit d) * 384)) s
      else if k = 6 || k = 8 || k = 9 then s
      else finishJob s r i
    else s

/-- Every descriptor of a ring goes on as far as it can, in ring order. In frost none does (R413). -/
def settle (s : State) (r : Nat) : State :=
  if s.working && (s.ring r).state ≠ .resetting then (s.ring r).jobs.foldl (fun s j => moveJob r s j.idx) s else s

/-- The beats of a service transfer (R238). -/
def serviceBytes (d : BitVec 512) : Nat :=
  match dKind d with
  | 6 => dRows d * dstRow d
  | 7 => dRows d * srcRow d
  | 8 => 8 * dRows d
  | _ => dElems d

/-- A descriptor whose beats go by the service path now, towards the core or from it. -/
def inService (toCore : Bool) (j : Job) : Bool :=
  let k := dKind j.desc
  j.out = 0 && (if toCore then j.stage = .writing && (k = 6 || k = 8 || k = 9) else j.stage = .reading && k = 7)

/-- The last beat of a service transfer has moved. -/
def endService (s : State) (r : Nat) (j : Job) : State :=
  let d := j.desc
  match dKind d with
  | 7 =>
    let rows := (List.range (dRows d)).map fun n => Memory.readN j.buf (n * srcRow d) (srcRow d)
    let (out, s) := convRows s r j rows
    writeRows s r j.idx (jobDsts d) out
  | 9 =>
    let im := Memory.readN j.buf 0 (dElems d)
    if slotLoadGood s (dUnit d) im (dElems d) (dDst d) then finishJob (s.modRouter (dUnit d) fun x => loadParts x im) r j.idx
    else failJob s r j.idx 8
  | _ => finishJob s r j.idx

/-- One beat of a service transfer. -/
def serviceBeat (s : State) (r : Nat) (j : Job) : State :=
  let d := j.desc
  let k := j.moved
  let moved (j : Job) (s : State) : State :=
    let j := { j with moved := k + 1 }
    let s := modJob s r j.idx fun _ => j
    if serviceBytes d ≤ 384 * (k + 1) then endService s r j else s
  match dKind d with
  | 6 => moved j (loadBeat s (dUnit d) (jobDsts d) (dstRow d) j.buf k)
  | 7 =>
    let xs := beatSlices (jobSrcs d) (srcRow d) k
    (match storeBeat (dUnit d) j.buf xs s with
      | (some buf, s) => moved { j with buf := buf } s
      | (none, s) => failJob ((badWords s (dUnit d) xs).foldl (fun s w => storeEcc s (dUnit d) w) s) r j.idx 10)
  | 8 =>
    let n := min 48 (dRows d - 48 * k)
    moved j (loadInstrs s (dUnit d) (dDst d + 48 * k)
      ((List.range n).map fun i => BitVec.ofNat 64 (ofBytes (Memory.readN j.buf (384 * k + 8 * i) 8))))
  | _ => moved j s

/-- A service transfer in its slot of the table: its next beat moves; where a part on its path runs it stops, and begins again from its first
beat once the path is clear; an SLD waits for the parts it writes (R198, R238). -/
def serviceTransfer (s : State) (r : Nat) (j : Job) : State :=
  if !pathClear s (dUnit j.desc) then modJob s r j.idx fun j => { j with moved := 0 }
  else if dKind j.desc = 9 && sldWaits s j.desc then s
  else serviceBeat s r j

/-- The service table of an engine in one direction: one beat, of the first transfer of its rings (R238). -/
def serviceEngineTick (toCore : Bool) (s : State) (e : Nat) : State :=
  let all := s.rings.flatMap fun x =>
    if ringEngine x.1 = e && x.2.state ≠ .resetting then (x.2.jobs.filter (inService toCore)).map fun j => (x.1, j) else []
  match all with
  | (r, j) :: _ => settle (serviceTransfer s r j) r
  | [] => s

/-- The service tables move a beat in each direction every four cycles (R238). -/
def serviceTick (s : State) : State :=
  if s.working && s.grid.now % 4 = 0 then
    let es := (s.rings.map fun x => ringEngine x.1).eraseDups
    es.foldl (fun s e => serviceEngineTick false (serviceEngineTick true s e) e) s
  else s

/-! ### Starting (R222, R226, R231, R232) -/

/-- A command of a spring sent along the stack port's command path (R266). -/
def sendSpring (s : State) (r : Nat) (i : BitVec 32) (d : BitVec 512) : State :=
  let n := dUnit d
  let x := SMap.getD s.springs n Spring.reset
  let x := { x with arriving := x.arriving ++ [⟨r, i, ringFrame s r, 0, d, 0, false, false⟩] }
  { s with springs := SMap.set s.springs n x Spring.reset }

/-- The work of a started descriptor begins: the requests it makes at once. -/
def beginJob (s : State) (r : Nat) (i : BitVec 32) (d : BitVec 512) : State :=
  match dKind d with
  | 0 => finishJob s r i
  | 1 => issueRows s r i 0 (srcRow d) (jobSrcs d)
  | 2 => issueRows s r i 0 (srcRow d) (jobSrcs d)
  | 4 => issueRead s r i 0 (dSrc d) (8 * dRows d)
  | 5 => issueRows (issueRead s r i 0 (dDst d) (8 * dRows d)) r i (rowPad (8 * dRows d)) (srcRow d) (jobSrcs d)
  | 6 => issueRows s r i 0 (srcRow d) (jobSrcs d)
  | 8 => issueRead s r i 0 (dSrc d) (8 * dRows d)
  | 9 => issueRead s r i 0 (dSrc d) (dElems d)
  | 10 => modJob (sendSpring s r i d) r i fun j => { j with stage := .unit }
  | 11 => issueRows s r i 0 (srcRow d) (jobSrcs d)
  | _ => s

/-- The entry of a ring at an index: its port is not free for the fetch, not there yet, unreadable with a cause and the state after, or a descriptor. -/
inductive Fetched where
  | busy
  | absent
  | bad (cause : Nat) (s : State)
  | desc (d : BitVec 512) (s : State)

/-- The entry at SI of a stream-fed ring (R222): descriptor i mod 6B of the oldest instance in staging. -/
def fetchStream (s : State) (r : Nat) : Fetched :=
  let e := ringEngine r
  let n := ringFeed s r
  let drained := s.xsCount e n
  let k := (s.ring r).si.toNat % (6 * xsBeats s e n)
  if xsSize s e n = 0 || !xsFromGrid s e n || !ahead (s.xs e n).arrived drained then .absent
  else
    let x := s.slot (xsSlot s e n drained (k / 6))
    if x.uncorr then .bad 10 (stagingError s r)
    else .desc (BitVec.ofNat 512 (x.data.toNat / 2 ^ (512 * (k % 6)))) s

/-- The entry at SI of a memory-fed ring. -/
def fetchMemory (s : State) (r : Nat) : Fetched :=
  let a := s.regFld (.edgeRingBase r) 6 37 * 64 + (s.ring r).si.toNat % ringSize s r * 64
  match memDenied s a 64 false with
  | some (x, c) => .bad 5 (raiseRec s { Rec.of s 4 c 2 1 r with addr := x })
  | none =>
    if !portFree s a 64 (ringRequester s r) false then .busy
    else
    match portRead (passPort s a 64 (ringRequester s r)) a 64 with
    | (some bs, s) => .desc (BitVec.ofNat 512 (ofBytes bs)) s
    | (none, s) => .bad 10 s

/-- The entry at SI, from the engine's copy where it failed before (R250). -/
def fetchHead (s : State) (r : Nat) : Fetched :=
  match (s.ring r).copy with
  | some d => .desc d s
  | none => if ringStreamFed s r then fetchStream s r else fetchMemory s r

/-- What a WAIT waits for (R230). -/
def waitOf (s : State) (d : BitVec 512) : ScWait :=
  let ring := fld (dSrc d) 63 1 = 1
  ⟨ring, if ring then fld (dSrc d) 0 13 else fld (dSrc d) 0 6, BitVec.ofNat 32 (dDst d), fld (dSeed d) 0 48, s.time.elapsed,
    0, if ring then 0 else fld (dSrc d) 6 10, false⟩

/-- A WAIT at the head (R211, R230): it fails where its counter is poisoned already, is done where its condition holds, fails where its
timeout is 0, and holds its ring otherwise. -/
def startWait (s : State) (r : Nat) (d : BitVec 512) : State :=
  let w := waitOf s d
  let o := ringWaitObj s w
  if o.poisoned s then failHead (syncError s 2 o (ringSource s r) w.target (o.value s)) r (some d) 13
  else if waitHolds (o.value s) w.target then startJob s r d .done
  else if w.timeout = 0 then failHead (syncError s 1 o (ringSource s r) w.target (o.value s)) r (some d) 12
  else s.modRing r fun x => { x with head := some ⟨5, some (w, d)⟩ }

/-- A descriptor starts: it fails with a cause it meets, or its work begins (R226, R231). -/
def startDescriptor (s : State) (r : Nat) (d : BitVec 512) : State :=
  let i := (s.ring r).si
  match dCause s (ringEngine r) d with
  | some c => failStart s r d c
  | none => settle (beginJob (startJob s r d .reading) r i d) r

/-- The head of a ring is held with a code (R232). -/
def holdHead (s : State) (r code : Nat) : State := s.modRing r fun x => { x with head := some ⟨code, none⟩ }

/-- A ring may start its next descriptor (R222, R225); a B ring starts none in a held slice (R354). -/
def mayStart (s : State) (r : Nat) : Bool :=
  let x := s.ring r
  s.working && decide (r < ringCount) && x.state = .running && x.enable && ahead x.pi x.si
      && !(s.svc.held && !ringFrame s r) && (match x.head with
    | some h => h.wait.isNone
    | none => true)

/-- The descriptor at the head of a ring starts where it is of a kind, is held, or fails (R222, R226, R231, R232). A reserved
KIND fails under any command. -/
def tryStart (s : State) (r kind : Nat) : State :=
  if windowFull s r then holdHead s r 7
  else
  match fetchHead s r with
  | .busy => s
  | .absent => holdHead s r 9
  | .bad c t =>
    failHead t r none c
  | .desc d t =>
    if dKind d ≠ kind && dKind d ≤ 12 then s
    else
      match earlyHold t r d with
      | some h => holdHead t r h
      | none =>
        match dCause t (ringEngine r) d with
        | some _ => startDescriptor t r d
        | none =>
          match lateHold t r d with
          | some h => holdHead t r h
          | none => if kind = 12 then startWait t r d else startDescriptor t r d

/-- A command that starts the descriptor at the head of a ring, of a kind. -/
def startKind (kind r : Nat) (s : State) : Out :=
  stepIf (mayStart s r) s (useStored (.ringIndex r) s (settlePorts (byClass (tryStart · r kind) s)))

/-! ### Completion (R234, R236) -/

/-- The 16 bytes of a completion record. -/
def completionRecord (s : State) (j : Job) : List Byte :=
  let status := if j.stage = .skipped then 2 else if j.nan then 1 else 0
  toBytes 4 (j.idx + 1).toNat ++ toBytes 1 status ++ toBytes 1 j.restarts ++ toBytes 2 j.retries ++ toBytes 8 s.time.ns.toNat

/-- The completion increment (R229): nothing for an amount of 0 or an INC out of its limits. [DEDUCED: log entry 44] -/
def completionInc (s : State) (r : Nat) (d : BitVec 512) : State :=
  let v := dInc d
  if incBad d || fld v 27 16 = 0 then s
  else sendInc s (engineHalf (ringEngine r)) (ringFrame s r) (ringSource s r) (fld v 43 11) (fld v 6 10)
    (fld v 0 6) (BitVec.ofNat 32 (fld v 27 16))

/-- The completion record is written (R234, R236): none where it cannot be, which fails the descriptor (R231, R237). -/
def writeRecord (s : State) (r : Nat) (j : Job) : Option State × State :=
  if !ringRecords s r then (some s, s)
  else
    let a := s.regFld (.edgeRingCq r) 6 37 * 64 + j.idx.toNat % ringSize s r * 16
    match memDenied s a 16 true with
    | some (x, c) => (none, failAddress s r j.idx x c)
    | none =>
      match portWrite (passPort s a 16 (ringRequester s r)) a (completionRecord s j) with
      | (true, t) => (some t, t)
      | (false, t) => (none, failJob t r j.idx 10)

/-- The completion record can be written now, or needs no port. -/
def recordFree (s : State) (r : Nat) (j : Job) : Bool :=
  let a := s.regFld (.edgeRingCq r) 6 37 * 64 + j.idx.toNat % ringSize s r * 16
  !ringRecords s r || (memDenied s a 16 true).isSome || portFree s a 16 (ringRequester s r) true

/-- A ring with nothing in flight whose ENABLE is clear becomes DISABLED (R224). -/
def idleRing (s : State) (r : Nat) : State :=
  s.modRing r fun x =>
    if x.state = .running && !x.enable && x.jobs.isEmpty then { x with state := .disabled, head := none } else x

/-- A ring enters TRAPPED after a descriptor that completed with a NaN trap (R140, R225). -/
def trapRing (s : State) (r : Nat) (i : BitVec 32) : State :=
  if (s.ring r).state = .running then
    (s.modRing r fun x => { x with state := .trapped, failIdx := i }).setBit .edgeStatus 1
  else s

/-- The oldest descriptor in flight completes (R234). -/
def completeJob (s : State) (r : Nat) (j : Job) : State :=
  match writeRecord s r j with
  | (none, t) => t
  | (some s, _) =>
    let s := s.modRing r fun x => { x with jobs := x.jobs.drop 1 }
    let s := countRing s r
    let s := if dKind j.desc = 11 && j.moved ≠ 0 then s else completionInc s r j.desc
    idleRing (if j.nan then trapRing s r j.idx else s) r

/-- The oldest descriptor in flight is ready to complete. -/
def completable (s : State) (r : Nat) : Option Job :=
  match (s.ring r).jobs with
  | j :: _ => if j.stage = .done || j.stage = .skipped then some j else none
  | [] => none

end Sys2Proof.Machine
end

