-- ==== Sys2Proof/Machine/EdgeCmd.lean ====
section
/-! DEFINITION. The commands of the edge engines, ports and arbiters (R219 to R256). -/

namespace Sys2Proof.Machine

open Sys2Proof

/-! ### Descriptors that start (R226, R227) -/

/-- NOP: completes when it is next in ring order. -/
def execDescriptorNop (r : Nat) (s : State) : Out := startKind 0 r s

/-- COPY: memory to memory. -/
def execCopy (r : Nat) (s : State) : Out := startKind 1 r s

/-- SIN: memory to a to-grid stream. -/
def execSin (r : Nat) (s : State) : Out := startKind 2 r s

/-- SOUT: a from-grid stream to memory. -/
def execSout (r : Nat) (s : State) : Out := startKind 3 r s

/-- GATHER: memory rows at listed addresses to memory (R246). -/
def execGather (r : Nat) (s : State) : Out := startKind 4 r s

/-- SCATTER: memory to memory rows at listed addresses (R246). -/
def execScatter (r : Nat) (s : State) : Out := startKind 5 r s

/-- CSLD: memory to a core store (R239). -/
def execCsld (r : Nat) (s : State) : Out := startKind 6 r s

/-- CSRD: a core store to memory (R239). -/
def execCsrd (r : Nat) (s : State) : Out := startKind 7 r s

/-- ILD: memory to an instruction memory (R171). -/
def execIld (r : Nat) (s : State) : Out := startKind 8 r s

/-- SLD: memory to slot table parts (R198). -/
def execSld (r : Nat) (s : State) : Out := startKind 9 r s

/-- SPRG: a command to a spring (R264, R266). -/
def execSprg (r : Nat) (s : State) : Out := startKind 10 r s

/-- CHK: memory to a check unit (R392, R395). -/
def execChk (r : Nat) (s : State) : Out := startKind 11 r s

/-- WAIT: holds its ring until a counter meets a target (R230). -/
def execWait (r : Nat) (s : State) : Out := startKind 12 r s

/-- DESCRIPTOR_COMPLETE (R234): the oldest descriptor in flight completes once its data effects are performed. -/
def execDescriptorComplete (r : Nat) (s : State) : Out :=
  stepIf (s.working && decide (r < ringCount)) s
    (useStored (.ringIndex r) s (settlePorts (byClass (fun s =>
      let t := settle s r
      match completable t r with
      | some j => if recordFree t r j then completeJob t r j else t
      | none => t) s)))

/-! ### Requests at the ports (R242 to R249) -/

/-- A pseudo-channel that has reached its B cap is the last to have done so (HBMP_PCHOT). -/
def noteCap (s : State) (q : Req) : State :=
  let n := ((holding s q.addr).filter fun x => !x.frame && pseudoChannel s x.addr = pseudoChannel s q.addr).length
  if q.addr < lakeBase && !q.frame && n = 576 then s.putFld (.hbmpPchot (memNum s q.addr)) 0 5 (pseudoChannel s q.addr) else s

/-- The job of a request has one request fewer out. -/
def reqDone (s : State) (q : Req) : State := modJob s q.ring q.idx fun j => { j with out := j.out - 1 }

/-- A request moves a beat of its arbiter's transfer (R253). -/
def noteBeat (s : State) (q : Req) : State :=
  let x := s.arb q.arb
  beatsMoved (s.setArb q.arb { x with xfer := x.xfer ++ [q] }) q.arb 1

/-- A port accepts a request (R235, R242): it holds a slot from now on. A write is performed; a read takes the data in the order of
acceptance (R243). -/
def acceptReq (s : State) (q : Req) : State :=
  let s := noteDemands s q.frame q.addr q.len
  let taken := { q with accepted := true, starved := false, order := s.nextReq, data := if q.isWrite then q.data else s.memBytes q.addr q.len }
  let s := { s with reqs := s.reqs.map fun x => if x.id = q.id then taken else x, nextReq := s.nextReq + 1 }
  let s := noteCap (noteSlots s q.addr 0) q
  if q.isWrite then
    let (ok, s) := portWrite s q.addr q.data
    if ok then settle (noteBeat (reqDone s q) taken) q.ring
    else noteBeat (failJob s q.ring q.idx 10) taken
  else noteBeat s taken

/-- REQUEST_ACCEPTED (R242, R253). -/
def execRequestAccepted (id : Nat) (s : State) : Out :=
  match s.reqs.find? fun q => q.id = id with
  | none => .next s
  | some q =>
    stepIf (s.working && (s.arb q.arb).holder = some q.requester && sendable s q) s (settlePorts (byClass (acceptReq · q) s))

/-- One reading of units: those it finds uncorrectable, and the state after; corrected units are counted (R247). -/
def oneReading (s : State) (us : List Nat) : List Nat × State :=
  us.foldl (fun p u =>
    match SMap.get? p.2.marks u with
    | some (.bad k) => (p.1 ++ [u], afterReadings p.2 u k 1)
    | some .corr => (p.1, (readUnit p.2 u).2)
    | none => p) ([], s)

/-- An accepted request is served (R243, R247 to R249, R407): a write is taken by the memory, a read's data comes back. An interface error
replays the command, the sixteenth in succession takes the port out of service; an uncorrectable unit is read again up to two more times.
In frost what comes back reaches no descriptor (R413). -/
def returnReq (s : State) (q : Req) (interfaceError : Bool) : State :=
  let again (f : Req → Req) (s : State) : State := { s with reqs := s.reqs.map fun x => if x.id = q.id then f x else x }
  let us := unitsOf q.addr q.len
  let fails (bad : List Nat) (s : State) : State :=
    let s := freeSlot (bad.foldl unitFailed s) q
    settle (readFails s q.ring q.idx) q.ring
  if q.isWrite && (portOut s q.addr || !interfaceError) then freeSlot s q
  else if portOut s q.addr then fails us s
  else if interfaceError then
    let s := s.countReg (portEccReg s q.addr) 16 16 1
    if 16 ≤ q.replays + 1 then portLeaves s q.addr else again (fun x => { x with replays := x.replays + 1 }) s
  else
    let (bad, s) := oneReading s us
    if !bad.isEmpty then
      if 2 ≤ q.tries then fails bad s
      else
        let s := s.countReg (portEccReg s q.addr) 32 16 1
        let s := modJob s q.ring q.idx fun j => { j with retries := min (j.retries + 1) 65535 }
        again (fun x => { x with tries := x.tries + 1, replays := 0 }) s
    else
      let s := if q.frame && decide (q.addr < lakeBase) then
          s.raiseReg (.svcHbmf (memNum s q.addr)) 48 16 (s.time.elapsed - q.since)
        else s
      let s := freeSlot s q
      let s := modJob s q.ring q.idx fun j => { j with buf := Memory.writeN j.buf q.place q.data }
      settle (reqDone s q) q.ring

/-- READ_DATA_RETURN (R243, R247). -/
def execReadDataReturn (id : Nat) (interfaceError : Bool) (s : State) : Out :=
  match s.reqs.find? fun q => q.id = id && q.accepted with
  | none => .next s
  | some q =>
    stepIf (s.live && portServes s q.addr && servedNext s q) s
      (settlePorts (byClass (returnReq · q interfaceError) s))

/-- ECC_WRITE_BACK (R247): the corrected unit is written back, unless a write to it is already queued. -/
def execEccWriteBack (u : Nat) (s : State) : Out :=
  let t := replayUnit { s with writeBacks := s.writeBacks.filter (· ≠ u) } u
  let queued := s.reqs.any fun q => q.isWrite && decide (q.addr / 64 ≤ u / 64) && decide (u / 64 ≤ (q.addr + q.len - 1) / 64)
  stepIf (s.live && s.writeBacks.contains u && portServes s u) s
    (if queued then { s with writeBacks := s.writeBacks.filter (· ≠ u) }
     else if portOut t u then t
     else match SMap.get? s.marks u with
       | some .corr => { t with marks := SMap.erase t.marks u }
       | _ => t)

/-! ### Arbiters (R255, R256) -/

/-- ARB_CFG.CLEAR (R256). -/
def execClear (who : Half) (a : Nat) (s : State) : Out :=
  writeReg who (.arbCfg a) (arbFitted s a) (2 ^ 63) s fun s =>
    forN (fun k s => ((s.setReg (.arbGrants a k) 0).setReg (.arbWaits a k) 0).setReg (.arbLongest a k) 0) 0 134 s

/-- ARB_PRIO (R255): from the next decision; a waiter raised to 3 preempts at once. -/
def execArbPrio (who : Half) (a k : Nat) (v : Word) (s : State) : Out :=
  writeReg who (.arbPrio a k) (arbFitted s a && decide (k < 134)) v s fun s =>
    let s := s.putFld (.arbPrio a k) 0 2 (Word.fld v 0 2)
    if s.working && preempts s a then settlePorts (preemptNow s a) else s

/-! ### Edge streams (R220, R221) -/

/-- The regions of two streams overlap. -/
def xsOverlap (b n b' n' : Nat) : Bool := decide (0 < n) && decide (0 < n') && decide (b < b' + n') && decide (b' < b + n)

/-- A write of EDGE_XS_CFG may take effect (R221; a BEATS outside 1 to 64 in a configured stream is refused too, log
entry 29). [DEDUCED: log entry 29] -/
def xsCfgGood (s : State) (e n : Nat) (v : Word) : Bool :=
  let beats := Word.fld v 24 7
  let size := Word.fld v 12 12
  let base := Word.fld v 0 11
  let inFlight := (List.range 128).any fun i => (s.ring (128 * e + i)).jobs.any fun j =>
    (dKind j.desc = 2 || dKind j.desc = 3) && dUnit j.desc = n
  let x := s.router (engineCore e)
  !inFlight && !x.f.live && !x.b.live && decide (base + size ≤ 2048)
    && (size = 0 || (decide (beats ≤ size) && decide (1 ≤ beats) && decide (beats ≤ 64)))
    && (List.range 32).all fun m => m = n || !xsOverlap base size (xsBase s e m) (xsSize s e m)

/-- EDGE_XS_CFG (R220, R221): the count goes to 0, and what the engine's endpoint counted for the stream before (log entry 29); a write refused sets EDGE_STATUS.WIGN. -/
def execEdgeXsCfg (who : Half) (e n : Nat) (v : Word) (s : State) : Out :=
  writeReg who (.edgeXsCfg e n) (e < 64 && n < 32) v s fun s =>
    if xsCfgGood s e n v then (s.setReg (.edgeXsCfg e n) v).modXs e n fun _ => EdgeStream.reset else s.setBit .edgeStatus 2

/-! ### Rings (R223, R224, R250, R251) -/

/-- EDGE_RING_POST (R223, R415). -/
def execEdgeRingPost (who : Half) (r : Nat) (v : Word) (s : State) : Out :=
  writeReg who (.edgeRingPost r) (r < ringCount) v s fun s =>
    if s.faults.inFrost then s.setBit .edgeStatus 2
    else useStored (.ringIndex r) s (postRing s r (Word.fld v 0 16))

/-- A command of EDGE_RING_CTL that starts work: ignored with WIGN in frost (R415). -/
def ringCommand (who : Half) (r : Nat) (bit : Word) (starts : Bool) (s : State) (effect : State → State) : Out :=
  writeReg who (.edgeRingCtl r) (r < ringCount) bit s fun s =>
    if starts && s.faults.inFrost then s.setBit .edgeStatus 2 else settlePorts (byClass effect s)

/-- INIT (R224): in DISABLED only. -/
def initRing (s : State) (r : Nat) : State :=
  if (s.ring r).state = .disabled then
    look (s.modRing r fun x => { x with pi := 0, si := 0, head := none, copy := none, counter := 0, poisoned := false }) ⟨s.dev, true, 0, r⟩
  else s

/-- INIT. -/
def execInit (who : Half) (r : Nat) (s : State) : Out := ringCommand who r 0x20 false s fun s => initRing s r

/-- ENABLE written (R224). -/
def enableRing (s : State) (r : Nat) (on : Bool) : State :=
  if on then s.modRing r fun x => { x with enable := true, state := if x.state = .disabled then .running else x.state }
  else idleRing (s.modRing r fun x => { x with enable := false }) r

/-- ENABLE. -/
def execEnable (who : Half) (r : Nat) (on : Bool) (s : State) : Out :=
  ringCommand who r (if on then 1 else 0) (on && !(s.ring r).enable) s fun s => enableRing s r on

/-- A ring returns to RUNNING; a descriptor that had failed meanwhile takes it to ERROR again. -/
def runRing (s : State) (r : Nat) : State :=
  let s := s.modRing r fun x => { x with state := .running }
  match (s.ring r).failedJob with
  | some j => enterError s r j.cause j.idx
  | none => idleRing (relook s r) r

/-- RESUME (R250). -/
def resumeRing (s : State) (r : Nat) : State := if (s.ring r).state = .trapped then runRing s r else s

/-- RESUME. -/
def execResume (who : Half) (r : Nat) (s : State) : Out := ringCommand who r 2 true s fun s => resumeRing s r

/-- A descriptor that failed in flight runs again from its beginning (R250). A SOUT keeps the instances it has taken out of
staging, which cannot be read twice (log entry 30). [DEDUCED: log entry 30] -/
def rerunJob (s : State) (r : Nat) (j : Job) : State :=
  let d := j.desc
  let keep := dKind d = 3
  let s := modJob s r j.idx fun j =>
    { j with stage := .reading, out := 0, listed := false, nan := false, spoiled := false, buf := if keep then j.buf else [],
             moved := if keep then j.moved else 0 }
  match dCause s (ringEngine r) d with
  | some c => failDescriptor s r j.idx d c
  | none => settle (beginJob s r j.idx d) r

/-- The descriptor in flight that has failed and that a ring in ERROR names. -/
def errorJob (x : Ring) : Option Job := if x.cause = 9 then none else (x.job x.failIdx).filter fun j => match j.stage with
  | .failed _ => true
  | _ => false

/-- RETRY (R250). A descriptor that failed at the head starts again in its turn, from the engine's copy. -/
def retryRing (s : State) (r : Nat) : State :=
  let x := s.ring r
  if x.state = .error then
    let s := s.modRing r fun x => { x with state := .running }
    let s := match errorJob x with
      | some j => rerunJob s r j
      | none => s
    if (s.ring r).state = .running then runRing s r else s
  else s

/-- RETRY. -/
def execRetry (who : Half) (r : Nat) (s : State) : Out := ringCommand who r 4 true s fun s => retryRing s r

/-- SKIP (R250, R286): the failed descriptor will complete with STATUS 2 in its turn, one that failed at the head too; a spring
drops its command. -/
def skipRing (s : State) (r : Nat) : State :=
  let x := s.ring r
  if x.state = .error then
    let s := match errorJob x with
      | some j => forgetSprings (modJob s r j.idx fun j => { j with stage := .skipped, nan := false }) r
      | none => if x.cause ≠ 9 && x.failIdx = x.si then startJob s r (x.copy.getD 0) .skipped else s
    runRing s r
  else s

/-- SKIP. -/
def execSkip (who : Half) (r : Nat) (s : State) : Out := ringCommand who r 8 true s fun s => skipRing s r

/-- RESET (R251). -/
def execReset (who : Half) (r : Nat) (s : State) : Out := ringCommand who r 0x10 false s fun s => resetRing s r

/-- RESETTING_COMPLETE (R251): every issued request has returned. [DEDUCED: log entry 45] -/
def execResettingComplete (r : Nat) (s : State) : Out :=
  stepIf (s.live && decide (r < ringCount) && (s.ring r).state = .resetting && !(s.reqs.any fun q => q.ring = r)
      && !(s.tags.any fun t => !t.spring && t.ring = r)) s
    (s.modRing r fun x => { x with state := .disabled, enable := false, head := none, copy := none })

end Sys2Proof.Machine
end

