-- ==== Sys2Proof/Machine/Spring.lean ====
section
/-! DEFINITION. The springs (R260 to R288): acceptance, order, the commands chunk by chunk, failures, traps. -/

namespace Sys2Proof.Machine

open Sys2Proof

/-! ### Own-stack accesses (R261, R263) -/

/-- A range of stack offsets cut where its HBM addresses may break: offset and length. -/
def stackPieces (o n : Nat) : List (Nat × Nat) := pieces 4096 o n

/-- The HBM address of a stack offset of spring n. -/
def stackAddr (s : State) (n o : Nat) : Nat := hbmAddr s.config.interleave n o

/-- Bytes of the own stack: none where a unit stays uncorrectable. -/
def readStack (s : State) (n o len : Nat) : Option (List Byte) × State :=
  let (ok, s) := readUnits s ((stackPieces o len).flatMap fun p => unitsOf (stackAddr s n p.1) p.2)
  (if ok then some ((stackPieces o len).flatMap fun p => s.memBytes (stackAddr s n p.1) p.2) else none, s)

/-- Several ranges of the own stack. -/
def readRanges (n : Nat) : List (Nat × Nat) → State → Option (List (List Byte)) × State
  | [], s => (some [], s)
  | (o, len) :: rs, s =>
    let (b, s) := readStack s n o len
    let (bs, s) := readRanges n rs s
    (match b, bs with
      | some b, some bs => some (b :: bs)
      | _, _ => none, s)

/-- The units of a range that a write covers in part. -/
def partUnits (s : State) (n o len : Nat) : List Nat :=
  let ends := (if o % 64 = 0 then [] else [o]) ++ (if (o + len) % 64 = 0 then [] else [o + len - 1])
  (ends.map fun x => stackAddr s n x / 64 * 64).eraseDups

/-- Results written to the own stack, all or none: none where a unit of a read-modify-write stays uncorrectable. -/
def writeStack (s : State) (n : Nat) (ws : List (Nat × List Byte)) : Bool × State :=
  let (ok, s) := readUnits s (ws.flatMap fun w => partUnits s n w.1 w.2.length).eraseDups
  if ok then
    (true, ws.foldl (fun s w =>
      (stackPieces w.1 w.2.length).foldl (fun s p =>
        (portWrite s (stackAddr s n p.1) ((w.2.drop (p.1 - w.1)).take p.2)).2) s) s)
  else (false, s)

/-! ### Arithmetic (R269) -/

/-- An FP32 value with the flags gathered so far. -/
abbrev Num := Nat × NFlags

def num1 (f : Nat → Nat × NFlags) (a : Num) : Num := let r := f a.1; (r.1, a.2 ||| r.2)
def num2 (f : Nat → Nat → Nat × NFlags) (a b : Num) : Num := let r := f a.1 b.1; (r.1, a.2 ||| b.2 ||| r.2)
def nAdd (a b : Num) : Num := num2 Fmt.fp32.addBits a b
def nMul (a b : Num) : Num := num2 Fmt.fp32.mulBits a b
def nDiv (a b : Num) : Num := num2 Fmt.fp32.divBits a b
def nSqrt (a : Num) : Num := num1 Fmt.fp32.sqrtBits a
def nNeg (a : Num) : Num := (a.1 ^^^ 2 ^ 31, a.2)
def nSub (a b : Num) : Num := nAdd a (nNeg b)
def nFma (a b c : Num) : Num := let r := Fmt.fp32.fmaBits a.1 b.1 c.1; (r.1, a.2 ||| b.2 ||| c.2 ||| r.2)
def nZero : Num := (0, 0)

/-- The FP32 values of bytes. -/
def nums (bs : List Byte) : List Num := (unpackNat 32 (bs.length / 4) (ofBytes bs)).map fun x => (x, 0)

/-- The bytes of FP32 values. -/
def numBytes (xs : List Num) : List Byte := xs.flatMap fun x => toBytes 4 x.1

/-- The flags of values, and whether one is a NaN. -/
def numFlags (xs : List Num) : NFlags := xs.foldl (fun f x => f ||| x.2) 0
def numNan (xs : List Num) : Bool := xs.any fun x => Fmt.fp32.isNanBits x.1

/-- What a chunk does: the results it writes (stack offset, bytes), its flags, whether they hold a NaN. -/
structure ChunkResult where
  writes : List (Nat × List Byte)
  flags : NFlags
  nan : Bool
  deriving DecidableEq, Repr

/-- The result of arrays of FP32 values written at stack offsets. -/
def chunkOf (ws : List (Nat × List Num)) : ChunkResult :=
  let all := ws.flatMap (·.2)
  ⟨ws.map fun w => (w.1, numBytes w.2), numFlags all, numNan all⟩

/-! ### The ranges and the work of one chunk

Each command gives the ranges that chunk c reads, and what it makes of their bytes. -/

/-- The elements of chunk c of an elementwise command: the first and how many (R270). -/
def chunkSpan (count c : Nat) : Nat × Nat := (1024 * c, min 1024 (count - 1024 * c))

/-- GACC (R271). -/
def gaccReads (d : BitVec 512) (c : Nat) : List (Nat × Nat) :=
  let (i, n) := chunkSpan (cCount d) c
  let w := fmtWidth (cGfmt d)
  [(cA d 0 + 4 * i, if cBit d 1 then 0 else 4 * n), (cA d 1 + i * w / 8, n * w / 8)]
def gaccChunk (d : BitVec 512) (c : Nat) (bs : List (List Byte)) : ChunkResult :=
  let (i, n) := chunkSpan (cCount d) c
  let f := fmtOf (cGfmt d)
  let gr : List Num := (unpackNat (fmtWidth (cGfmt d)) n (ofBytes (bs.getD 1 []))).map fun x =>
    if cGfmt d = 0 then (x, 0) else Fmt.fp32.round (f.decode x)
  chunkOf [(cA d 0 + 4 * i, if cBit d 1 then gr else List.zipWith nAdd (nums (bs.getD 0 [])) gr)]

/-- A field of a parameter block. -/
def param (bs : List Byte) (i : Nat) : Num := (bytesAt bs (4 * i) 4, 0)

/-- ADAM (R272). -/
def adamReads (d : BitVec 512) (c : Nat) : List (Nat × Nat) :=
  let (i, n) := chunkSpan (cCount d) c
  ((List.range 4).map fun k => (cA d k + 4 * i, 4 * n)) ++ [(cA d 4, 64)]

/-- One element of ADAM: w, m, v. -/
def adamElem (p : List Byte) (w m v gr : Num) : Num × Num × Num :=
  let g := nMul (param p 9) gr
  let m1 := nFma (param p 1) m (nMul (param p 2) g)
  let v1 := nFma (param p 3) v (nMul (param p 4) (nMul g g))
  let den := nAdd (nSqrt (nMul v1 (param p 6))) (param p 7)
  let u := nFma (param p 8) w (nDiv (nMul m1 (param p 5)) den)
  (nFma (nNeg (param p 0)) u w, m1, v1)
def adamChunk (d : BitVec 512) (c : Nat) (bs : List (List Byte)) : ChunkResult :=
  let (i, n) := chunkSpan (cCount d) c
  let arr (k : Nat) : List Num := nums (bs.getD k [])
  let rs := ((arr 0).zip ((arr 1).zip ((arr 2).zip (arr 3)))).map fun x => adamElem (bs.getD 4 []) x.1 x.2.1 x.2.2.1 x.2.2.2
  chunkOf ([(cA d 0 + 4 * i, rs.map (·.1)), (cA d 1 + 4 * i, rs.map (·.2.1)), (cA d 2 + 4 * i, rs.map (·.2.2))]
    ++ (if cBit d 1 then [(cA d 3 + 4 * i, List.replicate n nZero)] else []))

/-- MOM (R273). -/
def momReads (d : BitVec 512) (c : Nat) : List (Nat × Nat) :=
  let (i, n) := chunkSpan (cCount d) c
  ((List.range 3).map fun k => (cA d k + 4 * i, 4 * n)) ++ [(cA d 3, 64)]

/-- One element of MOM: w, b. -/
def momElem (p : List Byte) (nesterov : Bool) (w b gr : Num) : Num × Num :=
  let g := nFma (param p 3) w (nMul (param p 4) gr)
  let b1 := nFma (param p 1) b (nMul (param p 2) g)
  let u := if nesterov then nFma (param p 1) b1 g else b1
  (nFma (nNeg (param p 0)) u w, b1)
def momChunk (d : BitVec 512) (c : Nat) (bs : List (List Byte)) : ChunkResult :=
  let (i, n) := chunkSpan (cCount d) c
  let arr (k : Nat) : List Num := nums (bs.getD k [])
  let rs := ((arr 0).zip ((arr 1).zip (arr 2))).map fun x => momElem (bs.getD 3 []) (cBit d 2) x.1 x.2.1 x.2.2
  chunkOf ([(cA d 0 + 4 * i, rs.map (·.1)), (cA d 1 + 4 * i, rs.map (·.2))]
    ++ (if cBit d 1 then [(cA d 2 + 4 * i, List.replicate n nZero)] else []))

/-- CAST (R274). -/
def castReads (d : BitVec 512) (c : Nat) : List (Nat × Nat) :=
  let (i, n) := chunkSpan (cCount d) c
  [(cA d 0 + 4 * i, 4 * n)]

/-- The pieces of a chunk of a CAST: whole rows cut at the chunk's ends; first element and length. -/
def castCuts (d : BitVec 512) (c : Nat) : List (Nat × Nat) :=
  let (i, n) := chunkSpan (cCount d) c
  pieces (cRow d) i n

/-- One piece of a row: its data at its place, and its scale codes after the row's data. -/
def castPiece (d : BitVec 512) (i : Nat) (xs : List Nat) : ChunkResult :=
  let f := cOfmt d
  let w := fmtWidth f
  let row := cRow d
  let base := cA d 1 + i / row * (row * w / 8 + (if fmtBlock f then row / 32 else 0))
  let at_ := i % row
  let vs := xs.map Fmt.fp32.decode
  let ws := (List.range xs.length).map fun k =>
    if cBit d 0 then Rounding.sr (roundingGen (BitVec.ofNat 64 (cA d 2)) (BitVec.ofNat 64 (cA d 3 + i + k))) else .rne
  if fmtBlock f then
    let (es, ss, fl) := cvtBlocks f (ceilDiv xs.length 32) ws vs
    ⟨[(base + at_ * w / 8, toBytes (xs.length * w / 8) (packNat w es)),
      (base + row * w / 8 + at_ / 32, toBytes ss.length (packNat 8 ss))], fl, vs.any Val.isNan⟩
  else
    let rs := List.zipWith (fmtOf f).convert ws vs
    ⟨[(base + at_ * w / 8, toBytes (xs.length * w / 8) (packNat w (rs.map (·.1))))],
      rs.foldl (fun a r => a ||| r.2) 0, rs.any fun r => (fmtOf f).isNanBits r.1⟩
def castChunk (d : BitVec 512) (c : Nat) (bs : List (List Byte)) : ChunkResult :=
  let xs := (nums (bs.getD 0 [])).map (·.1)
  let i := 1024 * c
  let rs := (castCuts d c).map fun p => castPiece d p.1 ((xs.drop (p.1 - i)).take p.2)
  ⟨rs.flatMap (·.writes), rs.foldl (fun f r => f ||| r.flags) 0, rs.any (·.nan)⟩

/-- The chunks of Q and of E of a LRINIT (R270). -/
def lrinitQ (d : BitVec 512) : Nat := ceilDiv (cN d * cR d) 1024

/-- LRINIT (R276). -/
def lrinitChunk (d : BitVec 512) (c : Nat) : ChunkResult :=
  if c < lrinitQ d then
    let (i, n) := chunkSpan (cN d * cR d) c
    let q (e : Nat) : Num :=
      let x := roundingGen (BitVec.ofNat 64 (cA d 1)) (BitVec.ofNat 64 (cA d 2 + e))
      Fmt.fp32.round ((Val.ofInt (sextInt 32 x)).scale (-31))
    chunkOf [(cA d 0 + 4 * i, (List.range n).map fun k => q (i + k))]
  else
    let (i, n) := chunkSpan (cM d * cN d) (c - lrinitQ d)
    chunkOf [(cA d 3 + 4 * i, List.replicate n nZero)]

/-- A dot product in order from +0 (R277 to R279). -/
def dot (xs ys : List Num) : Num := (xs.zip ys).foldl (fun s p => nFma p.1 p.2 s) nZero

/-- Column j of a row-major array with r columns. -/
def column (r j : Nat) (xs : List Num) : List Num := (List.range (xs.length / r)).map fun k => xs.getD (k * r + j) nZero

/-- LRP (R277): row c of E and P. -/
def lrpReads (d : BitVec 512) (c : Nat) : List (Nat × Nat) :=
  let row := 4 * cN d
  [(cA d 0 + c * row, row), (cA d 1 + c * row, row), (cA d 2, row * cR d)]
def lrpChunk (d : BitVec 512) (c : Nat) (bs : List (List Byte)) : ChunkResult :=
  let e := List.zipWith nAdd (nums (bs.getD 1 [])) (nums (bs.getD 0 []))
  let q := nums (bs.getD 2 [])
  let p := (List.range (cR d)).map fun j => dot e (column (cR d) j q)
  chunkOf [(cA d 1 + c * (4 * cN d), e), (cA d 3 + c * (4 * cR d), p)]

/-- LRORTH (R278) on the columns of P: column j against the columns before it. -/
def orthColumn (done : List (List Num)) (col : List Num) : List Num :=
  let col := done.foldl (fun col prev =>
    let nd := nNeg (dot prev col)
    List.zipWith (fun a b => nFma nd a b) prev col) col
  let d := dot col col
  if d.1 % 2 ^ 31 = 0 then col.map fun x => (x.1, x.2 ||| d.2)
  else let nrm := nSqrt d; col.map fun x => nDiv x nrm

/-- The columns in order. -/
def orthColumns (r : Nat) (p : List Num) : List (List Num) :=
  (List.range r).foldl (fun done j => done ++ [orthColumn done (column r j p)]) []
def lrorthChunk (d : BitVec 512) (bs : List (List Byte)) : ChunkResult :=
  let cols := orthColumns (cR d) (nums (bs.getD 0 []))
  chunkOf [(cA d 0, (List.range (cM d)).flatMap fun t => cols.map fun c => c.getD t nZero)]

/-- LRQ (R279). -/
def lrqChunk (d : BitVec 512) (bs : List (List Byte)) : ChunkResult :=
  let e := nums (bs.getD 0 [])
  let p := nums (bs.getD 1 [])
  chunkOf [(cA d 2, (List.range (cN d)).flatMap fun k =>
    (List.range (cR d)).map fun j => dot (column (cN d) k e) (column (cR d) j p))]

/-- LRRES (R279): row c of E and G. -/
def lrresReads (d : BitVec 512) (c : Nat) : List (Nat × Nat) :=
  [(cA d 0 + c * (4 * cN d), 4 * cN d), (cA d 1 + c * (4 * cR d), 4 * cR d), (cA d 2, 4 * cN d * cR d)]
def lrresChunk (d : BitVec 512) (c : Nat) (bs : List (List Byte)) : ChunkResult :=
  let p := nums (bs.getD 1 [])
  let q := nums (bs.getD 2 [])
  let g := (List.range (cN d)).map fun k => dot p ((q.drop (k * cR d)).take (cR d))
  chunkOf [(cA d 3 + c * (4 * cN d), g), (cA d 0 + c * (4 * cN d), List.zipWith nSub (nums (bs.getD 0 [])) g)]

/-! ### All commands -/

/-- How many chunks a command has (R270). -/
def chunkCount (d : BitVec 512) : Nat :=
  match cOp d with
  | 0x08 => lrinitQ d + ceilDiv (cM d * cN d) 1024
  | 0x09 => cM d
  | 0x0A => 1
  | 0x0B => 1
  | 0x0C => cM d
  | 0x10 => ceilDiv (cCount d) 4096
  | 0x11 => ceilDiv (cCount d) 4096
  | _ => ceilDiv (cCount d) 1024

/-- What chunk c of a compute command reads. -/
def chunkReads (d : BitVec 512) (c : Nat) : List (Nat × Nat) :=
  match cOp d with
  | 0x01 => gaccReads d c
  | 0x02 => adamReads d c
  | 0x03 => momReads d c
  | 0x04 => castReads d c
  | 0x09 => lrpReads d c
  | 0x0A => [(cA d 0, 4 * cM d * cR d)]
  | 0x0B => [(cA d 0, 4 * cM d * cN d), (cA d 1, 4 * cM d * cR d)]
  | 0x0C => lrresReads d c
  | _ => []

/-- What chunk c of a compute command makes of the bytes read. -/
def chunkWork (d : BitVec 512) (c : Nat) (bs : List (List Byte)) : ChunkResult :=
  match cOp d with
  | 0x01 => gaccChunk d c bs
  | 0x02 => adamChunk d c bs
  | 0x03 => momChunk d c bs
  | 0x04 => castChunk d c bs
  | 0x08 => lrinitChunk d c
  | 0x09 => lrpChunk d c bs
  | 0x0A => lrorthChunk d bs
  | 0x0B => lrqChunk d bs
  | 0x0C => lrresChunk d c bs
  | _ => ⟨[], 0, false⟩

/-- Where chunk c of a CAST writes. -/
def castTargets (d : BitVec 512) (c : Nat) : List (Nat × Nat) :=
  (castCuts d c).flatMap fun p => (castPiece d p.1 (List.replicate p.2 0)).writes.map fun w => (w.1, w.2.length)

/-- Where chunk c of a compute command writes in the own stack: offset and bytes. -/
def chunkTargets (d : BitVec 512) (c : Nat) : List (Nat × Nat) :=
  let (i, n) := chunkSpan (cCount d) c
  let each (ks : List Nat) : List (Nat × Nat) := ks.map fun k => (cA d k + 4 * i, 4 * n)
  match cOp d with
  | 0x01 => each [0]
  | 0x02 => each (if cBit d 1 then [0, 1, 2, 3] else [0, 1, 2])
  | 0x03 => each (if cBit d 1 then [0, 1, 2] else [0, 1])
  | 0x04 => castTargets d c
  | 0x08 =>
    if c < lrinitQ d then (let (i, n) := chunkSpan (cN d * cR d) c; [(cA d 0 + 4 * i, 4 * n)])
    else (let (i, n) := chunkSpan (cM d * cN d) (c - lrinitQ d); [(cA d 3 + 4 * i, 4 * n)])
  | 0x09 => [(cA d 1 + c * (4 * cN d), 4 * cN d), (cA d 3 + c * (4 * cR d), 4 * cR d)]
  | 0x0A => cWrites d
  | 0x0B => cWrites d
  | 0x0C => [(cA d 3 + c * (4 * cN d), 4 * cN d), (cA d 0 + c * (4 * cN d), 4 * cN d)]
  | _ => []

/-! ### Order (R267, R281) -/

/-- Two ranges rounded outward to 4 KiB overlap. -/
def granulesMeet (a b : Nat × Nat) : Bool :=
  decide (0 < a.2) && decide (0 < b.2) && decide (a.1 / 4096 ≤ (b.1 + b.2 - 1) / 4096)
    && decide (b.1 / 4096 ≤ (a.1 + a.2 - 1) / 4096)

/-- Two commands conflict (R267). -/
def conflict (a b : BitVec 512) : Bool :=
  let hit (x y : BitVec 512) : Bool := (cWrites x).any fun w => (cReads y ++ cWrites y).any (granulesMeet w)
  hit a b || hit b a

/-- A command can start: it conflicts with no earlier-accepted command that has not completed, snapshots apart (R267, R281). -/
def canStart (x : Spring) (c : SpringCmd) : Bool :=
  (x.queue.takeWhile fun y => y.no ≠ c.no).all fun y => cOp y.desc = 0x11 || !conflict y.desc c.desc

/-- The command that an engine starts next (R267): the oldest F command that can start, else the oldest B command. -/
def nextCmd (x : Spring) (moves : Bool) : Option SpringCmd :=
  let ok (f : Bool) (c : SpringCmd) : Bool := c.frame = f && cMoves c.desc = moves && canStart x c
  match x.queue.find? (ok true) with
  | some c => some c
  | none => x.queue.find? (ok false)

/-- Earlier snapshots have read every granule that a chunk writes (R281). -/
def snapshotsPassed (x : Spring) (c : SpringCmd) : Bool :=
  (x.queue.takeWhile fun y => y.no ≠ c.no).all fun y => cOp y.desc ≠ 0x11 ||
    !((chunkTargets c.desc c.chunk).any (granulesMeet (cA y.desc 0 + 4096 * y.chunk, cCount y.desc - 4096 * y.chunk)))

/-- A command in the queue changed in place. -/
def Spring.put (x : Spring) (c : SpringCmd) : Spring := { x with queue := x.queue.map fun y => if y.no = c.no then c else y }

/-- The command that an engine runs. -/
def Spring.running (x : Spring) (moves : Bool) : Option SpringCmd :=
  match if moves then x.move else x.compute with
  | some no => x.queue.find? fun c => c.no = no
  | none => none

/-- The engine's command. -/
def Spring.setEngine (x : Spring) (moves : Bool) (no : Option Nat) : Spring :=
  if moves then { x with move := no } else { x with compute := no }

/-! ### Failures (R285) -/

/-- SPRG_FAILA and SPRG_FAILB of a failed command (R288). -/
def failA (f : Option (SpringCmd × Nat)) : Word :=
  match f with
  | some (c, _) => BitVec.ofNat 64 (2 ^ 63 + cOp c.desc * 2 ^ 48 + c.no)
  | none => 0
def failB (f : Option (SpringCmd × Nat)) : Word :=
  match f with
  | some (c, cause) => BitVec.ofNat 64 (cause * 2 ^ 60 + c.ring * 2 ^ 32 + c.chunk)
  | none => 0

/-- A command fails with a cause (R285): its record, HELD, and its descriptor. -/
def failCmd (s : State) (n : Nat) (c : SpringCmd) (cause : Nat) : State :=
  let moves := cMoves c.desc
  let f := some (c, cause)
  let s := s.modSpring n fun x =>
    let x := (x.put c).setEngine moves none
    if moves then { x with failM := f } else { x with failC := f }
  byClass (fun s => raiseRec (failJob s c.ring c.idx cause) { Rec.of s 10 cause 4 5 n with d0 := failA f, d1 := failB f }) s

/-! ### Running chunks -/

/-- A NaN among a chunk's results: the trap's record, at most one per command (R138, R284; log entry 27). -/
def springNan (s : State) (n : Nat) (c : SpringCmd) (nan : Bool) : SpringCmd × State :=
  if nan && !c.nan && trapOn s 6 then
    ({ c with nan := true }, nanTrap s (nanRec0 2 0 n (cOp c.desc) c.no) (Rec.of s 6 3 4 5 n))
  else (c, s)

/-- A chunk has been written. -/
def chunkDone (s : State) (n : Nat) (c : SpringCmd) : State :=
  let c := { c with chunk := c.chunk + 1 }
  s.modSpring n fun x => x.put { c with finished := decide (chunkCount c.desc ≤ c.chunk) }

/-- One chunk of a compute command (R269, R285). -/
def computeChunk (s : State) (n : Nat) (c : SpringCmd) : State :=
  match readRanges n (chunkReads c.desc c.chunk) s with
  | (none, s) => failCmd s n c 10
  | (some bs, s) =>
    let r := chunkWork c.desc c.chunk bs
    match writeStack s n r.writes with
    | (false, s) => failCmd s n c 10
    | (true, s) =>
      let (c, s) := springNan (addSpringFlags s n r.flags) n c r.nan
      chunkDone s n c

/-- The requester of a spring's outward traffic (R252). -/
def springRequester (c : SpringCmd) : Nat := 132 + c.frame.toNat

/-- The half of a spring (R15). -/
def springSender (s : State) (n : Nat) (c : SpringCmd) : Sender :=
  ⟨stackHalf n, springRequester c, true, n, BitVec.ofNat 32 c.no, c.frame, ringVc s c.ring⟩

/-- A command fails with cause ADDRESS, with the address-fault record that names the spring (R285, R364). -/
def denyCmd (s : State) (n : Nat) (c : SpringCmd) (a cause : Nat) : State :=
  failCmd (raiseRec s { Rec.of s 4 cause 4 5 n with addr := a }) n c 5

/-- A local destination written through its arbiters (R252, R280, R281). -/
def outwardLocal (s : State) (c : SpringCmd) (a : Nat) (bs : List Byte) : Bool × State :=
  portWrite (passPort s a bs.length (springRequester c)) a bs

/-- An entry of a GATH's list is a global address: it names another device unless its device is this one (R32, R280). -/
def gathRemote (s : State) (a : Nat) : Bool := a / 2 ^ 43 ≠ s.dev

/-- The ports of a chunk's local destinations take it now, or deny it. -/
def outwardFree (s : State) (c : SpringCmd) (n : Nat) (as : List Nat) : Bool :=
  as.all fun a => (memDenied s a n true).isSome || portFree s a n (springRequester c) true

/-- Why an entry of a GATH's list breaks R280. -/
def gathEntryBad (s : State) (n : Nat) (d : BitVec 512) (a : Nat) : Bool :=
  a % 64 ≠ 0 || 2 ^ 54 ≤ a ||
    (if gathRemote s a then
      decide (2 ^ 43 < addrLocal a + cCount d) || storeBase < addrLocal a + cCount d
    else
      let la := addrLocal a
      (match memDenied s la (cCount d) true with
        | some (_, k) => k = 1
        | none => false)
      || (decide (la < lakeBase) && (pieces 4096 la (cCount d)).any fun p => memFn s p.1 = .stack n))

/-- A chunk written to the destinations of a GATH, in list order: the cause and address of the first denied, or none. -/
def gathWrite (n : Nat) (c : SpringCmd) (bs : List Byte) : List Nat → State → Option (Nat × Nat × Nat) × State
  | [], s => (none, s)
  | a :: as, s =>
    let dest := a + 4096 * c.chunk
    if gathRemote s a then
      gathWrite n c bs as (remoteWrite s (springSender s n c) (a / 2 ^ 43) (addrLocal dest) bs)
    else
      match memDenied s (addrLocal dest) bs.length true with
      | some (x, k) => (some (5, x, k), s)
      | none =>
        match outwardLocal s c (addrLocal dest) bs with
        | (true, s) => gathWrite n c bs as s
        | (false, s) => (some (10, 0, 0), s)

/-- The remote writes of a command that are out: none, waiting, failed (R323, R327). -/
def cmdTags (s : State) (n : Nat) (c : SpringCmd) : List TagRec :=
  s.tags.filter fun t => t.spring && t.ring = n && t.idx = BitVec.ofNat 32 c.no

/-- The remote writes of a command that failed take it down with cause REMOTE, at the chunk they carried. -/
def remoteFails (s : State) (n : Nat) (c : SpringCmd) : State :=
  let s := { s with tags := s.tags.filter fun t => !(t.spring && t.ring = n && t.idx = BitVec.ofNat 32 c.no) }
  failCmd s n { c with chunk := c.chunk - 1, finished := false } 11

/-- One chunk of a GATH (R280). A chunk starts once the remote writes of the one before are acknowledged (log entry 31), and
waits while a port of a local destination does not take it.
[DESIGN CHOICE: log entry 31] -/
def gathChunk (s : State) (n : Nat) (c : SpringCmd) : State :=
  let d := c.desc
  let off := 4096 * c.chunk
  if (cmdTags s n c).any (·.failed) then remoteFails s n c
  else if !(cmdTags s n c).isEmpty then s
  else
    match readRanges n [(cA d 1, 8 * cA d 2), (cA d 0 + off, min 4096 (cCount d - off))] s with
    | (none, s) => failCmd s n c 10
    | (some rs, s) =>
      let list := (List.range (cA d 2)).map fun i => bytesAt (rs.getD 0 []) (8 * i) 8
      match list.find? (gathEntryBad s n d) with
      | some a =>
        (match if gathRemote s a then none else memDenied s (addrLocal a) (cCount d) true with
          | some (x, 1) => denyCmd s n c x 1
          | _ => failCmd s n c 5)
      | none =>
        if !outwardFree s c (min 4096 (cCount d - off)) ((list.filter fun a => !gathRemote s a).map fun a => addrLocal (a + off)) then s
        else
        match gathWrite n c (rs.getD 1 []) list s with
        | (none, s) => chunkDone s n c
        | (some (cause, a, k), s) => if cause = 5 then denyCmd s n c a k else failCmd s n c cause

/-- One chunk of a SNAP (R281). -/
def snapChunk (s : State) (n : Nat) (c : SpringCmd) : State :=
  let d := c.desc
  let off := 4096 * c.chunk
  match readRanges n [(cA d 0 + off, min 4096 (cCount d - off))] s with
  | (none, s) => failCmd s n c 10
  | (some rs, s) =>
    let bs := rs.getD 0 []
    match memDenied s (cA d 1 + off) bs.length true with
    | some (a, k) => denyCmd s n c a k
    | none =>
      if !outwardFree s c bs.length [cA d 1 + off] then s
      else
      match outwardLocal s c (cA d 1 + off) bs with
      | (true, s) => chunkDone s n c
      | (false, s) => failCmd s n c 10

/-- A spring takes a step: out of frost, in service. -/
def springWorks (s : State) (n : Nat) : Bool :=
  s.working && decide (n < 16) && s.ready (.spring n) && !(s.spring n).out && !recalRuns s (.stack n)

/-- The next chunk of the command that an engine runs, which it starts where it is idle and neither TRAPPED nor HELD (R267,
R284, R285). The command must be of the code. -/
def runChunk (op : Nat) (moves : Bool) (chunk : State → Nat → SpringCmd → State) (n : Nat) (s : State) : State :=
  byClass (fun s =>
    let x := s.spring n
    match x.running moves with
    | some c =>
      if cOp c.desc = op && !c.finished && snapshotsPassed x c then chunk s n c else s
    | none =>
      if x.trapped || x.held then s
      else
        match nextCmd x moves with
        | some c =>
          if cOp c.desc = op then
            let s := s.setSpring n (x.setEngine moves (some c.no))
            if !c.finished && snapshotsPassed x c then chunk s n c else s
          else s
        | none => s) s

/-- GACC (R271). -/
def execGacc (n : Nat) (s : State) : Out := stepIf (springWorks s n) s (runChunk 0x01 false computeChunk n s)

/-- ADAM (R272). -/
def execAdam (n : Nat) (s : State) : Out := stepIf (springWorks s n) s (runChunk 0x02 false computeChunk n s)

/-- MOM (R273). -/
def execMom (n : Nat) (s : State) : Out := stepIf (springWorks s n) s (runChunk 0x03 false computeChunk n s)

/-- CAST (R274). -/
def execCast (n : Nat) (s : State) : Out := stepIf (springWorks s n) s (runChunk 0x04 false computeChunk n s)

/-- LRINIT (R276). -/
def execLrinit (n : Nat) (s : State) : Out := stepIf (springWorks s n) s (runChunk 0x08 false computeChunk n s)

/-- LRP (R277). -/
def execLrp (n : Nat) (s : State) : Out := stepIf (springWorks s n) s (runChunk 0x09 false computeChunk n s)

/-- LRORTH (R278). -/
def execLrorth (n : Nat) (s : State) : Out := stepIf (springWorks s n) s (runChunk 0x0A false computeChunk n s)

/-- LRQ (R279). -/
def execLrq (n : Nat) (s : State) : Out := stepIf (springWorks s n) s (runChunk 0x0B false computeChunk n s)

/-- LRRES (R279). -/
def execLrres (n : Nat) (s : State) : Out := stepIf (springWorks s n) s (runChunk 0x0C false computeChunk n s)

/-- GATH (R280). -/
def execGath (n : Nat) (s : State) : Out := stepIf (springWorks s n) s (runChunk 0x10 true gathChunk n s)

/-- SNAP (R281). -/
def execSnap (n : Nat) (s : State) : Out := stepIf (springWorks s n) s (runChunk 0x11 true snapChunk n s)

/-! ### Acceptance and completion (R266, R284, R286) -/

/-- A failed command that comes again from its ring with the same bytes (R286). -/
def sameFailed (c : SpringCmd) (f : Option (SpringCmd × Nat)) : Bool :=
  match f with
  | some (y, _) => y.ring = c.ring && y.desc = c.desc
  | none => false

/-- The first command on the path is accepted: numbered and queued, or resumed at its chunk. -/
def acceptCmd (s : State) (n : Nat) : State :=
  let x := s.spring n
  match x.arriving with
  | [] => s
  | c :: cs =>
    if sameFailed c x.failC then s.setSpring n { x with arriving := cs, failC := none }
    else if sameFailed c x.failM then s.setSpring n { x with arriving := cs, failM := none }
    else if 32 ≤ x.queue.length then s
    else
      let no := s.regFld (.sprgCmdno n) 0 48
      (s.setSpring n { x with arriving := cs, queue := x.queue ++ [{ c with no := no }] }).putFld (.sprgCmdno n) 0 48 (no + 1)

/-- SPRING_COMMAND_ACCEPT (R266). -/
def execSpringCommandAccept (n : Nat) (s : State) : Out := stepIf (springWorks s n) s (acceptCmd s n)

/-- A command is reported complete: its descriptor has performed its data effects (R266, R284). -/
def reportCmd (s : State) (n : Nat) (c : SpringCmd) : State :=
  let s := s.modSpring n fun x =>
    { x.setEngine (cMoves c.desc) none with queue := x.queue.filter fun y => y.no ≠ c.no, trapped := x.trapped || c.nan }
  let s := s.countReg (.sprgDone n) 0 48 1
  modJob s c.ring c.idx fun j => { j with stage := .done, nan := c.nan }

/-- SPRING_COMMAND_COMPLETE (R266): once every write of the command is performed. -/
def execSpringCommandComplete (n : Nat) (eng : Engine) (s : State) : Out :=
  let moves := eng = .move
  match (s.spring n).running moves with
  | some c =>
    stepIf (springWorks s n && c.finished) s
      (if (cmdTags s n c).any (·.failed) then remoteFails s n c
       else if !(cmdTags s n c).isEmpty then s
       else byClass (reportCmd · n c) s)
  | none => .next s

/-- A write of SPRG_CTL; what would start work is ignored with WIGN in frost (R415). -/
def springCommand (who : Half) (n : Nat) (bit : Word) (starts : Bool) (s : State) (effect : State → State) : Out :=
  writeReg who (.sprgCtl n) (n < 16) bit s fun s =>
    if starts && s.faults.inFrost then s.setBit .sprgSummary 32 else effect s

/-- SPRG_CTL.RESUME (R284). -/
def execSpringResume (who : Half) (n : Nat) (s : State) : Out :=
  springCommand who n 1 true s fun s => s.modSpring n fun x => { x with trapped := false }

/-- A failed command is dropped with its record (R286). -/
def dropCmd (x : Spring) (moves : Bool) : Spring :=
  match if moves then x.failM else x.failC with
  | some (c, _) =>
    let x := { x with queue := x.queue.filter fun y => y.no ≠ c.no }
    if moves then { x with failM := none } else { x with failC := none }
  | none => x

/-- SPRG_CTL.DROP_C (R286). -/
def execDropC (who : Half) (n : Nat) (s : State) : Out :=
  springCommand who n 2 false s fun s => s.modSpring n fun x => dropCmd x false

/-- SPRG_CTL.DROP_M (R286). -/
def execDropM (who : Half) (n : Nat) (s : State) : Out :=
  springCommand who n 4 false s fun s => s.modSpring n fun x => dropCmd x true

end Sys2Proof.Machine
end

