-- ==== Sys2Proof/Machine/Link.lean ====
section
/-! DEFINITION. The links (R310 to R329): codewords, retry, credits, the traffic a device takes in, training, leaving service. -/

namespace Sys2Proof.Machine

open Sys2Proof

/-! ### Sending (R313, R314, R318, R321, R322, R324) -/

/-- A link that runs codewords: UP, or trained with a frosted partner. -/
def linkTrained (s : State) (l : Nat) : Bool :=
  l < 36 && ((s.link l).state = .up || (s.link l).state = .partnerFrost)

/-- The codewords before this number have been received good (R314, R319). -/
def Link.ackTo (x : Link) : Nat :=
  match x.taking with
  | some (_, _, n) => n
  | none => x.rxNum

/-- A device signals in training (R314): an INIT flit. -/
def initFlit (s : State) (l : Nat) : BitVec 512 := mkFlit [(0, 1), (6, s.dev), (8, l)] []

/-- The NAK that the next control flit carries: none while a recalibration ignores codewords (R358). -/
def nakDue (s : State) (l : Nat) : Option Nat := if recalRuns s (.link l) then none else (s.link l).nak

/-- What a link has told its partner in a control flit. -/
def told (s : State) (l : Nat) (x : Link) : Link := { x with freed := [], nak := if recalRuns s (.link l) then x.nak else none }

/-- A control flit (R314). -/
def controlFlit (s : State) (l : Nat) : BitVec 512 :=
  let x := s.link l
  let nak := nakDue s l
  mkFlit ([(0, 2), (1, x.lfrost.toNat + nak.isSome.toNat * 2), (2, (x.ackTo + 65535) % 65536), (4, nak.getD 0), (6, s.dev),
    (8, l)] ++ (List.range 16).map fun v => (0x0C + 2 * v, SMap.getD x.freed v 0 % 65536)) []

/-- A queued synchronisation flit of a virtual channel for which a credit is held. -/
def nextSync (s : State) (l vc : Nat) : Option (Nat × LinkUnit) :=
  (s.link l).queue.find? fun p => !p.2.isPacket && p.2.vc = vc && decide (0 < linkCredit s l vc)

/-- A unit leaves the queue, and its flits' credits are used. -/
def takeUnit (s : State) (l : Nat) (u : Nat × LinkUnit) : State :=
  s.modLink l fun x =>
    { x with queue := x.queue.erase u, credits := SMap.set x.credits u.2.vc (SMap.getD x.credits u.2.vc 0 - u.2.flits) 0 }

/-- The packet that the holder of the egress arbiter sends next. -/
def nextPacket (s : State) (l : Nat) : Option (Nat × LinkUnit) :=
  match (s.arb (32 + l)).holder with
  | none => none
  | some k =>
    let q := (s.link l).queue.filter fun p => p.2.isPacket
    q.find? fun p => p.1 = k && decide (p.2.flits ≤ linkCredit s l p.2.vc) && (q.find? fun x => x.2.vc = p.2.vc) = some p

/-- What fills a slot that is not fixed, and the state after; `cut` says that the slot before carried a VC2 flit. Once FROST is
sent, only the packet on the wire and control flits go out (R329). -/
def fillSlot (s : State) (l : Nat) (cut : Bool) : Flit × Bool × State :=
  let x := s.link l
  let quiet := x.lfrost || x.state ≠ .up
  let body (f : BitVec 512) (fs : List (BitVec 512)) : Flit × Bool × State :=
    (⟨2, f⟩, false, s.setLink l { x with sending := fs })
  let control : Flit × Bool × State :=
    (⟨0, controlFlit s l⟩, false, s.setLink l (told s l x))
  match if quiet then none else nextSync s l 0 with
  | some (k, .sync f) => (⟨3, f⟩, false, takeUnit s l (k, .sync f))
  | _ =>
    match if quiet || (cut && !x.sending.isEmpty) then none else nextSync s l 2 with
    | some (k, .sync f) => (⟨3, f⟩, true, takeUnit s l (k, .sync f))
    | _ =>
      match x.sending with
      | f :: fs => body f fs
      | [] =>
        match if quiet then none else nextPacket s l with
        | some (k, .packet h b) =>
          let s := takeUnit s l (k, .packet h b)
          let s := s.modLink l fun y => { y with sending := b, xfer := y.xfer ++ [(k, .packet h b)] }
          (⟨1, h⟩, false, beatsMoved s (32 + l) (ceilDiv (1 + b.length) 4))
        | _ => control

/-- n slots filled. The limit on VC2 runs on from one codeword to the next (R324). -/
def fillSlots (l : Nat) : Nat → State → List Flit × State
  | 0, s => ([], s)
  | n + 1, s =>
    let (f, cut, s) := fillSlot s l (s.link l).cut
    let (fs, s) := fillSlots l n (s.modLink l fun x => { x with cut := cut })
    (f :: fs, s)

/-- The next codeword: slot 0 of every fourth is a control flit (R314). -/
def newCodeword (s : State) (l : Nat) : State :=
  let n := (s.link l).txNum
  let (fs, s) := if n % 4 = 0 then
      (let c : Flit := ⟨0, controlFlit s l⟩
       let (fs, s) := fillSlots l 9 (s.modLink l fun x => { told s l x with cut := false })
       (c :: fs, s))
    else fillSlots l 10 s
  s.modLink l fun x => { x with txNum := (n + 1) % 65536, replay := x.replay ++ [⟨n, fs⟩], wire := fs }

/-- The codeword after one in the replay buffer. -/
def afterReplay (x : Link) (n : Nat) : Option Nat :=
  if x.replay.any fun c => c.num = (n + 1) % 65536 then some ((n + 1) % 65536) else none

/-- The link trains: from the start, or with a frosted partner that was reset and sends INIT (R314, R329). -/
def linkTrains (x : Link) : Bool := x.state = .training || (x.state = .partnerFrost && x.init.isSome)

/-- CODEWORD_TRANSMIT (R311, R314, R318, R319): INIT flits in training; else the next codeword of a replay, or a new one while the replay
buffer has room. -/
def execCodewordTransmit (l : Nat) (s : State) : Out :=
  let x := s.link l
  stepIf (s.live && decide (l < 36) && (linkTrained s l || linkTrains x)) s
    (if linkTrains x then s.setLink l { x with wire := List.replicate 10 ⟨0, initFlit s l⟩ }
     else match x.replayAt with
      | some n =>
        s.setLink l { x with
          replayAt := afterReplay x n
          wire := match x.replay.find? fun c => c.num = n with
            | some c => c.flits
            | none => x.wire }
      | none => if 1024 ≤ x.replay.length then s else newCodeword s l)

/-! ### The lanes (R311) -/

/-- The 5,140 payload bits of ten flit slots, slot 0 lowest, the kind bits of a slot below its flit (log entry 111).
[PRESUMED: log entry 111] -/
def payloadBits : List Flit → Nat
  | [] => 0
  | f :: fs => f.kind.toNat + f.bits.toNat * 4 + payloadBits fs * 2 ^ 514

/-- The flit slots of payload bits. -/
def payloadFlits : Nat → Nat → List Flit
  | 0, _ => []
  | n + 1, v => ⟨BitVec.ofNat 2 v, BitVec.ofNat 512 (v / 4)⟩ :: payloadFlits n (v / 2 ^ 514)

/-- The 544 symbols of a codeword: 514 of payload and 30 of parity. -/
def codewordSymbols (fs : List Flit) : List (BitVec 10) :=
  (List.range 514).map (fun i => BitVec.ofNat 10 (payloadBits fs / 2 ^ (10 * i)))
    ++ (List.range 30).map (Config.rsParity (payloadBits fs))

/-- The symbols of one of the four lanes, in round-robin order from lane 0 (R311). -/
def laneSymbols (fs : List Flit) (lane : Nat) : List (BitVec 10) :=
  (List.range 136).map fun i => (codewordSymbols fs).getD (4 * i + lane) 0

/-- The payload that four lanes of symbols deliver. -/
def lanesPayload (lanes : Nat → List (BitVec 10)) : Nat :=
  (List.range 514).foldl (fun v i => v + ((lanes (i % 4)).getD (i / 4) 0).toNat * 2 ^ (10 * i)) 0

/-! ### Leaving service (R320, R329, R407) -/

/-- LINK_STATE (R337). -/
def linkStateWord (x : Link) : Word :=
  let st := match x.state with
    | .disabled => 0
    | .training => 1
    | .up => 2
    | .down => 3
    | .partnerFrost => 4
  BitVec.ofNat 64 (st + x.lfrost.toNat * 8 + x.cause * 2 ^ 8 + x.pdev * 2 ^ 32 + x.plink * 2 ^ 48)

/-- The UNREACH of a unit that this link will not deliver. -/
def unitUnreach (h : Half) (s : State) (u : LinkUnit) : State :=
  match u with
  | .packet f _ =>
    let p := packetOf f []
    if p.ptype = 3 && p.src = s.dev then s else unreach s h p.frame p.dst p.src p.tag 0 0
  | .sync f =>
    let y := syncFlitOf f
    if y.stype = 1 then unreach s h (y.vc = 0) y.dst y.src y.object y.amount y.source else s
  | .control _ => s

/-- The packet heads and synchronisation flits of codewords. -/
def codewordUnits (cs : List Codeword) : List LinkUnit :=
  cs.flatMap fun c => c.flits.filterMap fun f =>
    if f.kind = 1 then some (.packet f.bits []) else if f.kind = 3 then some (.sync f.bits) else none

/-- A link without traffic but what stands in its input buffer, in a state. -/
def clearLink (x : Link) (st : LinkState) : Link :=
  { Link.reset with
    enable := x.enable, state := st, cause := x.cause, pdev := x.pdev, plink := x.plink, lfrost := x.lfrost,
    received := x.received }

/-- A link whose partner signals FROST (R329): it stays trained, so codewords keep their numbers, and the packet on the wire is finished. -/
def frostLink (x : Link) : Link :=
  { x with state := .partnerFrost, queue := [], xfer := [], init := none, retrained := false }

/-- A link leaves service (R320): its ready bit falls, and an UNREACH goes toward the source of everything not acknowledged or
still queued. -/
def linkLeaves (s : State) (l cause : Nat) (st : LinkState) : State :=
  let x := s.link l
  let y := if st = .partnerFrost then frostLink x else clearLink x st
  byClass
    (fun s =>
      let s := s.setLink l { y with cause := cause }
      let s := leaveService (s.setBit .linkStatus 1) (.link l) 6 l fun s => linkStateWord (s.link l)
      let s := s.setArb (32 + l) { s.arb (32 + l) with holder := none, prio := 0, moved := 0 }
      settlePorts ((codewordUnits x.replay ++ x.queue.map (·.2)).foldl (unitUnreach (linkHalf l)) s)) s

/-! ### Receiving (R313 to R319) -/

/-- What a codeword's flits add, or the number of the codeword to be sent again. -/
structure RxState where
  taking : Option (BitVec 512 × List (BitVec 512) × Nat)
  takeAt : Option (BitVec 512 × List (BitVec 512) × Nat)
  got : List (Nat × LinkUnit)
  bad : Option Nat

/-- A packet is whole (R315). -/
def packetWhole (h : BitVec 512) (body : List (BitVec 512)) : Bool := ffld h 6 1 ≤ body.length

/-- One flit of codeword n taken in; `start` is the packet that was being taken in when the codeword began. -/
def rxFlit (n : Nat) (start : Option (BitVec 512 × List (BitVec 512) × Nat)) (x : RxState) (f : Flit) : RxState :=
  if x.bad.isSome then x
  else
    let whole (h : BitVec 512) (b : List (BitVec 512)) (k : Nat) : RxState :=
      if packetWhole h b then
        if flitGood h b then { x with taking := none, takeAt := none, got := x.got ++ [(n, .packet h b)] }
        else { x with bad := some k }
      else { x with taking := some (h, b, k) }
    if f.kind = 0 then
      if flitGood f.bits [] then { x with got := x.got ++ [(n, .control f.bits)] } else { x with bad := some n }
    else if f.kind = 3 then
      if flitGood f.bits [] then { x with got := x.got ++ [(n, .sync f.bits)] } else { x with bad := some n }
    else if f.kind = 1 then
      let r := whole f.bits [] n
      { r with takeAt := if r.taking.isSome || r.bad.isSome then start else none }
    else
      match x.taking with
      | some (h, b, k) => whole h (b ++ [f.bits]) k
      | none => x

/-- What can no longer be called back goes to the link's lists. -/
def release (x : Link) : Link :=
  let safe (p : Nat × LinkUnit) : Bool := match x.taking with
    | some (_, _, n) => (p.1 + 65536 - n) % 65536 ≥ 32768
    | none => true
  let out := (x.unchecked.filter safe).map (·.2)
  { x with
    unchecked := x.unchecked.filter fun p => !safe p
    control := x.control ++ out.filterMap fun u => match u with
      | .control f => some f
      | _ => none
    received := x.received ++ out.filter fun u => match u with
      | .control _ => false
      | _ => true }

/-- A codeword is asked for again (R319): it and every later one are discarded until it arrives, with what they brought. `taking` is the
packet that was being taken in when it began, `takeAt` what was then under way at the codeword of that packet's head. -/
def askAgain (x : Link) (n : Nat) (taking takeAt : Option (BitVec 512 × List (BitVec 512) × Nat)) : Link :=
  { x with
    rxNum := n
    nak := some n
    taking := taking
    takeAt := takeAt
    unchecked := x.unchecked.filter fun p => (p.1 + 65536 - n) % 65536 ≥ 32768 }

/-- A codeword is taken in whole, or asked for again. A packet called back to codeword k that began before it counts from there against k,
the codewords before k being acknowledged. -/
def takeCodeword (x : Link) (cw : Codeword) : Link :=
  let r := cw.flits.foldl (rxFlit cw.num x.taking) ⟨x.taking, x.takeAt, [], none⟩
  match r.bad with
  | some n =>
    if n = cw.num then askAgain x n x.taking x.takeAt else askAgain x n (x.takeAt.map fun p => (p.1, p.2.1, n)) none
  | none =>
    release { x with rxNum := (cw.num + 1) % 65536, taking := r.taking, takeAt := r.takeAt, unchecked := x.unchecked ++ r.got }

/-- The partner's device and link number of a codeword's INIT flit (R314, R337). -/
def initOf (cw : Codeword) : Option (Nat × Nat) :=
  (cw.flits.find? fun f => f.kind = 0 && flitGood f.bits [] && ffld f.bits 0 1 = 1).map fun f =>
    (ffld f.bits 6 2 % 2048, ffld f.bits 8 1 % 64)

/-- LINK_FEC (R337): codewords with corrected symbols, and uncorrectable ones. -/
def countFec (s : State) (l : Nat) (fec : Fec) : State :=
  match fec with
  | .clean => s
  | .corrected => s.countReg (.linkFec l) 0 32 1
  | .uncorrectable => s.countReg (.linkFec l) 48 16 1

/-- A numbered codeword reaches its receiver (R319, R358): one that a recalibration ignores, that cannot be decoded or whose checks fail
is asked for again; one other than that expected is discarded. -/
def receiveNumbered (s : State) (l : Nat) (cw : Codeword) (fec : Fec) : State :=
  let x := s.link l
  if recalRuns s (.link l) then s.setLink l (askAgain x x.rxNum x.taking x.takeAt)
  else
    let s := countFec s l fec
    if cw.num % 65536 ≠ x.rxNum then s
    else if fec = .uncorrectable then s.setLink l (askAgain x x.rxNum x.taking x.takeAt)
    else s.setLink l (takeCodeword x { cw with num := x.rxNum })

/-- CODEWORD_RECEIVE (R314, R319): in training, and from a frosted partner that trains again, the INIT flits; else a numbered codeword.
LINK_FEC counts the codewords with corrected symbols and the uncorrectable ones. -/
def execCodewordReceive (l : Nat) (cw : Codeword) (fec : Fec) (s : State) : Out :=
  let x := s.link l
  let init := if fec = .uncorrectable || x.state = .up then none else initOf cw
  stepIf (s.live && decide (l < 36) && (linkTrained s l || x.state = .training)) s
    (if init.isSome then s.setLink l { x with init := init }
     else if x.state = .training then s
     else receiveNumbered s l cw fec)

/-- The share of the input buffer that LINK_CRED gives a virtual channel (R322). -/
def vcShare (s : State) (l v : Nat) : Nat := s.regFld (.linkCred l (v / 4)) (16 * (v % 4)) 16

/-- Credits returned (R322); none passes the share of its virtual channel. -/
def addCredits (s : State) (l : Nat) (x : Link) (f : BitVec 512) : Link :=
  let back (m : SMap Nat) (v : Nat) : SMap Nat :=
    SMap.set m v (min (SMap.getD m v 0 + ffld f (0x0C + 2 * v) 2) (vcShare s l v)) 0
  { x with credits := (List.range 16).foldl back x.credits }

/-- Codewords up to a number are acknowledged; the replays of one of them are no more in succession. -/
def freeReplay (x : Link) (n : Nat) : Link :=
  let kept := x.replay.filter fun c => (c.num + 65535 - n) % 65536 < 32768
  let open_ := kept.any fun c => x.lastNak = some c.num
  { x with replay := kept, lastNak := if open_ then x.lastNak else none, replays := if open_ then x.replays else 0 }

/-- A NAK: replay from a codeword (R319); the sixteenth replay of one codeword in succession takes the link out of service (R320; log entry 113). A recalibration asks for one replay, after which the codeword is acknowledged, so it never counts to sixteen (R358).
[DEDUCED: log entry 113] -/
def takeNak (s : State) (l n : Nat) : State :=
  let x := s.link l
  let times := if x.lastNak = some n then x.replays + 1 else 1
  let s := (s.countReg (.linkFec l) 32 16 1).setBit .linkStatus 0
  if 16 ≤ times && x.state = .up then linkLeaves s l 1 .down
  else s.setLink l { x with replayAt := some n, lastNak := some n, replays := times }

/-- A trained link whose partner's flag is clear returns to service once it has trained again (R329). -/
def linkReturns (s : State) (l : Nat) : State :=
  let x := s.link l
  if x.state = .partnerFrost && x.retrained then
    (s.setLink l { x with state := .up, retrained := false }).riseNoted (.link l)
  else s

/-- A control flit's effect (R314, R319, R322, R329). A late INIT flit has none. -/
def takeControl (s : State) (l : Nat) (f : BitVec 512) : State :=
  if ffld f 0 1 = 1 then s
  else
    let s := s.setLink l (freeReplay (addCredits s l (s.link l) f) (ffld f 2 2))
    let flags := ffld f 1 1
    if flags % 2 = 1 then (if (s.link l).state = .up then linkLeaves s l 4 .partnerFrost else s)
    else
      let s := linkReturns s l
      if flags / 2 % 2 = 1 then takeNak s l (ffld f 4 2) else s

/-- CONTROL_FLIT_RECEIVE (R314). -/
def execControlFlitReceive (l : Nat) (s : State) : Out :=
  match (s.link l).control with
  | [] => .next s
  | f :: fs =>
    stepIf (s.live && linkTrained s l) s (settlePorts (takeControl (s.modLink l fun x => { x with control := fs }) l f))

/-! ### What has arrived (R315, R316, R323, R326, R327, R329) -/

/-- The type of a unit: PTYPE of a packet, 16 + STYPE of a synchronisation flit. -/
def unitType : LinkUnit → Nat
  | .packet h _ => ffld h 0 1
  | .sync f => 16 + ffld f 0 1
  | .control _ => 32

/-- The first unit of a type that no unit of its virtual channel precedes. -/
def pickUnit (type : Nat) (us : List LinkUnit) : Option LinkUnit :=
  us.find? fun u => unitType u = type && (us.find? fun v => v.vc = u.vc) = some u

/-- A unit leaves the input buffer, and its flits will be returned as credits. -/
def freeUnit (s : State) (l : Nat) (u : LinkUnit) : State :=
  s.modLink l fun x =>
    { x with received := x.received.erase u, freed := SMap.set x.freed u.vc (SMap.getD x.freed u.vc 0 + u.flits) 0 }

/-- A unit of a type is taken off a link's input, when what it asks for can be done, and carried out; a device in frost discards packets
and increments (R329). -/
def takeType (type l : Nat) (s : State) (may : State → LinkUnit → Bool) (act : LinkUnit → State → State) : Out :=
  match pickUnit type (s.link l).received with
  | none => .next s
  | some u =>
    let drop := s.faults.inFrost && decide (type ≤ 17)
    stepIf (s.live && decide (l < 36) && (drop || may s u)) s
      (let s := freeUnit s l u
       if drop then s else settlePorts (byClass (act u) s))

/-- A unit that waits for nothing. -/
def always (_ : State) (_ : LinkUnit) : Bool := true

/-- The requester of a bridge (R245, R252). -/
def bridgeRequester (h : Half) (frame : Bool) : Nat := 128 + 2 * halfNum h + frame.toNat

/-- A packet of another device is routed on; one for this device is carried out. -/
def onPacket (l : Nat) (mine : Packet → State → State) (u : LinkUnit) (s : State) : State :=
  match u with
  | .packet h b =>
    let p := packetOf h b
    if p.dst = s.dev then mine p s else routePacket s (linkHalf l) (switchRequester p.frame) p
  | _ => s

/-- A synchronisation flit likewise. -/
def onSync (l : Nat) (mine : SyncFlit → State → State) (u : LinkUnit) (s : State) : State :=
  match u with
  | .sync f =>
    let y := syncFlitOf f
    if y.dst = s.dev then mine y s else routeSync s (linkHalf l) y
  | _ => s

/-- The record of a remote request whose address is refused (R25, R364): the initiator is on another device. -/
def remoteRefused (s : State) (p : Packet) (a cause : Nat) : State :=
  raiseRec s
    { Rec.of s 4 cause 7 (if fld p.req 15 1 = 1 then 5 else 1) (fld p.req 0 13) with dev := p.src, addr := a }

/-- A packet for this device can be performed now: its address is refused, or its ports answer (R242, R253, R358). One that goes on waits
for nothing here. -/
def packetMay (l : Nat) (write : Bool) (room : State → Packet → Bool) (s : State) : LinkUnit → Bool
  | .packet h b =>
    let p := packetOf h b
    let n := if write then p.body.length * 64 else p.len
    p.dst ≠ s.dev || (memDenied s p.addr n write).isSome
      || (portFree s p.addr n (bridgeRequester (linkHalf l) p.frame) write && room s p)
  | _ => true

/-- A WRITE for this device is performed and acknowledged (R323, R245). -/
def performWrite (l : Nat) (p : Packet) (s : State) : State :=
  let h := linkHalf l
  let n := p.body.length * 64
  match memDenied s p.addr n true with
  | some (a, c) => remoteRefused s p a c
  | none =>
    useStored (.bridge h) s
      (match portWrite (passPort s p.addr n (bridgeRequester h p.frame)) p.addr (p.body.flatMap flitBytes) with
        | (true, s) => routeSync s h ⟨2, noticeVc p.frame, p.src, s.dev, 0, p.tag, 0, 0⟩
        | (false, s) => s)

/-- WRITE (R323). -/
def execWrite (l : Nat) (s : State) : Out :=
  takeType 1 l s (packetMay l true fun _ _ => true) (onPacket l (performWrite l))

/-- The bytes of the RESP packets of this device that the bridge of a half still holds (R323). -/
def respHeld (s : State) (h : Half) : Nat :=
  (s.links.flatMap fun x => x.2.queue.filter fun p => p.1 = bridgeRequester h false || p.1 = bridgeRequester h true).foldl
    (fun n p => n + 64 * (p.2.flits - 1)) 0

/-- A READ is taken off a link's input only while staging for its response is held (R323; log entry 112).
[DESIGN CHOICE: log entry 112] -/
def respRoom (h : Half) (s : State) (p : Packet) : Bool :=
  let n := respHeld s h + p.len
  decide (n ≤ 1024) || decide (n ≤ 1024 + Config.respStaging (halfNum h))

/-- A READ for this device is answered (R323). -/
def answerRead (l : Nat) (p : Packet) (s : State) : State :=
  let h := linkHalf l
  match memDenied s p.addr p.len false with
  | some (a, c) => remoteRefused s p a c
  | none =>
    useStored (.bridge h) s
      (match portRead (passPort s p.addr p.len (bridgeRequester h p.frame)) p.addr p.len with
        | (some bs, s) =>
          routePacket s h (bridgeRequester h p.frame)
            { p with ptype := 3, dst := p.src, src := s.dev, addr := 0, hops := 0, body := bodyFlits bs }
        | (none, s) => s)

/-- READ (R323). -/
def execRead (l : Nat) (s : State) : Out :=
  takeType 2 l s (packetMay l false (respRoom (linkHalf l))) (onPacket l (answerRead l))

/-- A tag is done with: its descriptor has one request fewer out. -/
def tagDone (s : State) (t : TagRec) : State :=
  let s := { s with tags := s.tags.filter fun u => u.tag ≠ t.tag }
  if t.spring then s else settle (modJob s t.ring t.idx fun j => { j with out := j.out - 1 }) t.ring

/-- A RESP for this device delivers its data (R315, R323). -/
def takeResp (p : Packet) (s : State) : State :=
  match s.tags.find? fun t => t.tag = p.tag && !t.isWrite with
  | none => s
  | some t =>
    let bs := p.body.flatMap flitBytes
    let s := if jobAlive s t.ring t.idx then
        modJob s t.ring t.idx fun j => { j with buf := Memory.writeN j.buf t.addr bs }
      else s
    if t.due ≤ bs.length then tagDone s t
    else { s with tags := s.tags.map fun u =>
      if u.tag = t.tag then { u with addr := u.addr + bs.length, due := u.due - bs.length } else u }

/-- RESP (R315). -/
def execResp (l : Nat) (s : State) : Out := takeType 3 l s always (onPacket l takeResp)

/-- INC (R208, R316): onto the increment plane at its destination. -/
def execInc (l : Nat) (s : State) : Out :=
  takeType 17 l s always (onSync l fun f s =>
    let core := fld f.object 6 10
    let n := fld f.object 0 6
    if core < coreCount ∧ n < 48 then sendPlane s ⟨core, n, BitVec.ofNat 32 f.amount, sourceOf f.src f.source⟩ else s)

/-- ACK (R210, R323). -/
def execAck (l : Nat) (s : State) : Out :=
  takeType 18 l s always (onSync l fun f s =>
    match s.tags.find? fun t => t.tag = f.object && t.isWrite with
    | some t => tagDone s t
    | none => s)

/-- UNREACH (R327). -/
def execUnreach (l : Nat) (s : State) : Out :=
  takeType 19 l s always (onSync l fun f s => takeUnreach s f.src f.object f.amount f.source)

/-! ### Timeouts, training, control (R312, R320, R327, R337) -/

/-- BLOCK_LOCK_TIMEOUT (R320): a link that is out of service for a frosted partner stays so (R329). -/
def execBlockLockTimeout (l : Nat) (s : State) : Out :=
  stepIf (s.live && decide (l < 36) && (s.link l).state = .up) s (linkLeaves s l 2 .down)

/-- LINK_RTO_EXPIRY (R327): LINK_RTO in µs has passed since the request was sent. -/
def execLinkRtoExpiry (tag : Nat) (s : State) : Out :=
  match s.tags.find? fun t => t.tag = tag with
  | none => .next s
  | some t =>
    stepIf (s.working && !t.failed && decide (t.since + s.regFld .linkRto 0 20 * 1000 ≤ s.time.elapsed)) s
      (settlePorts (byClass (failTag · tag) s))

/-- The credits after training: one per flit of each channel's share (R322; log entry 32). [DEDUCED: log entry 32] -/
def initialCredits (s : State) (l : Nat) : SMap Nat :=
  (List.range 16).map fun v => (v, vcShare s l v)

/-- LINK_TRAINING_COMPLETE (R312, R314, R337): the link comes UP with its partner's IDs from INIT, its codewords numbered from 0 and a full
share of credits, once what stood in its input buffer is gone (log entry 103); with a frosted partner it waits for the flag to clear
(R329). A round trip above 5,000 ns fails training with cause RTT. [DESIGN CHOICE: log entry 103] -/
def execLinkTrainingComplete (l rtt pdev plink : Nat) (s : State) : Out :=
  let x := s.link l
  stepIf (s.live && decide (l < 36) && x.enable && linkTrains x && x.received.isEmpty && x.init = some (pdev, plink)) s
    (let s := s.setReg (.linkRtt l) (BitVec.ofNat 64 (rtt % 2 ^ 32))
     if 5000000 < rtt then s.setLink l { x with cause := 5 }
     else
       let frost := x.state = .partnerFrost
       let y := { clearLink x (if frost then .partnerFrost else .up) with
         pdev := pdev, plink := plink, credits := initialCredits s l, retrained := frost }
       let s := s.setLink l y
       settlePorts (if frost then s else s.riseNoted (.link l)))

/-- LINK_CTL.ENABLE (R320, R337). -/
def execLinkCtlEnable (who : Half) (l : Nat) (on : Bool) (s : State) : Out :=
  writeReg who (.linkCtl l) (l < 36) (if on then 1 else 0) s fun s =>
    let x := s.link l
    let s := s.setLink l { x with enable := on }
    if on then (if x.state = .disabled then s.setLink l { clearLink (s.link l) .training with enable := true } else s)
    else if x.state = .disabled then s
    else if x.state = .up then linkLeaves s l 3 .disabled
    else s.setLink l { clearLink x .disabled with enable := false }

/-- LINK_CTL.RETRAIN (R320): a link that runs leaves service and trains again. [DEDUCED: log entry 46] -/
def execRetrain (who : Half) (l : Nat) (s : State) : Out :=
  writeReg who (.linkCtl l) (l < 36) 2 s fun s =>
    let x := s.link l
    if !x.enable then s
    else if x.state = .up then linkLeaves s l x.cause .training
    else s.setLink l (clearLink x .training)

end Sys2Proof.Machine
end

