-- ==== Sys2Proof/Machine/ChainMsg.lean ====
section
/-! DEFINITION. Messages of the timing chain and their sending (R330 to R332, R336). -/

namespace Sys2Proof.Machine

open Sys2Proof

/-- n bytes at an offset of a message (R331). -/
def cfld (m : BitVec 256) (off n : Nat) : Nat := fld m.toNat (8 * off) (8 * n)

/-- The fields of a message (R331). -/
structure ChainMsg where
  mtype : Nat
  hops : Nat
  origin : Nat
  ccw : Bool
  seq : Nat
  value : Nat
  corr : Int
  aux : Nat
  deriving DecidableEq, Repr

/-- The fields of 32 bytes. -/
def chainMsgOf (m : BitVec 256) : ChainMsg :=
  ⟨cfld m 0 1, cfld m 1 1, cfld m 2 2 % 2048, cfld m 2 2 / 2 ^ 15 = 1, cfld m 4 4, cfld m 8 8, sextInt 64 (cfld m 0x10 8),
    cfld m 0x18 4⟩

/-- The 32 bytes of a message, with the CRC of bytes 0x00 to 0x1B. -/
def ChainMsg.bits (m : ChainMsg) : BitVec 256 :=
  let v := m.mtype % 256 + m.hops % 256 * 2 ^ 8 + (m.origin % 2048 + m.ccw.toNat * 2 ^ 15) * 2 ^ 16 + m.seq % 2 ^ 32 * 2 ^ 32
    + m.value % 2 ^ 64 * 2 ^ 64 + (m.corr % (2 ^ 64 : Int)).toNat * 2 ^ 128 + m.aux % 2 ^ 32 * 2 ^ 192
  BitVec.ofNat 256 (v + (crc32 (toBytes 28 v)).toNat * 2 ^ 224)

/-- A message passes its CRC. -/
def chainGood (m : BitVec 256) : Bool := cfld m 0x1C 4 = (crc32 (toBytes 28 m.toNat)).toNat

/-- A port of the chain. -/
def Chain.port (c : Chain) (x : ChainSide) : ChainPort :=
  match x with
  | .cin => c.cin
  | .cout => c.cout

/-- A port of the chain changed in place. -/
def State.modPort (s : State) (x : ChainSide) (f : ChainPort → ChainPort) : State :=
  { s with chain := match x with
    | .cin => { s.chain with cin := f s.chain.cin }
    | .cout => { s.chain with cout := f s.chain.cout } }

/-- The other port. -/
def otherSide : ChainSide → ChainSide
  | .cin => .cout
  | .cout => .cin

/-- Messages pass at a port: the device is in the ring and the port has lock (R333, R335). -/
def chainUp (s : State) (x : ChainSide) : Bool := s.live && s.chain.bypassOpen && (s.chain.port x).lock

/-- A message leaves at a port. -/
def chainSend (s : State) (x : ChainSide) (m : ChainMsg) : State :=
  if chainUp s x then { s with chain := { s.chain with tx := s.chain.tx ++ [(x, m.bits)] } } else s

/-- The number of a new message of a type: the count of those this device has originated. -/
def chainSeq (s : State) (t : Nat) : Nat × State :=
  let n := SMap.getD s.chain.seqs t 0
  (n, { s with chain := { s.chain with seqs := SMap.insert s.chain.seqs t ((n + 1) % 2 ^ 32) } })

/-- A message of this device goes out in both directions: clockwise at CHAIN_OUT, counter-clockwise at CHAIN_IN (R330, R332,
R336). It leaves with HOPS 1, so that the neighbour's position is 1 (R334). [DEDUCED: log entry 67] -/
def chainBoth (s : State) (t value aux : Nat) : State :=
  let (n, s) := chainSeq s t
  let m : ChainMsg := ⟨t, 1, s.dev, false, n, value, 0, aux⟩
  chainSend (chainSend s .cout m) .cin { m with ccw := true }

/-- An ALARM with a code (R336). -/
def sendAlarm (s : State) (code : Nat) : State := chainBoth s 3 code 0

/-- This device leads: its ROLE is leader and it has not given way (R332). -/
def leads (s : State) : Bool := s.regBit .chainCfg 0 && !s.chain.gaveWay

end Sys2Proof.Machine
end

