-- ==== Sys2Proof/Machine/TimeUnit.lean ====
section
/-! DEFINITION. The time unit: its states, measurements, steps, frames, line events, slices and the bulk share (R339 to R347, R354 to
R356). -/

namespace Sys2Proof.Machine

open Sys2Proof

/-- TIME_CFG (R360). -/
def timeSrc (s : State) : Nat := s.regFld .timeCfg 0 3
def lockNs (s : State) : Nat := s.regFld .timeCfg 8 8
def stepUs (s : State) : Nat := s.regFld .timeCfg 16 16
def holdS (s : State) : Nat := s.regFld .timeCfg 32 8

/-- The disciplined unit (R340). -/
def discUnit (s : State) : Half :=
  match timeSrc s with
  | 2 => if s.regBit .timeCfg 3 then .E else .W
  | 3 => if s.chain.usingCcw then .E else .W
  | _ => s.time.active

/-- The code of a state (R344). -/
def timeCode : TimeState → Nat
  | .free => 0
  | .acquiring => 1
  | .locked => 2
  | .holdover => 3

/-- The bit of TIME_EVENT that entering a state sets. -/
def timeEventBit : TimeState → Option Nat
  | .free => some 2
  | .acquiring => none
  | .locked => some 0
  | .holdover => some 1

/-- The unit enters a state (R344): its event; a leader that leaves LOCKED sends alarm code 3 (R336). -/
def enterTime (s : State) (st : TimeState) : State :=
  if s.time.state = st then s
  else
    let s := if s.time.state = .locked && leads s then sendAlarm s 3 else s
    let s := match timeEventBit st with
      | some b => s.setBit .timeEvent b
      | none => s
    { s with time := { s.time with state := st, rate := if st = .free then 0 else s.time.rate } }

/-- The count of the disciplined unit (R340). -/
def discAt (s : State) : Nat := if discUnit s = s.time.active then s.time.at else s.time.other.at

/-- What the disciplined unit has to close: a slew, or a step (R345). -/
def setClose (s : State) (slew : Int) (step : Option (Int × Nat)) : State :=
  if discUnit s = s.time.active then { s with time := { s.time with slew := slew, stepPending := step } }
  else { s with time := { s.time with other := { s.time.other with slew := slew, stepPending := step } } }

/-- The step that the disciplined unit waits to take. -/
def pendingStep (s : State) : Option (Int × Nat) :=
  if discUnit s = s.time.active then s.time.stepPending else s.time.other.stepPending

/-- The error of a step and the frame start of the reference at which it is taken: that which an earlier error already waits for, or the
next after the reference's instant (R345). -/
def stepAt (fmt : Word) (old : Option (Int × Nat)) (e ref : Int) : Int × Nat :=
  (e, match old with
    | some p => p.2
    | none => nextInstant fmt ref.toNat)

/-- STEP_US in 2^-32 ns. -/
def stepLimit (s : State) : Nat := stepUs s * 1000 * oneNs

/-- The magnitude of a phase error. -/
def errSize (e : Int) : Nat := e.natAbs

/-- What a measurement within LOCK_NS makes of the unit: LOCKED with the sixteenth in succession. -/
def goodMeasure (s : State) : State :=
  let s := { s with time := { s.time with good := s.time.good + 1 } }
  if s.time.state = .locked then s
  else enterTime s (if 16 ≤ s.time.good then .locked else .acquiring)

/-- What a measurement beyond LOCK_NS makes of it: a LOCKED unit stays so up to STEP_US. -/
def badMeasure (s : State) (e : Int) : State :=
  let s := { s with time := { s.time with good := 0 } }
  if s.time.state = .locked && decide (errSize e ≤ stepLimit s) then s else enterTime s .acquiring

/-- A phase measurement of the disciplined unit against the reference (R344, R345), in 2^-32 ns, with the reference's frequency as an offset
from SYSCLK's. An error of at most STEP_US is slewed out; in ACQUIRING a larger one is removed by a step at the reference's next frame start.
Under REF_SYNC it tells where the line syncs lie (R343; log entry 106). [DEDUCED: log entry 106, DESIGN CHOICE: log entry 115] -/
def measure (s : State) (e freq : Int) : State :=
  let s := s.setReg .timeErr (BitVec.ofNat 64 ((e / (oneNs : Int)) % (2 ^ 32 : Int)).toNat)
  let s := if errSize e ≤ lockNs s * oneNs then goodMeasure s else badMeasure s e
  let phase := if timeSrc s = 1 then -e else s.time.linePhase
  let s := { s with time := { s.time with rate := freq, lastRef := s.time.elapsed, linePhase := phase } }
  if errSize e ≤ stepLimit s then setClose s e none
  else if s.time.state = .acquiring then
    setClose s 0 (some (stepAt s.time.fmt (pendingStep s) e ((discAt s : Nat) + e)))
  else s

/-- HOLDOVER has lasted HOLD_S seconds; 255 means never (R344). -/
def holdOver (s : State) : Bool :=
  s.time.state = .holdover && holdS s ≠ 255 && decide (s.time.holdSince + holdS s * 1000000000 ≤ s.time.elapsed)

/-- The reference is lost (R344): HOLDOVER, and FREE at once where HOLD_S is 0. -/
def loseReference (s : State) : State :=
  let s := if s.time.state = .locked || s.time.state = .acquiring then
      let s := setClose (enterTime s .holdover) 0 none
      { s with time := { s.time with good := 0, holdSince := s.time.elapsed } }
    else s
  if holdOver s then enterTime s .free else s

/-- The reference of SRC 1, 2 or 4 has been missing for its limit (R344): 3 frame periods, or 3 seconds of PTP Sync messages or of PPS
edges. -/
def referenceGone (s : State) : Bool :=
  let silent := s.time.elapsed - s.time.lastRef
  (s.time.state = .locked || s.time.state = .acquiring) &&
    (match timeSrc s with
      | 1 => decide (framePart s.time.fmt 3 1 ≤ silent * oneNs)
      | 2 => decide (3000000000 ≤ silent)
      | 4 => decide (3000000000 ≤ silent)
      | _ => false)

/-! ### Line events (R347) -/

/-- The instant of line event k. -/
def levInstant (t : Time) (v : Word) : Nat := lineStart t (Word.fld v 32 16) + Word.fld v 0 20 * oneNs

/-- The instant at which the frame in progress ends (R341, R343): under REF_SYNC, and under the chain before a FRAME message, one frame
period after its start. -/
def frameEnd (s : State) : Nat :=
  let period := s.time.frameAt + framePart s.time.fmt 1 1
  match timeSrc s with
  | 1 => period
  | 3 =>
    match s.time.chainFrame with
    | some p => p.1 * oneNs
    | none => period
  | _ => nextInstant s.time.fmt s.time.frameAt

/-- Line event k is due: enabled, its line in the frame, its instant come and before the next frame start, and not yet out. -/
def levDue (s : State) (k : Nat) : Bool :=
  let v := s.time.lev.getD k 0
  let at_ := levInstant s.time v
  Word.bit v 63 && decide (Word.fld v 32 16 < fmtLines s.time.fmt) && decide (at_ ≤ s.time.at)
    && decide (at_ < frameEnd s) && !s.time.delivered.contains k

/-- The grid cycles since the one that delivers what happens at an instant (940 MHz is 47 cycles in 50 ns). -/
def cyclesSince (s : State) (at_ : Nat) : Nat := (s.time.at - at_) * 47 / (50 * oneNs)
def levAge (s : State) (k : Nat) : Nat := cyclesSince s (levInstant s.time (s.time.lev.getD k 0))

/-- Event k goes out before event j: in an earlier cycle, or in the same with a lower number. -/
def levBefore (s : State) (k j : Nat) : Bool := levAge s j < levAge s k || (levAge s j = levAge s k && k ≤ j)

/-- Line event k is the next to go out. -/
def levNext (s : State) (k : Nat) : Bool := levDue s k && (List.range 16).all fun j => !levDue s j || levBefore s k j

/-- An event goes out over the time path; in frost none reaches a core (R347). -/
def emitEvent (s : State) (n : Nat) : State :=
  if s.faults.inFrost then s else { s with time := { s.time with out := s.time.out ++ [(n, [])] } }

/-- Line event k goes out: the cores number it k + 1 (R347). -/
def emitLine (s : State) (k : Nat) : State :=
  emitEvent { s with time := { s.time with delivered := s.time.delivered ++ [k] } } (k + 1)

/-- The due line events go out while they belong to a cycle before a given age, up to n of them in order. -/
def emitDue (age : Nat) : Nat → State → State
  | 0, s => s
  | n + 1, s =>
    match (List.range 16).find? (levNext s) with
    | some k => if age ≤ levAge s k then emitDue age n (emitLine s k) else s
    | none => s

/-! ### The bulk share and slices (R354, R356) -/

/-- SVC_SHARE_CFG (R361). -/
def shareMin (v : Word) : Nat := Word.fld v 0 7
def shareMax (v : Word) : Nat := Word.fld v 8 7
def shareAdapt (v : Word) : Bool := Word.bit v 15
def shareWindow (v : Word) : Nat := Word.fld v 16 4
def shareLow (v : Word) : Nat := Word.fld v 24 16
def shareHigh (v : Word) : Nat := Word.fld v 40 16

/-- The share and the run of frames after a frame that missed, or had a margin in ns, or neither (R356). -/
def nextShare (cfg : Word) (share run : Nat) (missed : Bool) (margin : Option Nat) : Nat × Nat :=
  if missed then (shareMin cfg, 0)
  else
    match margin with
    | none => (share, 0)
    | some m =>
      if m < shareLow cfg * 1000 then (max (shareMin cfg) (share - 1), 0)
      else if shareHigh cfg * 1000 < m then
        (if shareWindow cfg + 1 ≤ run + 1 then (min (shareMax cfg) (share + 1), 0) else (share, run + 1))
      else (share, 0)

/-- The 6-bit reversal of a slice number (R354). -/
def reverse6 (j : Nat) : Nat :=
  (j % 2) * 32 + (j / 2 % 2) * 16 + (j / 4 % 2) * 8 + (j / 8 % 2) * 4 + (j / 16 % 2) * 2 + j / 32 % 2

/-- Slice j begins: it is held where its reversal is at least the share (R354). In one that is not, the rings that wait look at their
counters again. -/
def beginSlice (s : State) (j : Nat) : State :=
  let held := decide (s.svc.share ≤ reverse6 j)
  let s := { s with svc := { s.svc with slice := j, held := held } }
  if held then s else byClass (fun s => s.rings.foldl (fun s r => relook s r.1) s) s

/-- The share at a frame start (R356, R361): the writes of the SVC registers take effect, and the share follows the frame just
ended. [DEDUCED: log entry 60, DEDUCED: log entry 61] -/
def frameShare (s : State) : State :=
  let v := s.svc
  let cfg := s.reg .svcShareCfg
  let dead := s.reg .svcDeadline
  let (share, run) := if shareAdapt cfg && deadEn dead then nextShare cfg v.share v.run v.missed v.margin
    else (shareMax cfg, 0)
  let s := if share = shareMin cfg && share ≠ v.share then s.setBit .svcEvent 1 else s
  beginSlice { s with svc :=
    { v with
      shareCfg := cfg, deadline := dead, qw := s.reg .svcQw, share := share, run := run, count := 0, margin := none,
      missed := false, qwDone := false } } 0

/-! ### Frames (R341, R343, R345) -/

/-- The instant of the reference as the active unit knows it: its own, with the step that it waits to take (R345). -/
def refAt (s : State) : Int := (s.time.at : Nat) + ((s.time.stepPending.map (·.1)).getD 0)

/-- A step is due: the reference's frame start has come (R345). -/
def stepDue (s : State) : Bool :=
  match s.time.stepPending with
  | none => false
  | some p =>
    match timeSrc s with
    | 1 => true
    | 3 =>
      match s.time.chainFrame with
      | some q => decide ((q.1 * oneNs : Nat) ≤ refAt s)
      | none => false
    | _ => decide ((p.2 : Int) ≤ refAt s)

/-- The frame in progress reaches its end in the active unit's own time. Under REF_SYNC that comes from outside (R341); under the chain it
comes with FRAME messages, and a unit that holds over counts frame periods itself. [DESIGN CHOICE: log entry 55, DEDUCED: log entry 56] -/
def frameOver (s : State) : Bool :=
  match timeSrc s with
  | 1 => true
  | 3 =>
    match s.time.chainFrame with
    | some _ => decide (frameEnd s ≤ s.time.at)
    | none => s.time.state ≠ .locked && decide (frameEnd s ≤ s.time.at)
  | _ => decide (frameEnd s ≤ s.time.at)

/-- A frame start is due: the unit's own, or the reference's at which a step is taken.
[DESIGN CHOICE: log entry 55, DEDUCED: log entry 56] -/
def frameDue (s : State) : Bool := frameOver s || stepDue s

/-- The instant of the frame start that is due, in the active unit's time before a step. -/
def frameStartAt (s : State) : Nat :=
  if timeSrc s = 1 then s.time.at
  else
    match if stepDue s then s.time.stepPending else none with
    | some p =>
      let target := match timeSrc s, s.time.chainFrame with
        | 3, some q => q.1 * oneNs
        | _, _ => p.2
      ((target : Int) - p.1).toNat
    | none => frameEnd s

/-- The step taken at this frame start (R345): the new timebase at its instant. -/
def steppedTo (s : State) (at_ : Nat) : Option Nat :=
  match s.time.setPending with
  | some v => some (v.toNat * oneNs)
  | none => if stepDue s then s.time.stepPending.map fun p => ((at_ : Int) + p.1).toNat else none

/-- A number of 48 bits nearest to a frame count whose low 32 bits are given (R331). -/
def frameNear (f : BitVec 48) (low : Nat) : BitVec 48 :=
  f + BitVec.ofInt 48 (sextInt 32 ((low + 2 ^ 32 - f.toNat % 2 ^ 32) % 2 ^ 32))

/-- The frame count of the frame that starts (R343): from the timebase under SRC 0, 2 and 4, from FRAME messages under the chain,
else the next. -/
def frameCount (s : State) (at_ : Nat) (fmt : Word) : BitVec 48 :=
  match timeSrc s with
  | 1 => s.time.frame + 1
  | 3 =>
    match s.time.chainFrame with
    | some p => frameNear s.time.frame p.2
    | none => s.time.frame + 1
  | _ => BitVec.ofNat 48 (framesAt fmt at_)

/-- A timebase set. -/
def Time.setAt (t : Time) (v : Nat) : Time := { t with ns := BitVec.ofNat 64 (v / oneNs), frac := BitVec.ofNat 32 (v % oneNs) }

/-- The step counted and announced (R345). -/
def noteStep (s : State) : State :=
  let s := (s.countReg .timeStatus 48 16 1).setBit .timeEvent 3
  { s with time := { s.time with steps := s.time.steps + 1, setPending := none, stepPending := none, slew := 0 } }

/-- The two units change places: each keeps its count. -/
def Time.swap (t : Time) (h : Half) : Time :=
  let c := t.other
  { t with
    active := h, ns := c.ns, frac := c.frac, residue := c.residue, frame := c.frame, line := c.line, frameAt := c.frameAt, slew := c.slew
    stepPending := c.stepPending
    other := ⟨t.ns, t.frac, t.residue, t.frame, t.line, t.frameAt, t.slew, t.stepPending⟩ }

/-- The new active unit takes over at a frame start, and does not step (R340). -/
def switchUnit (s : State) : State :=
  if s.config.elected && s.time.active ≠ s.config.senior then
    { s with time := s.time.swap s.config.senior }.setBit .timeEvent 4
  else s

/-- What is still due of the frame that ends: its line events, but for those of the frame start's own cycle, and its deadline (R347,
R355). -/
def closeFrame (s : State) (at_ : Nat) : State :=
  let s := emitDue (cyclesSince s at_ + 1) 16 s
  if deadlineDue s && decide (lineStart s.time (deadLine s.svc.deadline) < at_) then recordMiss s else s

/-- Frame start goes out, and after it the line events of the frame that ends which belong to its cycle: events of one cycle reach a core in
increasing number (R347). -/
def frameEvents (s : State) : State := emitDue 0 16 (emitEvent s 0)

/-- A frame starts (R340, R343, R345, R347, R356): steps apply, frame start goes out, the formats and line events written take effect, the
share is updated, and a leader sends FRAME (R332). -/
def startFrame (s : State) : State :=
  let at_ := frameStartAt s
  let s := frameEvents (closeFrame s at_)
  let (begun, s) := match steppedTo s at_ with
    | some v => (v, noteStep { s with time := s.time.setAt (v + (s.time.at - at_)) })
    | none => (at_, s)
  let fmt := s.reg .timeFmt
  let frame := frameCount s begun fmt
  let s := { s with time :=
    { s.time with
      frame := frame, line := 0, frameAt := begun, fmt := fmt, delivered := [], chainFrame := none, linePhase := 0
      lastRef := if timeSrc s = 1 then s.time.elapsed else s.time.lastRef
      lev := (List.range 16).map fun k => s.reg (.timeLev k)
      other := { s.time.other with frame := frame, line := 0, frameAt := begun } } }
  let s := frameShare (switchUnit s)
  if leads s then chainBoth s 2 (begun / oneNs) (frame.toNat % 2 ^ 32) else s

/-! ### The passing of time (R214, R339) -/

/-- A slew of up to 10 ppm of a grid cycle (R345), in 2^-32 ns. [DEDUCED: log entry 58] -/
def slewStep (e : Int) : Int := max (-45691) (min 45691 e)

/-- One grid cycle of 50/47 ns passes in the active unit, at the reference's frequency as estimated.
[DESIGN CHOICE: log entry 59, DESIGN CHOICE: log entry 89] -/
def passCycle (t : Time) : Time :=
  let whole := t.residue + 50 * oneNs
  let adj := slewStep t.slew
  let next := ((t.at + whole / 47 : Nat) + t.rate + adj).toNat
  let t' := { t.setAt next with residue := whole % 47, slew := t.slew - adj, elapsed := t.elapsed + (next / oneNs - t.at / oneNs) }
  { t' with line := BitVec.ofNat 16 (lineNow t') }

/-- The step that the unit that is not active waits for, once its reference reaches a frame start. -/
def Clock.stepIfDue (c : Clock) : Clock :=
  match c.stepPending with
  | none => c
  | some p =>
    let ref := (c.at : Int) + p.1
    if (p.2 : Int) ≤ ref then
      { c with ns := BitVec.ofNat 64 (ref.toNat / oneNs), frac := BitVec.ofNat 32 (ref.toNat % oneNs), stepPending := none }
    else c

/-- The same cycle in the other unit. -/
def Clock.pass (t : Time) (c : Clock) : Clock :=
  let whole := c.residue + 50 * oneNs
  let adj := slewStep c.slew
  let next := ((c.at + whole / 47 : Nat) + t.rate + adj).toNat
  let c := { c with ns := BitVec.ofNat 64 (next / oneNs), frac := BitVec.ofNat 32 (next % oneNs), residue := whole % 47, slew := c.slew - adj }
  { c with line := BitVec.ofNat 16 (lineAfter t.fmt (((c.at - c.frameAt : Nat) : Int) - t.linePhase).toNat) }.stepIfDue

/-- How the unit that follows closes its distance from the disciplined one (R340, R345; log entry 107). [DESIGN CHOICE: log entry 107] -/
def closing (s : State) (old : Option (Int × Nat)) (e : Int) (ref : Nat) : Int × Option (Int × Nat) :=
  if errSize e ≤ stepLimit s then (e, none) else (0, some (stepAt s.time.fmt old e ref))

/-- The unit that is not disciplined follows the one that is, over the time path (R340). -/
def follow (s : State) : Time :=
  let t := s.time
  let e : Int := (t.at : Int) - t.other.at
  if discUnit s = t.active then
    let (slew, step) := closing s t.other.stepPending e t.at
    { t with other := { t.other with slew := slew, stepPending := step } }
  else
    let (slew, step) := closing s t.stepPending (-e) t.other.at
    { t with slew := slew, stepPending := step }

/-- One grid cycle passes in both time units. -/
def passUnits (s : State) : Time :=
  let t := follow s
  { passCycle t with other := t.other.pass t }

/-- The two units agree within 2 ns (R340). -/
def unitsAgree (t : Time) : Bool := decide (errSize ((t.at : Int) - t.other.at) ≤ 2 * oneNs)

end Sys2Proof.Machine
end

