-- ==== Sys2Proof/Machine/Time.lean ====
section
/-! DEFINITION. The commands of reference time and of the service controls (R339 to R361), and the phase log (R306 to R308). -/

namespace Sys2Proof.Machine

open Sys2Proof

/-! ### The answers of a cluster's reads -/

/-- A cluster of the device. -/
def State.cluster (s : State) (h : Half) : Cluster := s.clusters.getD (halfNum h) Cluster.reset
def State.modCluster (s : State) (h : Half) (f : Cluster → Cluster) : State :=
  { s with clusters := setAt s.clusters (halfNum h) (f (s.cluster h)) }

/-- A read answers a cluster. -/
def answer (s : State) (who : Half) (v : Word) : State := s.modCluster who fun c => { c with rdata := v, accessFault := false }

/-! ### Frames and events -/

/-- FRAME_START (R343). The time units run in frost too (R347). -/
def execFrameStart (s : State) : Out :=
  stepIf (s.live && frameDue s) s (useStored (.timeUnit s.time.active) s (startFrame s))

/-- A line event of the cycle of a frame start that is due goes out after it (R347). -/
def yieldsToFrame (s : State) (k : Nat) : Bool :=
  timeSrc s ≠ 1 && frameDue s && decide (levAge s k ≤ cyclesSince s (frameStartAt s))

/-- LINE_EVENT (R347). -/
def execLineEvent (n : Nat) (s : State) : Out := stepIf (s.live && levNext s n && !yieldsToFrame s n) s (emitLine s n)

/-- SLICE_START (R354). -/
def execSliceStart (s : State) : Out :=
  let j := s.svc.slice + 1
  stepIf (s.live && decide (j < 64) && decide (sliceAt s.time j ≤ s.time.at)) s (beginSlice s j)

/-- DEADLINE_LINE_BEGIN (R355). -/
def execDeadlineLineBegin (s : State) : Out := stepIf (s.live && deadlineDue s) s (recordMiss s)

/-! ### References (R341, R344 to R346) -/

/-- REFERENCE_MEASUREMENT (R344): a phase error in ns against REF_SYNC or PTP, and the frequency they supply (R341) as an offset in 2^-32 ns
per grid cycle. -/
def execReferenceMeasurement (m : Measurement) (s : State) : Out :=
  stepIf (s.live && (timeSrc s = 1 || timeSrc s = 2)) s (measure s (m.err * oneNs) m.freq)

/-- HOLDOVER_EXPIRY (R344). -/
def execHoldoverExpiry (s : State) : Out := stepIf (s.live && holdOver s) s (enterTime s .free)

/-- PPS_EDGE (R341): the edge at the disciplined unit, which is the active one (R340), measures a phase error in ns, and the frequency. -/
def execPpsEdge (h : Half) (m : Measurement) (s : State) : Out :=
  stepIf (s.live && timeSrc s = 4 && h = s.time.active) s (measure s (m.err * oneNs) m.freq)

/-- PTP_EVENT_MESSAGE (R346): the port of PTP_PORT stamps the message. -/
def execPtpEventMessage (h : Half) (frame : List Byte) (s : State) : Out :=
  stepIf (s.live && s.ready (.mgmt h) && h = (if s.regBit .timeCfg 3 then Half.E else Half.W)) s
    { s with time := { s.time with ptp := s.time.ptp ++ [(h, s.time.ns, frame)] } }

/-! ### TIME registers (R342, R345, R360) -/

/-- The line counts of R342 under REF_SYNC, by rate and sync. -/
def refLines (rate sync : Nat) : List Nat :=
  match sync with
  | 1 => if rate = 2 then [625] else if rate = 3 then [525] else []
  | 2 => if rate < 10 then [1125, 750] else if rate < 13 then [1125] else []
  | _ => []

/-- A combination supported under REF_SYNC. -/
def fmtRefSync (v : Word) : Bool := (refLines (fmtRate v) (fmtSync v)).contains (fmtLines v)

/-- A combination supported under the source in force (R342). -/
def fmtSupported (src : Nat) (v : Word) : Bool :=
  fmtSync v ≠ 3 && (if src = 1 then fmtRefSync v
    else fmtRate v < 13 && decide (16 ≤ fmtLines v) && decide (fmtLines v ≤ 4096))

/-- A write of a TIME register is ignored. -/
def timeIgnored (s : State) : State := s.setBit .timeEvent 5

/-- TIME_CFG written: under SRC 0 the unit is FREE (R344). [DEDUCED: log entry 64] -/
def setTimeCfg (s : State) (v : Word) : State :=
  let old := timeSrc s
  let s := s.setReg .timeCfg v
  let s := if timeSrc s = old then s else
      let s := setClose s 0 none
      { s with time := { s.time with good := 0, lastRef := s.time.elapsed, linePhase := 0 } }
  if timeSrc s = 0 then enterTime s .free else s

/-- TIME_CFG (R341, R342, R360). -/
def execTimeCfg (who : Half) (v : Word) (s : State) : Out :=
  writeReg who .timeCfg true v s fun s =>
    let src := Word.fld v 0 3
    if 5 ≤ src ∨ (src = 1 ∧ fmtRefSync (s.reg .timeFmt) = false) then timeIgnored s else setTimeCfg s v

/-- TIME_FMT (R342): from the next frame start. -/
def execTimeFmt (who : Half) (v : Word) (s : State) : Out :=
  writeReg who .timeFmt true v s fun s => if fmtSupported (timeSrc s) v then s.setReg .timeFmt v else timeIgnored s

/-- TIME_SET (R345): a step at the next frame start, under SRC 0, 1 and 4 only. -/
def execTimeSet (who : Half) (v : Word) (s : State) : Out :=
  writeReg who .timeSet true v s fun s =>
    if timeSrc s = 0 ∨ timeSrc s = 1 ∨ timeSrc s = 4 then { s with time := { s.time with setPending := some v } }
    else timeIgnored s

/-- A read of TIME_NOW latches TIME_LINE (R339). -/
def readTimeNow (s : State) : Word × State :=
  (s.time.ns, s.setReg .timeLine ((s.time.frame.zeroExtend 64 <<< 16) ||| s.time.line.zeroExtend 64))

/-- TIME_NOW (R339, R360). -/
def execTimeNow (who : Half) (s : State) : Out :=
  stepIf (clusterRuns s who) s
    (useStored (.timeUnit s.time.active) s (answer (readTimeNow s).2 who (readTimeNow s).1))

/-- The log region of a base lies whole in populated HBM or in the program part of the lake (R306). -/
def logFits (s : State) (b : Nat) : Bool :=
  decide (b + 0x20000 ≤ hbmEnd s.config.interleave) || (decide (lakeBase ≤ b) && decide (b + 0x20000 ≤ lakeEnd s.part.l1t))

/-- TIME_PLOG_BASE (R306, R360): BASE is writable while ARM is 0; arming sets n to 0. [DEDUCED: log entry 63] -/
def execTimePlogBase (who : Half) (v : Word) (s : State) : Out :=
  writeReg who .timePlogBase true v s fun s =>
    let armed := s.regBit .timePlogBase 0
    let base := if armed then s.regFld .timePlogBase 12 31 else Word.fld v 12 31
    if logFits s (base * 2 ^ 12) then
      let s := s.setReg .timePlogBase (BitVec.ofNat 64 (base * 2 ^ 12 + Word.fld v 0 1))
      if Word.bit v 0 && !armed then { s with time := { s.time with plogNext := 0 } } else s
    else timeIgnored s

/-! ### The phase log (R306 to R308) -/

/-- The 32 bytes of an entry (R307). -/
def plogBytes (k : CtxAt) (e : PlogEntry) (lost : Bool) (n : BitVec 32) : List Byte :=
  toBytes 8 e.start.toNat ++ toBytes 8 e.fin.toNat ++ toBytes 4 e.frame.toNat ++ toBytes 2 e.line.toNat ++ toBytes 2 e.phase
    ++ toBytes 2 (k.core + ctxNum k.ctx * 2 ^ 15)
    ++ toBytes 1 (e.unmatched.toNat + lost.toNat * 2 + e.stepped.toNat * 4) ++ toBytes 1 0 ++ toBytes 4 n.toNat

/-- The address of entry n. -/
def plogAddr (s : State) : Nat := s.regFld .timePlogBase 12 31 * 2 ^ 12 + s.time.plogNext.toNat % 4096 * 32

/-- The oldest waiting entry of a context is written through the active half's bridge, or lost where its unit stays
uncorrectable (R306). [DEDUCED: log entry 62] -/
def writePlog (s : State) (k : CtxAt) (e : PlogEntry) : State :=
  let a := plogAddr s
  let lost := e.lost || (s.ctx k).plogLost
  let n := s.time.plogNext
  let s := s.modCtx k fun c => { c with plog := c.plog.drop 1 }
  let s := passPort { s with time := { s.time with plogNext := n + 1 } } a 32 (bridgeRequester s.time.active false)
  match portWrite s a (plogBytes k e lost n) with
  | (true, s) => s.modCtx k fun c => { c with plogLost := false }
  | (false, s) => (s.modCtx k fun c => { c with plogLost := true }).countReg .timePlogLost 0 32 1

/-- PHASE_LOG_ENTRY_WRITE (R306): once the port takes the write. -/
def execPhaseLogEntryWrite (k : CtxAt) (s : State) : Out :=
  match (s.ctx k).plog with
  | [] => .next s
  | e :: _ =>
    stepIf (s.working && decide (k.core < coreCount) && s.regBit .timePlogBase 0
        && portFree s (plogAddr s) 32 (bridgeRequester s.time.active false) true) s
      (settlePorts (useStored (.bridge s.time.active) s (writePlog s k e)))

/-! ### Quiet windows and recalibration (R357, R358) -/

/-- Some context of a class is enabled: neither DISABLED nor FAULTED. [DEDUCED: log entry 65] -/
def anyEnabled (s : State) (x : Ctx) : Bool :=
  s.cores.any fun c => !((c.2.ctx x).state = .disabled || (c.2.ctx x).state = .faulted)

/-- A unit that is recalibrated: its ready bit, its number, the longest duration in ns and the period in ns (R358). -/
def recalFn : RecalUnit → Fn
  | .stack n => .stack n
  | .lake n => .lake n
  | .link n => .link n
def recalKey : RecalUnit → Nat
  | .stack n => n
  | .lake n => 16 + n
  | .link n => 80 + n
def recalNs : RecalUnit → Nat
  | .stack _ => 3200
  | .lake _ => 5000
  | .link _ => 2600
def recalPeriod : RecalUnit → Nat
  | .stack _ => 64000000
  | .lake _ => 128000000
  | .link _ => 1000000000

/-- The unit exists on this part. -/
def recalFitted (s : State) : RecalUnit → Bool
  | .stack n => n < 16
  | .lake n => channelFitted s.part.l1t n
  | .link n => n < 36

/-- A recalibration of a unit is on the list. -/
def recalOf (s : State) (u : RecalUnit) : Option Recal := s.svc.recals.find? fun r => r.unit = u

/-- A recalibration put on the list, or changed there. -/
def putRecal (s : State) (r : Recal) : State :=
  { s with svc := { s.svc with recals :=
      if (recalOf s r.unit).isSome then s.svc.recals.map fun x => if x.unit = r.unit then r else x else s.svc.recals ++ [r] } }

/-- The temperature of a stack has changed by 5 °C since it was last calibrated. -/
def tempMoved (s : State) (n : Nat) : Bool :=
  let t := s.power.sample.dieTemp.getD n 0
  let t0 := SMap.getD s.svc.calTemp n 0
  decide (t0 + 5 ≤ t) || decide (t + 5 ≤ t0)

/-- A recalibration has fallen due (R358). -/
def fallsDue (s : State) (u : RecalUnit) : Bool :=
  decide (SMap.getD s.svc.calLast (recalKey u) 0 + recalPeriod u ≤ s.time.elapsed)
    || (match u with
      | .stack n => tempMoved s n
      | _ => false)

/-- RECALIBRATION_DUE (R357, R358): with quiet windows off and no F context enabled it starts at once; one that waits starts once
both hold. One that firmware has also asked for is still due. -/
def execRecalibrationDue (u : RecalUnit) (s : State) : Out :=
  let now := !Word.bit s.svc.qw 63 && !anyEnabled s .F
  let old := (recalOf s u).getD ⟨u, s.time.elapsed, false, false, false⟩
  stepIf (s.working && recalFitted s u && s.ready (recalFn u) && (old.due || fallsDue s u)) s
    (putRecal s { old with since := if old.due then old.since else s.time.elapsed, running := old.running || now, due := true })

/-- The quiet window of this frame is open and has not yet begun its work (R357). -/
def windowOpen (s : State) : Bool :=
  let q := s.svc.qw
  Word.bit q 63 && s.time.frame.toNat % (Word.fld q 48 8 + 1) = 0 && !s.svc.qwDone
    && decide (lineStart s.time (Word.fld q 0 16) ≤ s.time.at) && decide (s.time.at < lineStart s.time (Word.fld q 32 16))

/-- Every recalibration due that fits before END_LINE starts (R358). -/
def startWindow (s : State) : State :=
  let fits (u : RecalUnit) : Bool := decide (s.time.at + recalNs u * oneNs ≤ lineStart s.time (Word.fld s.svc.qw 32 16))
  { s with svc :=
    { s.svc with
      qwDone := true
      recals := s.svc.recals.map fun r => if fits r.unit then { r with running := true } else r } }

/-- QUIET_WINDOW_START (R357, R358). -/
def execQuietWindowStart (s : State) : Out := stepIf (s.live && windowOpen s) s (startWindow s)

/-- A unit whose recalibration fails leaves service (R407). -/
def recalFails (s : State) (u : RecalUnit) : State :=
  match u with
  | .stack n => stackLeaves s n
  | .lake n => lakeLeaves s n
  | .link n => linkLeaves s n 2 .down

/-- The CTRL_REQ code of a recalibration and the kind of its unit in a record (R379, R402). -/
def recalCode : RecalUnit → Nat × Nat × Nat
  | .stack n => (2, 3, n)
  | .lake n => (3, 4, n)
  | .link n => (4, 6, n)

/-- CTRL_REQ_STATUS.LAST (R385). -/
def lastReq (s : State) (v : Nat) : State := s.putFld .ctrlReqStatus 0 3 v

/-- A request has ended (R379, R403 class 16). -/
def reqEnds (s : State) (code kind num : Nat) (ok : Bool) : State :=
  if ok then lastReq s 1 else raiseRec (lastReq s 4) (Rec.of s 16 code 5 kind num)

/-- The end of a recalibration (R358, R379). -/
def endRecal (s : State) (r : Recal) (ok : Bool) : State :=
  let u := r.unit
  let s := { s with svc :=
    { s.svc with
      recals := s.svc.recals.filter fun x => x.unit ≠ u
      calLast := SMap.insert s.svc.calLast (recalKey u) s.time.elapsed
      calTemp := match u with
        | .stack n => SMap.insert s.svc.calTemp n (s.power.sample.dieTemp.getD n 0)
        | _ => s.svc.calTemp } }
  let s := if ok then s else recalFails s u
  settlePorts <| if r.requested then reqEnds s (recalCode u).1 (recalCode u).2.1 (recalCode u).2.2 ok else s

/-- RECALIBRATION_COMPLETE (R358). -/
def execRecalibrationComplete (u : RecalUnit) (ok : Bool) (s : State) : Out :=
  match s.svc.recals.find? fun r => r.unit = u && r.running with
  | some r => stepIf s.live s (byClass (endRecal · r ok) s)
  | none => .next s

/-- QW_STARVED (R358): due for more than 1 s. -/
def execQwStarved (u : RecalUnit) (s : State) : Out :=
  match s.svc.recals.find? fun r => r.unit = u && !r.running && r.due with
  | some r => stepIf (s.live && decide (r.since + 1000000000 < s.time.elapsed)) s (s.setBit .svcEvent 2)
  | none => .next s

/-- SVC_MARGIN_MIN.CLR (R361). -/
def execSvcMarginMinClr (who : Half) (v : Word) (s : State) : Out :=
  writeReg who .svcMarginMin true v s fun s => if Word.bit v 63 then s.setReg .svcMarginMin 0xFFFFFFFF else s

end Sys2Proof.Machine
end

