-- ==== Sys2Proof/Machine/Chain.lean ====
section
/-! DEFINITION. The commands of the timing chain (R330 to R338). -/

namespace Sys2Proof.Machine

open Sys2Proof

/-! ### Receiving -/

/-- The direction of what arrives at a port (R330): counter-clockwise at CHAIN_OUT. -/
def arrivesCcw : ChainSide → Bool
  | .cin => false
  | .cout => true

/-- A message of a type that reaches a port is taken; one that fails its CRC, whatever its bytes say, is discarded and counted (R331). -/
def takeChain (s : State) (x : ChainSide) (m : BitVec 256) (type : Nat) (f : ChainMsg → State → State) : Out :=
  stepIf (chainUp s x) s
    (if chainGood m then (if (chainMsgOf m).mtype = type then f (chainMsgOf m) s else s) else s.countReg .chainErr 16 16 1)

/-- A message that travels round the ring (R334, R335): dropped where its segment is not VALID, where it has come back to its origin,
and at HOPS 64, which counts. -/
def roundRing (s : State) (x : ChainSide) (m : ChainMsg) (home f : State → State) : State :=
  if !(s.chain.port x).valid then s
  else if m.origin = s.dev then home s
  else if 64 ≤ m.hops then s.countReg .chainErr 0 16 1
  else f s

/-- A message goes on at the other port, one device further (R334). -/
def forward (s : State) (x : ChainSide) (m : ChainMsg) : State := chainSend s (otherSide x) { m with hops := m.hops + 1 }

/-- A TIME or FRAME message goes on with the delay of its segment and this device's residence in CORR (R334). -/
def forwardTime (s : State) (x : ChainSide) (m : ChainMsg) (residence : Nat) : State :=
  forward s x { m with corr := m.corr + ((s.chain.port x).delay : Int) + (residence : Int) }

/-- The direction followed (R334): fewer HOPS, clockwise on a tie. -/
def chooseDir (cw ccw : Option Nat) : Bool :=
  match cw, ccw with
  | some a, some b => b < a
  | none, some _ => true
  | _, none => false

/-- The HOPS of the TIME messages of a direction noted, and the direction followed chosen anew. -/
def setHops (s : State) (ccw : Bool) (h : Option Nat) : State :=
  let c := if ccw then { s.chain with ccwHops := h } else { s.chain with cwHops := h }
  let lost := c.cwHops.isNone && c.ccwHops.isNone && (s.chain.cwHops.isSome || s.chain.ccwHops.isSome) && !leads s
  let s := { s with chain :=
    { c with usingCcw := chooseDir c.cwHops c.ccwHops, holdover := lost || (c.holdover && h.isNone) } }
  if lost then
    let s := s.setBit .chainEvent 4
    if timeSrc s = 3 then loseReference s else s
  else s

/-- The leader's time at arrival (R334), in 2^-32 ns. -/
def leaderTime (s : State) (x : ChainSide) (m : ChainMsg) : Int :=
  (m.value * 2 ^ 32 + m.aux : Nat) + (m.corr + ((s.chain.port x).delay : Int)) * 2 ^ 16

/-- A TIME message of a direction has come. -/
def noteSeen (s : State) (ccw : Bool) : State :=
  { s with chain :=
    if ccw then { s.chain with ccwSeen := s.time.elapsed } else { s.chain with cwSeen := s.time.elapsed } }

/-- A follower uses a TIME message (R334): its position, and under SRC 3 a phase measurement in the direction followed, and the leader's
frequency. -/
def followTime (s : State) (x : ChainSide) (m : ChainMsg) (freq : Int) : State :=
  let s := noteSeen (setHops s (arrivesCcw x) (some m.hops)) (arrivesCcw x)
  if s.chain.usingCcw = arrivesCcw x then
    let s := { s with chain := { s.chain with leader := m.origin } }
    if timeSrc s = 3 then measure s (leaderTime s x m - (discAt s : Int)) freq else s
  else s

/-- A leader that hears another leader (R332): CONFLICT; the higher ID gives way. -/
def hearLeader (s : State) (m : ChainMsg) : State :=
  let s := s.setBit .chainEvent 3
  if m.origin < s.dev then { s with chain := { s.chain with gaveWay := true } } else s

/-- TIME (R332, R334). The leader's own message tells it the size of the ring. -/
def execTime (x : ChainSide) (msg : BitVec 256) (p : Passage) (s : State) : Out :=
  takeChain s x msg 1 fun m s =>
    roundRing s x m (fun s => if leads s then { s with chain := { s.chain with ring := min m.hops 64 } } else s) fun s =>
      let s := if leads s then hearLeader s m else s
      forwardTime (if leads s then s else followTime s x m p.freq) x m p.residence

/-- The TIME messages of a direction have stopped (R334; log entry 104). [DESIGN CHOICE: log entry 104] -/
def dirSilent (s : State) (ccw : Bool) : Bool :=
  let c := s.chain
  (if ccw then c.ccwHops.isSome else c.cwHops.isSome)
    && decide (1024 * (Config.chainSilence + 1) ≤ s.time.elapsed - (if ccw then c.ccwSeen else c.cwSeen))

/-- A direction fails: the follower moves to the other, and with both its time unit holds over. -/
def failDir (s : State) (ccw : Bool) : State := if dirSilent s ccw then setHops s ccw none else s

/-- REFERENCE_LOSS (R334, R344): the reference is missing for its limit, or the TIME messages of a direction of the chain have stopped. -/
def execReferenceLoss (s : State) : Out :=
  let s' := failDir (failDir s false) true
  stepIf (s.live && (referenceGone s || dirSilent s false || dirSilent s true)) s
    (if referenceGone s then loseReference s' else s')

/-- FRAME (R334, R341): under SRC 3 a follower's frame starts at the instant it carries. -/
def execFrame (x : ChainSide) (msg : BitVec 256) (residence : Nat) (s : State) : Out :=
  takeChain s x msg 2 fun m s =>
    roundRing s x m id fun s =>
      let s := if !leads s && s.chain.usingCcw = arrivesCcw x && timeSrc s = 3 then
          { s with time := { s.time with chainFrame := some (m.value, m.aux) } }
        else s
      forwardTime s x m residence

/-- An alarm is recorded (R336). -/
def recordAlarm (s : State) (m : ChainMsg) : State :=
  let s := s.setBit .chainEvent 0
  if s.regBit .chainAlarm 63 then s
  else (s.setReg .chainAlarm (BitVec.ofNat 64 (2 ^ 63 + m.origin * 2 ^ 48 + m.value % 65536))).setReg .chainAlarmTime s.time.ns

/-- An alarm of code 1 brings frost where FROST_FOLLOW is set (R336, R403 class 17); the record names the half of the port and the
alarm's origin. -/
def followFrost (s : State) (x : ChainSide) (m : ChainMsg) : State :=
  if m.value % 65536 = 1 && s.regBit .chainCfg 1 then
    raiseRec s { Rec.of s 17 1 0 12 (arrivesCcw x).toNat with dev := m.origin, d0 := s.reg .chainAlarm }
  else s

/-- ALARM (R336): recorded and passed on. -/
def execAlarm (x : ChainSide) (msg : BitVec 256) (s : State) : Out :=
  takeChain s x msg 3 fun m s =>
    roundRing s x m id fun s => forward (followFrost (recordAlarm s m) x m) x m

/-! ### Sending -/

/-- CHAIN_TIME_SEND (R332): a leader's TIME, every 1,024 ns. -/
def execChainTimeSend (s : State) : Out :=
  stepIf (s.live && s.chain.bypassOpen && leads s && decide (s.chain.timeDue ≤ s.time.elapsed)) s
    (chainBoth { s with chain := { s.chain with timeDue := s.time.elapsed + 1024 } } 1 s.time.ns.toNat s.time.frac.toNat)

/-- CHAIN_ALARM_TX (R336): codes below 0x100 are ignored. -/
def execChainAlarmTx (who : Half) (v : Word) (s : State) : Out :=
  writeReg who .chainAlarmTx true v s fun s => if Word.fld v 0 16 < 0x100 then s else sendAlarm s (Word.fld v 0 16)

/-! ### Segments (R333, R335) -/

/-- PROBE_SEND (R333): every 16 µs, its departure stamped in 2^-16 ns. -/
def execProbeSend (x : ChainSide) (stamp : Nat) (s : State) : Out :=
  stepIf (chainUp s x && decide ((s.chain.port x).probeDue ≤ s.time.elapsed)) s
    (let (n, s) := chainSeq s 4
     let s := s.modPort x fun p => { p with probe := some stamp, probeDue := s.time.elapsed + 16000 }
     chainSend s x ⟨4, 1, s.dev, x = .cin, n, 0, 0, 0⟩)

/-- PROBE (R333): answered on the same lane pair with this device's residence. -/
def execProbe (x : ChainSide) (msg : BitVec 256) (residence : Nat) (s : State) : Out :=
  takeChain s x msg 4 fun _ s =>
    let (n, s) := chainSeq s 5
    chainSend s x ⟨5, 1, s.dev, x = .cin, n, residence, 0, 0⟩

/-- The mean of measurements. -/
def meanOf (xs : List Nat) : Nat := xs.sum / max 1 xs.length

/-- Eight measurements within 1 ns of one another (R333), in 2^-16 ns. -/
def agree (xs : List Nat) : Bool :=
  xs.length = 8 && decide (xs.foldl max 0 ≤ xs.foldl min (xs.headD 0) + 65536)

/-- The distance of two delays. -/
def apart (a b : Nat) : Nat := max a b - min a b

/-- A segment is not VALID any more: nothing of its direction is usable (R334, R335). -/
def segmentLost (s : State) (x : ChainSide) : State := setHops (s.setBit .chainEvent 1) (arrivesCcw x) none

/-- A measurement of the one-way delay (R333). -/
def addMeasure (s : State) (x : ChainSide) (d : Nat) : State :=
  let p := s.chain.port x
  if p.valid && decide (2 * 65536 < apart d p.delay) then
    segmentLost (s.modPort x fun p => { p with valid := false, meas := [], probe := none }) x
  else
    let meas := (d :: p.meas).take 8
    let delay := if meas.length = 8 then meanOf meas else p.delay
    let s := s.modPort x fun p =>
      { p with meas := meas, delay := delay, valid := p.valid || agree meas, probe := none }
    if 65536 < apart delay p.delay then s.setBit .chainEvent 1 else s

/-- ECHO (R333): the round trip less the neighbour's residence, halved. -/
def execEcho (x : ChainSide) (msg : BitVec 256) (stamp : Nat) (s : State) : Out :=
  takeChain s x msg 5 fun m s =>
    match (s.chain.port x).probe with
    | some t => addMeasure s x ((stamp - t - m.value) / 2)
    | none => s

/-- CHAIN_LOCK_LOSS (R333). -/
def execChainLockLoss (x : ChainSide) (s : State) : Out :=
  stepIf (chainUp s x) s
    (let was := (s.chain.port x).valid
     let s := s.modPort x fun p => { p with lock := false, valid := false, meas := [], probe := none }
     let s := s.setBit .chainEvent 2
     if was then segmentLost s x else s)

/-- CHAIN_LOCK_REGAINED (R333): the port measures its segment anew. -/
def execChainLockRegained (x : ChainSide) (s : State) : Out :=
  stepIf (s.live && s.chain.bypassOpen && !(s.chain.port x).lock) s
    (s.modPort x fun p => { p with lock := true, probe := none, meas := [] })

/-- A chain port is ready: more than its time has passed since RESET_N rose (R335). [DESIGN CHOICE: log entry 104] -/
def chainPortReady (s : State) (x : ChainSide) : Bool :=
  decide (Config.chainReady (match x with
    | .cin => 0
    | .cout => 1) < s.time.elapsed)

/-- BYPASS_OPEN (R335): once both chain ports are ready. -/
def execBypassOpen (s : State) : Out :=
  stepIf (s.live && chainPortReady s .cin && chainPortReady s .cout && !s.chain.bypassOpen) s { s with chain := { s.chain with bypassOpen := true } }

/-- CHAIN_CFG written (R332): a leader that gave way leads again. -/
def writeChainCfg (s : State) (v : Word) : State :=
  { s.setReg .chainCfg v with chain := { s.chain with gaveWay := false } }

/-- CHAIN_STATUS (R334, R338). -/
def chainStatusWord (s : State) : Word :=
  let c := s.chain
  BitVec.ofNat 64 (packNat 1 [c.cin.lock.toNat, c.cout.lock.toNat, c.cin.valid.toNat, c.cout.valid.toNat, c.cwHops.isSome.toNat,
      c.ccwHops.isSome.toNat, c.usingCcw.toNat, c.holdover.toNat]
    + c.cwHops.getD 0 % 64 * 2 ^ 16 + c.ccwHops.getD 0 % 64 * 2 ^ 24 + (if leads s then c.ring else 0) * 2 ^ 32)

/-- CHAIN_SEG_IN and CHAIN_SEG_OUT (R338). -/
def chainSegWord (p : ChainPort) : Word := BitVec.ofNat 64 (p.valid.toNat * 2 ^ 63 + p.delay % 2 ^ 48)

end Sys2Proof.Machine
end

