-- ==== Sys2Proof/Machine/Crypto.lean ====
section
/-! DEFINITION. SHAKE256 (FIPS 202) and Ed448 (RFC 8032), which sign and measure images and reports (R368, R369, R380 to R384). -/

namespace Sys2Proof.Machine

open Sys2Proof

/-! ### SHAKE256 -/

/-- The round constants of iota. -/
def iotaConstants : List Word :=
  [0x0000000000000001, 0x0000000000008082, 0x800000000000808A, 0x8000000080008000, 0x000000000000808B, 0x0000000080000001,
    0x8000000080008081, 0x8000000000008009, 0x000000000000008A, 0x0000000000000088, 0x0000000080008009, 0x000000008000000A]
  ++ [0x000000008000808B, 0x800000000000008B, 0x8000000000008089, 0x8000000000008003, 0x8000000000008002, 0x8000000000000080,
    0x000000000000800A, 0x800000008000000A, 0x8000000080008081, 0x8000000000008080, 0x0000000080000001, 0x8000000080008008]

/-- One row of chi. -/
def chiRow (a b c d e : Word) : List Word :=
  [a ^^^ (~~~b &&& c), b ^^^ (~~~c &&& d), c ^^^ (~~~d &&& e), d ^^^ (~~~e &&& a), e ^^^ (~~~a &&& b)]

/-- One round of Keccak-f[1600] (theta, rho and pi, chi, iota) on the lanes (x, y), listed as x + 5y and here named a x y. -/
def keccakRound (a : List Word) (rc : Word) : List Word :=
  match a with
  | [a00, a10, a20, a30, a40, a01, a11, a21, a31, a41,
      a02, a12, a22, a32, a42, a03, a13, a23, a33, a43,
      a04, a14, a24, a34, a44] =>
    let c0 := a00 ^^^ a01 ^^^ a02 ^^^ a03 ^^^ a04
    let c1 := a10 ^^^ a11 ^^^ a12 ^^^ a13 ^^^ a14
    let c2 := a20 ^^^ a21 ^^^ a22 ^^^ a23 ^^^ a24
    let c3 := a30 ^^^ a31 ^^^ a32 ^^^ a33 ^^^ a34
    let c4 := a40 ^^^ a41 ^^^ a42 ^^^ a43 ^^^ a44
    let d0 := c4 ^^^ c1.rotateLeft 1
    let d1 := c0 ^^^ c2.rotateLeft 1
    let d2 := c1 ^^^ c3.rotateLeft 1
    let d3 := c2 ^^^ c4.rotateLeft 1
    let d4 := c3 ^^^ c0.rotateLeft 1
    let rows := chiRow (a00 ^^^ d0) ((a11 ^^^ d1).rotateLeft 44) ((a22 ^^^ d2).rotateLeft 43)
        ((a33 ^^^ d3).rotateLeft 21) ((a44 ^^^ d4).rotateLeft 14)
      ++ chiRow ((a30 ^^^ d3).rotateLeft 28) ((a41 ^^^ d4).rotateLeft 20) ((a02 ^^^ d0).rotateLeft 3)
        ((a13 ^^^ d1).rotateLeft 45) ((a24 ^^^ d2).rotateLeft 61)
      ++ chiRow ((a10 ^^^ d1).rotateLeft 1) ((a21 ^^^ d2).rotateLeft 6) ((a32 ^^^ d3).rotateLeft 25)
        ((a43 ^^^ d4).rotateLeft 8) ((a04 ^^^ d0).rotateLeft 18)
      ++ chiRow ((a40 ^^^ d4).rotateLeft 27) ((a01 ^^^ d0).rotateLeft 36) ((a12 ^^^ d1).rotateLeft 10)
        ((a23 ^^^ d2).rotateLeft 15) ((a34 ^^^ d3).rotateLeft 56)
      ++ chiRow ((a20 ^^^ d2).rotateLeft 62) ((a31 ^^^ d3).rotateLeft 55) ((a42 ^^^ d4).rotateLeft 39)
        ((a03 ^^^ d0).rotateLeft 41) ((a14 ^^^ d1).rotateLeft 2)
    match rows with
    | l :: ls => (l ^^^ rc) :: ls
    | [] => []
  | _ => []

/-- The permutation. -/
def keccak (a : List Word) : List Word := iotaConstants.foldl keccakRound a

/-- A block of 136 bytes absorbed. -/
def absorbBlock (a : List Word) (bs : List Byte) : List Word :=
  keccak (a.zipIdx.map fun p => p.1 ^^^ BitVec.ofNat 64 (bytesAt bs (8 * p.2) 8))

/-- The last, short block of a message: the SHAKE suffix and the padding. -/
def padBlock (bs : List Byte) : List Byte :=
  toBytes 136 (ofBytes bs + 0x1F * 2 ^ (8 * bs.length) + 0x80 * 2 ^ (8 * 135))

/-- A message absorbed; `n` is the number of its whole blocks. -/
def absorb (n : Nat) (a : List Word) (bs : List Byte) : List Word :=
  match n with
  | 0 => absorbBlock a (padBlock bs)
  | n + 1 => absorb n (absorbBlock a (bs.take 136)) (bs.drop 136)

/-- Blocks of 136 bytes squeezed. -/
def squeeze (n : Nat) (a : List Word) : List Byte :=
  match n with
  | 0 => []
  | n + 1 => (a.take 17).flatMap (fun w => toBytes 8 w.toNat) ++ squeeze n (keccak a)

/-- n bytes of the SHAKE256 of a message. -/
def shake256 (bs : List Byte) (n : Nat) : List Byte :=
  (squeeze (n / 136 + 1) (absorb (bs.length / 136) (List.replicate 25 0) bs)).take n

/-! ### Ed448 -/

/-- The prime 2^448 - 2^224 - 1. -/
def edP : Nat := 2 ^ 448 - 2 ^ 224 - 1

/-- The order of the base point. -/
def edL : Nat := 2 ^ 446 - 13818066809895115352007386748515426880336692474882178609894547503885

/-- Powers modulo a number, over the bits of the exponent from the top down. -/
def powMod (m b : Nat) (e : Nat) : Nat → Nat
  | 0 => 1
  | n + 1 =>
    let r := powMod m b (e / 2) n
    let r := r * r % m
    if e % 2 = 1 then r * b % m else r

/-- An inverse modulo the prime. -/
def edInv (x : Nat) : Nat := powMod edP x (edP - 2) 448

/-- A difference modulo the prime. -/
def edSub (x y : Nat) : Nat := (x + edP - y % edP) % edP

/-- The magnitude of the constant d = -39081 of the curve x² + y² = 1 + d x² y². -/
def edD : Nat := 39081

/-- A point in projective coordinates. -/
structure EdPoint where
  x : Nat
  y : Nat
  z : Nat
  deriving DecidableEq, Repr

/-- The neutral point. -/
def EdPoint.zero : EdPoint := ⟨0, 1, 1⟩

/-- The base point of RFC 8032. -/
def EdPoint.base : EdPoint :=
  ⟨224580040295924300187604334099896036246789641632564134246125461686950415467406032909029192869357953282578032075146446173674602635247710,
    298819210078481492676017930443930673437544040154080242095928241372331506189835876003536878655418784733982303233503462500531545062832660, 1⟩

/-- The sum of two points (RFC 8032, 5.2.4). -/
def EdPoint.add (p q : EdPoint) : EdPoint :=
  let a := p.z * q.z % edP
  let b := a * a % edP
  let c := p.x * q.x % edP
  let d := p.y * q.y % edP
  let e := edSub 0 (edD * c % edP * d)
  let f := edSub b e
  let g := (b + e) % edP
  let h := (p.x + p.y) * (q.x + q.y) % edP
  ⟨a * f % edP * edSub (edSub h c) d % edP, a * g % edP * edSub d c % edP, f * g % edP⟩

/-- A multiple of a point, over n bits of the scalar from the top down. -/
def EdPoint.times (p : EdPoint) (k : Nat) : Nat → EdPoint
  | 0 => .zero
  | n + 1 =>
    let r := p.times (k / 2) n
    let r := r.add r
    if k % 2 = 1 then r.add p else r

/-- Two points are equal. -/
def EdPoint.same (p q : EdPoint) : Bool :=
  p.x * q.z % edP = q.x * p.z % edP && p.y * q.z % edP = q.y * p.z % edP

/-- The 57 bytes of a point: y, and the low bit of x at the top. -/
def EdPoint.encode (p : EdPoint) : List Byte :=
  let i := edInv p.z
  toBytes 57 (p.y * i % edP + p.x * i % edP % 2 * 2 ^ 455)

/-- The point that 57 bytes encode, if they encode one (RFC 8032, 5.2.3). -/
def edDecode (bs : List Byte) : Option EdPoint :=
  let v := ofBytes bs
  let y := v % 2 ^ 455
  let sign := v / 2 ^ 455 % 2
  if bs.length ≠ 57 || edP ≤ y then none
  else
    let u := edSub (y * y % edP) 1
    let w := edSub (edSub 0 (edD * (y * y % edP))) 1
    let u3 := u * u % edP * u % edP
    let x := u3 * w % edP * powMod edP (u3 * u % edP * u % edP * (w * w % edP * w % edP) % edP) ((edP - 3) / 4) 448 % edP
    if w * (x * x % edP) % edP ≠ u then none
    else if x = 0 && sign = 1 then none
    else some ⟨if x % 2 = sign then x else edSub 0 x, y, 1⟩

/-- The dom4 prefix of Ed448 with a context (RFC 8032, 2). -/
def dom4 (ctx : List Byte) : List Byte := ascii "SigEd448" ++ [0, BitVec.ofNat 8 ctx.length] ++ ctx

/-- A scalar from a hash. -/
def edScalar (bs : List Byte) : Nat := ofBytes (shake256 bs 114) % edL

/-- The secret scalar of a 57-byte private key, and the prefix of its signatures. -/
def edSecret (key : List Byte) : Nat × List Byte :=
  let h := shake256 key 114
  let s := ofBytes (h.take 56)
  (s / 4 * 4 % 2 ^ 447 + 2 ^ 447, h.drop 57)

/-- The public key of a private key. -/
def edPublic (key : List Byte) : List Byte := (EdPoint.base.times (edSecret key).1 448).encode

/-- The 114-byte signature of a message with a context. -/
def edSign (key ctx msg : List Byte) : List Byte :=
  let (s, prefix_) := edSecret key
  let a := edPublic key
  let r := edScalar (dom4 ctx ++ prefix_ ++ msg)
  let rb := (EdPoint.base.times r 448).encode
  let k := edScalar (dom4 ctx ++ rb ++ a ++ msg)
  rb ++ toBytes 57 ((r + k * s) % edL)

/-- A signature verifies: [4][S]B = [4]R + [4][k]A (RFC 8032, 5.2.7). -/
def edVerify (pub ctx msg sig : List Byte) : Bool :=
  let rb := sig.take 57
  let s := ofBytes (sig.drop 57)
  match edDecode pub, edDecode rb with
  | some a, some r =>
    let k := edScalar (dom4 ctx ++ rb ++ pub ++ msg)
    let four (p : EdPoint) : EdPoint := (p.add p).add (p.add p)
    sig.length = 114 && decide (s < edL) && (four (EdPoint.base.times s 448)).same (four (r.add (a.times k 448)))
  | _, _ => false

end Sys2Proof.Machine
end

