-- ==== Sys2Proof/Machine/Image.lean ====
section
/-! DEFINITION. Mezia images (R367 to R370): their layout, their checks and the configuration section. -/

namespace Sys2Proof.Machine

open Sys2Proof

/-- An image as it can be read: n bytes at an offset. -/
abbrev ImageRead := Nat → Nat → List Byte

/-- The number that n bytes at an offset spell. -/
def ImageRead.num (rd : ImageRead) (off n : Nat) : Nat := ofBytes (rd off n)

/-- A byte of a flash; one never written reads 0xFF (log entry 33). [PRESUMED: log entry 33] -/
def flashByte (f : List Host.Cell) (a : Nat) : Byte := SMap.getD f a 0xFF

/-- n bytes of a flash. -/
def flashRead (f : List Host.Cell) : ImageRead := fun off n => (List.range n).map fun i => flashByte f (off + i)

/-- Bytes written to a flash. -/
def flashWrite (f : List Host.Cell) (a : Nat) : List Byte → List Host.Cell
  | [] => f
  | b :: bs => flashWrite (SMap.set f a b 0xFF) (a + 1) bs

/-- A file as an image. -/
def fileRead (bs : List Byte) : ImageRead := fun off n => (bs.drop off).take n

/-- The SRAM in a cluster's private space (R362; log entry 108). [DESIGN CHOICE: log entry 108] -/
def sramBase : Nat := 0x800000
def sramSize : Nat := 0x800000

/-! ### The header (R367) -/

def imKind (rd : ImageRead) : Nat := rd.num 0x06 1
def imCompat (rd : ImageRead) : Nat := rd.num 0x07 1
def imSeq (rd : ImageRead) : Nat := rd.num 0x08 8
def imBytes (rd : ImageRead) : Nat := rd.num 0x10 8
def imSections (rd : ImageRead) : Nat := rd.num 0x18 4
def imSlot (rd : ImageRead) : Nat := rd.num 0x1C 4
def imTarget (rd : ImageRead) : Nat := rd.num 0x20 8
def imPubkey (rd : ImageRead) : List Byte := rd 0x30 57

/-- The end of the section table. -/
def imTableEnd (rd : ImageRead) : Nat := 0x80 + 96 * imSections rd

/-- An entry of the section table (R368). -/
structure Section where
  type : Nat
  offset : Nat
  length : Nat
  digest : List Byte
  blank : Bool
  deriving DecidableEq, Repr

def imSection (rd : ImageRead) (i : Nat) : Section :=
  let a := 0x80 + 96 * i
  ⟨rd.num a 4, rd.num (a + 8) 8, rd.num (a + 0x10) 8, rd (a + 0x20) 64, rd.num (a + 4) 4 = 0⟩

def imTable (rd : ImageRead) : List Section := (List.range (imSections rd)).map (imSection rd)

/-- The first section of a type. -/
def imFind (rd : ImageRead) (t : Nat) : Option Section := (imTable rd).find? fun x => x.type = t

/-- The signed digest (R369). -/
def imDigest (rd : ImageRead) : List Byte := shake256 (rd 0 (imTableEnd rd)) 64

/-! ### The configuration section (R370) -/

/-- A register value that sets no reserved bit. -/
def noReserved (r : Reg) (v : Nat) : Bool := BitVec.ofNat 64 v &&& r.reserved = 0

/-- An initial TIME_CFG and TIME_FMT that the registers would accept (R342, R360). -/
def timeInitGood (cfg fmt : Nat) : Bool :=
  let c : Word := BitVec.ofNat 64 cfg
  let f : Word := BitVec.ofNat 64 fmt
  noReserved .timeCfg cfg && noReserved .timeFmt fmt && decide (Word.fld c 0 3 < 5) && decide (1 ≤ Word.fld c 8 8)
    && decide (1 ≤ Word.fld c 16 16) && fmtSupported (Word.fld c 0 3) f

/-- The values of bytes 0x00 to 0x3F of the CONFIG section at an offset are valid. -/
def configGood (rd : ImageRead) (a : Nat) : Bool :=
  let autorun := rd.num (a + 5) 1
  let fec := rd.num (a + 4) 1
  decide (rd.num a 2 < 2048) && decide (rd.num (a + 2) 1 < 3) && decide (rd.num (a + 3) 1 < 4)
    && decide (fec < 16) && decide (fec % 4 < 3) && decide (fec / 4 < 3)
    && (autorun = 0xFF || (decide (autorun < imSections rd) && (imSection rd autorun).type = 4))
    && rd.num (a + 6) 2 = 0 && timeInitGood (rd.num (a + 8) 8) (rd.num (a + 0x10) 8) && rd.num (a + 0x18) 40 = 0

/-! ### The checks (R369) -/

/-- Check 1, MAGIC; a copy of a flash and a recovery image are boot images. [DEDUCED: log entry 72] -/
def checkMagic (rd : ImageRead) (boot : Bool) : Bool :=
  rd 0 4 = ascii "MZIA" && rd.num 4 2 = 1 && decide (imKind rd < 2) && (!boot || imKind rd = 0) && rd.num 0x28 8 = 0
    && rd.num 0x69 7 = 0 && rd.num 0x70 16 = 0

/-- A section lies in the image, aligned, after the signature block (R368). -/
def sectionPlaced (rd : ImageRead) (x : Section) : Bool :=
  x.offset % 4096 = 0 && decide (imTableEnd rd + 128 ≤ x.offset) && decide (x.offset + x.length ≤ imBytes rd) && x.blank
    && decide (1 ≤ x.type) && decide (x.type ≤ 6)

/-- No two sections overlap. -/
def sectionsApart : List Section → Bool
  | [] => true
  | x :: xs => (xs.all fun y => decide (x.offset + x.length ≤ y.offset) || decide (y.offset + y.length ≤ x.offset)
      || x.length = 0 || y.length = 0) && sectionsApart xs

/-- How many sections have a type. -/
def sectionCount (rd : ImageRead) (t : Nat) : Nat := ((imTable rd).filter fun x => x.type = t).length

/-- Check 2, LAYOUT. -/
def checkLayout (rd : ImageRead) : Bool :=
  decide (1 ≤ imSections rd) && decide (imSections rd ≤ 64) && decide (imTableEnd rd + 128 ≤ imBytes rd)
    && (imTable rd).all (sectionPlaced rd) && sectionsApart (imTable rd) && rd.num (imTableEnd rd + 114) 14 = 0
    && (if imKind rd = 0 then
        decide (imBytes rd ≤ 96 * 2 ^ 20) && sectionCount rd 1 = 1 && sectionCount rd 2 = 1 && sectionCount rd 3 = 1
          && (match imFind rd 3 with
            | some x => x.length = 256 && configGood rd x.offset
            | none => false)
      else sectionCount rd 1 = 0 && sectionCount rd 2 = 0 && sectionCount rd 3 = 0)

/-- Check 3, KEY (R380), by the OTP of a security engine. -/
def checkKey (rd : ImageRead) (x : Sec) : Bool :=
  decide (imSlot rd < 4) && BitVec.ofNat 512 (ofBytes (shake256 (imPubkey rd) 64)) = x.keys.getD (imSlot rd) 0
    && !x.revoked.getLsbD (imSlot rd)

/-- Check 4, SIG. -/
def checkSig (rd : ImageRead) : Bool :=
  edVerify (imPubkey rd) (ascii "KELWELL-MEZIA") (imDigest rd) (rd (imTableEnd rd) 114)

/-- Check 5, DIGEST. -/
def checkDigests (rd : ImageRead) : Bool := (imTable rd).all fun x => shake256 (rd x.offset x.length) 64 = x.digest

/-- The sequence floor (R381). -/
def Sec.floor (x : Sec) : Nat := (x.floors.map (·.toNat)).foldl max 0

/-- Check 6, FLOOR. -/
def checkFloor (rd : ImageRead) (x : Sec) : Bool := imKind rd ≠ 0 || (imSeq rd ≠ 0 && decide (x.floor ≤ imSeq rd))

/-- Check 7, COMPAT. -/
def checkCompat (rd : ImageRead) (p : PartId) : Bool :=
  decide (imCompat rd < 4) && imCompat rd / (if p.l1t then 2 else 1) % 2 = 1
    && (imTarget rd = 0 || imTarget rd = p.serial.toNat)

/-- The reason code of an image: 0 where it is valid, else the first check that fails (R369). -/
def imageReason (rd : ImageRead) (boot : Bool) (x : Sec) (p : PartId) : Nat :=
  if !checkMagic rd boot then 1
  else if !checkLayout rd then 2
  else if !checkKey rd x then 3
  else if !checkSig rd then 4
  else if !checkDigests rd then 5
  else if !checkFloor rd x then 6
  else if !checkCompat rd p then 7
  else 0

end Sys2Proof.Machine
end

