-- ==== Sys2Proof/Machine/Boot.lean ====
section
/-! DEFINITION. Reset, thaw, equinox and readiness (R33 to R38, R335, R366 to R377, R407, R416, R419 to R423), and the requests of
CTRL_REQ (R359, R379). -/

namespace Sys2Proof.Machine

open Sys2Proof

/-! ### Reset (R416, R419, R422, R423) -/

/-- A security engine after a reset: its OTP stays (R380 to R382). -/
def Sec.atReset (x : Sec) : Sec := { Sec.reset with keys := x.keys, secret := x.secret, cert := x.cert, revoked := x.revoked, floors := x.floors }

/-- A half of the boot logic after a reset: its flash stays. -/
def Boot.atReset (b : Boot) : Boot := { Boot.reset with flash := b.flash, fitted := b.fitted }

/-- The machine reset, its board-control pins as given: every register is at its reset value; the flashes, the OTP, the part, the
TAPs and, where `keep` says so, the contents of HBM, the lake and the core stores stay (log entry 34). A field self-test that waits for the
next thaw runs in it (R359, R379). [DESIGN CHOICE: log entry 34] -/
def resetTo (s : State) (p : Power) (keep : Bool) : State :=
  { State.reset with
    pending := s.pending
    free := s.free
    part := s.part
    power := p
    boots := s.boots.map Boot.atReset
    secs := s.secs.map Sec.atReset
    mem := if keep then s.mem else []
    marks := if keep then s.marks else []
    scan := s.scan
    svc := { Svc.reset with tests := if keep then (s.svc.tests.filter fun t => !t.2).map fun t => (t.1, true) else [] } }

/-- The board-control pins of a module held in reset (R426). -/
def Power.atReset (p : Power) : Power :=
  { Power.reset with resetN := p.resetN, pwrGood := p.pwrGood, sysclkGood := p.sysclkGood, strap := p.strap }

/-- The identity key (R383): its 57-byte private key, from the identity secret. -/
def identityKey (x : Sec) : List Byte := shake256 (toBytes 57 x.secret.toNat ++ ascii "KELWELL-ID") 57

/-- SEC derives the identity key at each thaw (R383). -/
def Sec.thaw (x : Sec) : Sec := { x with idPub := BitVec.ofNat 456 (ofBytes (edPublic (identityKey x))) }

/-- Thaw begins (R376, R422): at the rising edge of RESET_N, all of RESET_N, PWR_GOOD and SYSCLK being good. -/
def beginThaw (s : State) : State := if s.live then { s with secs := s.secs.map Sec.thaw } else s

/-- RESET_N_RISE (R422, R425): STRAP_RECOVER is sampled. -/
def execResetNRise (strap : Bool) (s : State) : Out :=
  stepIf (!s.power.resetN) s (beginThaw { s with power := { s.power with resetN := true, strap := strap } })

/-- RESET_N_FALL (R335, R416): RESET_N held low resets the module. -/
def execResetNFall (s : State) : Out :=
  stepIf s.power.resetN s (resetTo s { s.power.atReset with resetN := false } true)

/-- INPUT_POWER_FAIL (R411, R419): below 36 V the module behaves as unpowered. -/
def execInputPowerFail (s : State) : Out :=
  stepIf s.power.pwrGood s
    { resetTo s { s.power.atReset with pwrGood := false } false with scan := Scan.reset }

/-- POWER_UP (R419, R421): at 40 V or more the rails come up and PWR_GOOD rises. With RESET_N high this is the rising edge of R422, at
which STRAP_RECOVER is sampled (R425). -/
def execPowerUp (rise : PowerRise) (s : State) : Out :=
  stepIf (!s.power.pwrGood && decide (40000 ≤ rise.inputMv)) s
    (beginThaw { s with power := { s.power with pwrGood := true, strap := if s.power.resetN then rise.strap else s.power.strap } })

/-- SYSCLK_FAULT (R423): an internal reset, as if RESET_N were low. -/
def execSysclkFault (s : State) : Out :=
  stepIf (s.power.pwrGood && s.power.sysclkGood) s (resetTo s { s.power.atReset with sysclkGood := false } true)

/-- SYSCLK_GOOD (R423): good for 1 ms, the module leaves its internal reset. -/
def execSysclkGood (s : State) : Out :=
  stepIf (!s.power.sysclkGood) s (beginThaw { s with power := { s.power with sysclkGood := true } })

/-- A device reset (R416): the module resets and then rises as RESET_N does. [DESIGN CHOICE: log entry 71] -/
def deviceReset (s : State) : State := beginThaw (resetTo s s.power.atReset true)

/-- DEVRESET (R416): in or out of frost. -/
def execDevreset (who : Half) (s : State) : Out := writeReg who .fltCtl true 2 s fun s => deviceReset s

/-! ### The copies (R369, R371, R377) -/

/-- A half of the boot logic. -/
def State.boot (s : State) (h : Half) : Boot := s.boots.getD (halfNum h) Boot.reset
def State.modBoot (s : State) (h : Half) (f : Boot → Boot) : State :=
  { s with boots := setAt s.boots (halfNum h) (f (s.boot h)) }

/-- The security engine of a half. -/
def State.sec (s : State) (h : Half) : Sec := s.secs.getD (halfNum h) Sec.reset
def State.modSec (s : State) (h : Half) (f : Sec → Sec) : State :=
  { s with secs := setAt s.secs (halfNum h) (f (s.sec h)) }

/-- The copy of a half. -/
def copyRead (s : State) (h : Half) : ImageRead := flashRead (s.boot h).flash

/-- The reason of a half's copy (R369): 8 where the flash is absent or a read of it fails. -/
def copyReason (s : State) (h : Half) (readFails : Bool) : Nat :=
  if (s.boot h).fitted && !readFails then imageReason (copyRead s h) true (s.sec h) s.part else 8

/-- COPY_CHECK_COMPLETE (R371): the half claims its copy's SEQ where it is valid; STRAP_RECOVER makes it claim NONE (R425). -/
def execCopyCheckComplete (x : CopyCheck) (s : State) : Out :=
  let h := x.half
  let r := copyReason s h x.readFails
  let seq := imSeq (copyRead s h)
  stepIf (s.live && !(s.boot h).checked) s
    (s.modBoot h fun b =>
      { b with
        checked := true
        reason := r
        checkedAt := s.time.elapsed
        seqRead := if r = 1 || r = 8 then 0 else seq
        claim := if r = 0 && !s.power.strap then .seq seq else .none })

/-- The ROM of a half waits for a recovery image at its management port (R377). -/
def romWaits (s : State) (h : Half) : Bool := s.live && s.faults.inFrost && s.config.noConf && s.ready (.mgmt h)

/-- RECOVERY_IMAGE_WRITE (R377): in frost with cause NO_CONFIG a TFTP write of the file "mezia" that is a valid boot image becomes the
half's copy, and the device is reset; an invalid one is rejected. -/
def execRecoveryImageWrite (h : Half) (file : RecoveryFile) (s : State) : Out :=
  let rd := fileRead file.image
  stepIf (romWaits s h && file.name = ascii "mezia" && imageReason rd true (s.sec h) s.part = 0) s
    (deviceReset (s.modBoot h fun b => { b with flash := flashWrite b.flash 0 (file.image.take (imBytes rd)) }))

/-! ### Registers of equinox and the configuration (R385, R386) -/

/-- CFG_STATUS. -/
def cfgStatusWord (s : State) : Word :=
  let c := s.config
  BitVec.ofNat 64 (packNat 1 [c.accepted.toNat, c.noConf.toNat, c.useB.toNat, c.mismatch.toNat]
    + (s.boot .W).reason * 2 ^ 8 + (s.boot .E).reason * 2 ^ 12)

/-- Heartbeats arrive at both halves. -/
def peerOk (s : State) : Bool :=
  [Half.W, .E].all fun h => (s.boot h).peer.isSome && decide (s.time.elapsed < (s.boot h).peerAt + 3000000)

/-- CTRL_EQX but for WIGN. -/
def ctrlEqxWord (s : State) : Word :=
  let c := s.config
  BitVec.ofNat 64 (packNat 1 [halfNum c.senior, c.elected.toNat, (peerOk s).toNat, c.handover.toNat] + c.eqxCause * 2 ^ 4)

/-- CTRL_EQX.WIGN. -/
def eqxIgnored (s : State) : State := s.setBit .ctrlEqx 8

/-! ### Acceptance (R370, R373, R382) -/

/-- A measurement register extended (R382): 64 bytes make 64 bytes. -/
def extendMr (mr : BitVec 512) (d : List Byte) : BitVec 512 := BitVec.ofNat 512 (ofBytes (shake256 (toBytes 64 mr.toNat ++ d) 64))

def Sec.extend (x : Sec) (m : Nat) (d : List Byte) : Sec := { x with mrs := setAt x.mrs m (extendMr (x.mrs.getD m 0) d) }

/-- The measurements of the ROM of a half (R382). -/
def romMeasures (rd : ImageRead) (h : Half) (x : Sec) : Sec :=
  let digest (t : Nat) : List Byte := match imFind rd t with
    | some e => e.digest
    | none => []
  let x := (x.extend 0 (imDigest rd)).extend 0 (toBytes 64 (imSeq rd))
  (x.extend 1 (digest (1 + halfNum h))).extend 2 (digest 3)

/-- A cluster's firmware section of the copy in use goes to its SRAM, that of the junior half across the bridges (R368, R373; log entry 108).
[DESIGN CHOICE: log entry 108] -/
def loadFirmware (rd : ImageRead) (h : Half) (c : Cluster) : Cluster :=
  match imFind rd (1 + halfNum h) with
  | some e => { c with priv := Memory.writeN c.priv sramBase (rd e.offset (min e.length sramSize)) }
  | none => c

/-- The configuration is accepted from the copy of a half (R370, R373). -/
def acceptConfig (s : State) (h : Half) : State :=
  let rd := copyRead s h
  let a := match imFind rd 3 with
    | some x => x.offset
    | none => 0
  let fmt : Word := BitVec.ofNat 64 (rd.num (a + 0x10) 8)
  let s := { s with config :=
    { s.config with
      accepted := true
      devid := rd.num a 2
      interleave := rd.num (a + 2) 1
      mgmtFec := rd.num (a + 4) 1
      autorun := rd.num (a + 5) 1
      acceptNs := s.time.elapsed
      seq := imSeq rd
      slot := imSlot rd } }
  let s := s.setReg .chainCfg (BitVec.ofNat 64 (rd.num (a + 3) 1))
  let s := (s.setReg .timeCfg (BitVec.ofNat 64 (rd.num (a + 8) 8))).setReg .timeFmt fmt
  let s := { s with time := { s.time with fmt := fmt } }
  let s := (s.modSec .W (romMeasures rd .W)).modSec .E (romMeasures rd .E)
  (s.modCluster .W (loadFirmware rd .W)).modCluster .E (loadFirmware rd .E)

/-! ### Heartbeats and election (R371, R372, R374, R375) -/

/-- The frost of an equinox cause at a half (R374, R403). -/
def eqxFrost (s : State) (h : Half) (cause : Nat) : State :=
  let s := if cause < 4 then { s with config := { s.config with eqxCause := cause } } else s
  raiseRec s { Rec.of s 13 cause 0 12 (halfNum h) with d0 := cfgStatusWord s }

/-- The senior half by the claims of west and east (R372). -/
def electSenior (w e : Claim) : Option Half :=
  match w, e with
  | .seq a, .seq b => if a < b then some .E else some .W
  | .seq _, _ => some .W
  | _, .seq _ => some .E
  | _, _ => none

/-- Equal SEQ, differing copies (R372). -/
def copiesDiffer (s : State) : Bool :=
  let n := max (imBytes (copyRead s .W)) (imBytes (copyRead s .E))
  copyRead s .W 0 n ≠ copyRead s .E 0 n

/-- The election from the claims of west and east (R372, R373, R340). [DESIGN CHOICE: log entry 69] -/
def elect (s : State) (h : Half) (w e : Claim) : State :=
  match electSenior w e with
  | none => eqxFrost { s with config := { s.config with noConf := true } } h 4
  | some g =>
    let s := { s with config :=
      { s.config with elected := true, senior := g, useB := g = Half.E, mismatch := w = e && copiesDiffer s }
                      time := { s.time with active := g } }
    let s := (s.modBoot .W fun b => { b with senior := g = Half.W }).modBoot .E fun b => { b with senior := g = Half.E }
    acceptConfig s g

/-- HEARTBEAT_SEND (R371): every 1 ms, the claim and the role. -/
def execHeartbeatSend (h : Half) (s : State) : Out :=
  let b := s.boot h
  stepIf (s.live && (s.cluster h).inService && decide (b.hbDue ≤ s.time.elapsed)) s
    (s.modBoot h fun b =>
      { b with
        hbDue := s.time.elapsed + 1000000
        sentSenior := if b.senior then b.sentSenior + 1 else 0
        tx := b.tx ++ [⟨b.claim, b.senior⟩] })

/-- A pending handover after a heartbeat taken by a half (R375): the roles swap with the first that both have taken. -/
def handoverStep (s : State) (h : Half) : State :=
  if s.config.handover then
    let seen := if s.config.hoSeen.contains h then s.config.hoSeen else h :: s.config.hoSeen
    if seen.length = 2 then
      let g := otherHalf s.config.senior
      let s := { s with config := { s.config with handover := false, hoSeen := [], senior := g } }
      (s.modBoot .W fun b => { b with senior := g = Half.W }).modBoot .E fun b => { b with senior := g = Half.E }
    else { s with config := { s.config with hoSeen := seen } }
  else s

/-- Two successive heartbeats of each half both claim SENIOR (R374). -/
def dual (s : State) (h : Half) : Bool :=
  let b := s.boot h
  s.config.elected && decide (2 ≤ b.sentSenior) && b.peerBefore && (match b.peer with
    | some p => p.senior
    | none => false)

/-- The election completes at a half that has checked its copy and hears a claim (R371, R372). -/
def tryElect (s : State) (h : Half) (hb : Heartbeat) : State :=
  let own := (s.boot h).claim
  if s.config.elected || s.config.noConf || own = .unchecked || hb.claim = .unchecked then s
  else match h with
    | .W => elect s h own hb.claim
    | .E => elect s h hb.claim own

/-- HEARTBEAT_RECEIVE (R371, R372, R374, R375). -/
def execHeartbeatReceive (h : Half) (hb : Heartbeat) (s : State) : Out :=
  stepIf s.live s
    (let s := s.modBoot h fun b =>
       { b with
         peerBefore := match b.peer with
           | some p => p.senior
           | none => false
         peer := some hb
         peerAt := s.time.elapsed }
     let s := s.modBoot (otherHalf h) fun b => { b with tx := if b.tx.head? = some hb then b.tx.drop 1 else b.tx }
     let s := handoverStep (tryElect s h hb) h
     if dual s h && !s.faults.inFrost && s.config.eqxCause ≠ 3 then eqxFrost s h 3 else s)

/-- SILENT (R374): no heartbeat within 50 ms of the check of the copy. -/
def execSilent (h : Half) (s : State) : Out :=
  let b := s.boot h
  stepIf (s.working && b.checked && !s.config.elected && decide (max b.checkedAt b.peerAt + 50000000 ≤ s.time.elapsed)) s
    (eqxFrost s h 1)

/-- LOST (R374): 3 successive heartbeats missed after election. -/
def execLost (h : Half) (s : State) : Out :=
  let b := s.boot h
  stepIf (s.working && s.config.elected && decide (max b.peerAt s.config.acceptNs + 3000000 ≤ s.time.elapsed)) s (eqxFrost s h 2)

/-- HANDOVER (R375): by the senior cluster, while the junior is ready and none is pending. [DEDUCED: log entry 70] -/
def execHandover (who : Half) (s : State) : Out :=
  writeReg who .ctrlEqxCtl true 1 s fun s =>
    if who = s.config.senior && s.config.elected && !s.config.handover && clusterRuns s (otherHalf who) then
      { s with config := { s.config with handover := true, hoSeen := [] } }
    else eqxIgnored s

/-! ### Readiness (R33 to R38) -/

/-- A function is fitted (R37). -/
def fnFitted (s : State) : Fn → Bool
  | .field n => n < 4
  | .stitch n => n < 4
  | .stack n => n < 16
  | .spring n => n < 16
  | .lake n => channelFitted s.part.l1t n
  | .link n => n < 36
  | .chk n => n < 16
  | _ => true

/-- A field's rail has settled (R23, R33): its set-point is in the range of R23 and the rail lies within 25 mV of it. -/
def railSettled (s : State) (f : Nat) : Bool :=
  let v := s.power.vset.getD f 0
  decide (680 ≤ v) && decide (apart (s.power.sample.vmeas.getD f 0) v ≤ 25)

/-- What must hold before a function can become usable (R33, R36). -/
def fnPremise (s : State) : Fn → Bool
  | .field n => s.config.accepted && railSettled s n && !fieldTesting s n
  | .stitch n => s.ready (.field (stitchFields n).1) && s.ready (.field (stitchFields n).2)
  | .stack _ => s.config.accepted
  | .spring n => s.ready (.stack n)
  | .lake _ => s.config.accepted
  | .link n => (s.link n).state = .up
  | .chk _ => true
  | .cluster h => s.config.accepted && (s.cluster h).inService
  | .mgmt _ => true
  | .time _ => s.config.accepted

/-- The elapsed ns at which a function rose in this thaw. -/
def riseTime (s : State) (f : Fn) : Option Nat := (s.config.rises.find? fun p => p.1 = f).map (·.2)

/-- The function may rise: once per thaw, but for links and management ports (R35). -/
def mayRise (s : State) (f : Fn) : Bool :=
  (s.working || (s.live && returns f)) && fnFitted s f && fnPremise s f && !s.ready f
    && (returns f || ((riseTime s f).isNone && !s.config.outs.contains f))

/-- What follows the rise of a function: the round counter starts with the first field (R178), a stack or lake channel is trained and
calibrated with its code armed (R33, R258), the firmware of a cluster runs (R382), a time unit has measured its path (R20). -/
def afterRise (s : State) : Fn → State
  | .field _ => if s.grid.running then s
    else { s with grid := { s.grid with running := true, round := 0, cycle := 0, len := s.regFld .gridCtl 0 11 } }
  | .stack n =>
    let s := s.putFld (.hbmpStatus n) 0 2 3
    { s with svc := { s.svc with
        calLast := SMap.insert s.svc.calLast n s.time.elapsed
        calTemp := SMap.insert s.svc.calTemp n (s.power.sample.dieTemp.getD n 0) } }
  | .lake n =>
    let s := s.putFld (.lakeStatus n) 0 2 3
    { s with svc := { s.svc with calLast := SMap.insert s.svc.calLast (16 + n) s.time.elapsed } }
  | .cluster h => s.modSec h fun x => { x with mrLock := true }
  | .time h => { s with time := { s.time with pathDelay := setAt s.time.pathDelay (halfNum h) (some (Config.pathDelay (halfNum h))) } }
  | _ => s

/-- A function rises. -/
def riseFn (s : State) (f : Fn) : State :=
  afterRise (s.riseNoted f) f

/-- READY_BIT_RISE (R35). -/
def execReadyBitRise (f : Fn) (s : State) : Out := stepIf (mayRise s f) s (riseFn s f)

/-- The elapsed ns at which a function that is not ready is late (R36), once it is known. -/
def deadlineOf (s : State) (f : Fn) : Option Nat :=
  let from_ (ms : Nat) : Option Nat := if s.config.accepted then some (s.config.acceptNs + ms * 1000000) else none
  match f with
  | .cluster _ => some 400000000
  | .chk _ => some 500000000
  | .field _ => from_ 2000
  | .stack _ => from_ 3000
  | .lake _ => from_ 2500
  | .time _ => from_ 50
  | .spring n => (riseTime s (.stack n)).map (· + 200000000)
  | .stitch n =>
    match riseTime s (.field (stitchFields n).1), riseTime s (.field (stitchFields n).2) with
    | some a, some b => some (max a b + 1000000)
    | _, _ => none
  | .link _ => none
  | .mgmt _ => none

/-- The kind and the number of a function in a record (R402); a stitch is named by its bit of CTRL_READY_GRID.
[DEDUCED: log entry 73] -/
def fnKind : Fn → Nat × Nat
  | .field n => (9, n)
  | .stitch n => (9, 4 + n)
  | .stack n => (3, n)
  | .spring n => (5, n)
  | .lake n => (4, n)
  | .link n => (6, n)
  | .chk n => (7, n)
  | .cluster h => (8, halfNum h)
  | .mgmt h => (13, halfNum h)
  | .time h => (10, halfNum h)

/-- A function is late (R36). -/
def late (s : State) (f : Fn) : Bool :=
  fnFitted s f && !s.ready f && (riseTime s f).isNone && (match deadlineOf s f with
    | some t => decide (t < s.time.elapsed)
    | none => false)

/-- THAW_DEADLINE_EXPIRY (R36, R403 class 12). -/
def execThawDeadlineExpiry (f : Fn) (s : State) : Out :=
  stepIf (s.working && late s f) s
    (raiseRec s { Rec.of s 12 (fnKind f).1 6 (fnKind f).1 (fnKind f).2 with d0 := s.reg (fnBit f).1 })

/-! ### Management ports and clusters (R362, R366, R407) -/

/-! The private space of a cluster (R362). The spec gives its parts and no addresses: they lie as below (log entry 108). -/

/-- The boot ROM, 64 KiB; the SRAM, 8 MiB; the window of the flash; the word of the MAC that sends a frame.
[DESIGN CHOICE: log entry 108] -/
def romSize : Nat := 0x10000
def flashBase : Nat := 0x80000000
def flashSize : Nat := 0x80000000
def macSend : Nat := 0x1000000

/-- A range lies in a window. -/
def within (base size a n : Nat) : Bool := decide (base ≤ a) && decide (a + n ≤ base + size)

/-- Bytes stored in a cluster's SRAM (log entry 35). [DESIGN CHOICE: log entry 35] -/
def privStore (s : State) (h : Half) (a : Nat) (bs : List Byte) : State :=
  s.modCluster h fun c => { c with priv := Memory.writeN c.priv a bs }

/-- Every fitted lake channel of a half's I/O die is ready: its cluster uses its partition (R363). -/
def partitionReady (s : State) (h : Half) : Bool :=
  (List.range 64).all fun n =>
    !(channelFitted s.part.l1t n && channelHalf n = h) || s.ready (.lake n) || s.regBit (.lakeStatus n) 2

/-- A range of a half's partition, usable by its own cluster (R363). -/
def ownPartition (s : State) (h : Half) (a n : Nat) : Bool :=
  s.region a = .partition h && s.region (a + n - 1) = .partition h && partitionReady s h

/-- Where a management port may put a frame or take one from now: SRAM, or the partition, whose ports must answer (R366). -/
def frameFree (s : State) (h : Half) (a n : Nat) (write : Bool) : Bool :=
  (a / 2 ^ 47 = 1 && within sramBase sramSize (a % 2 ^ 47) n)
    || (ownPartition s h a n && portFree s a n (bridgeRequester h false) write)

/-- A number of a frame, most significant byte first. -/
def frameNum (f : List Byte) (off n : Nat) : Nat := ofBytes (((f.drop off).take n).reverse)

/-- The ROM answers an ARP request for its link-local address (R377; RFC 826, RFC 3927). [PRESUMED: log entry 109] -/
def arpReply (h : Half) (f : List Byte) : Option (List Byte) :=
  let mac := Config.macAddr (halfNum h)
  let ip := Config.linkLocal (halfNum h)
  let big (n v : Nat) : List Byte := (toBytes n v).reverse
  if frameNum f 12 10 = 0x08060001080006040001 && frameNum f 38 4 = ip.toNat then
    some ((f.drop 22).take 6 ++ big 6 mac.toNat ++ big 10 0x08060001080006040002 ++ big 6 mac.toNat ++ big 4 ip.toNat
      ++ (f.drop 22).take 10 ++ List.replicate 18 0)
  else none

/-- A frame leaves at a management port. -/
def sendFrame (s : State) (h : Half) (f : List Byte) : State := s.modCluster h fun c => { c with sent := c.sent ++ [f] }

/-- A frame taken in to SRAM or partition; one that its unit does not take is not counted. -/
def takeFrame (s : State) (h : Half) (f : List Byte) (dst : Nat) : State :=
  let count (s : State) : State := s.modCluster h fun c => { c with frames := c.frames + 1 }
  if dst / 2 ^ 47 = 1 then count (privStore s h (dst % 2 ^ 47) f)
  else
    match portWrite (passPort s dst f.length (bridgeRequester h false)) dst f with
    | (true, s) => count s
    | (false, s) => s

/-- MGMT_FRAME_RECEIVE (R366): a frame of up to 9,216 bytes goes to the cluster's SRAM or partition; while the ROM waits for a recovery
image it answers ARP (R377). -/
def execMgmtFrameReceive (h : Half) (frame : List Byte) (dst : Nat) (s : State) : Out :=
  let n := frame.length
  if romWaits s h then
    .next (match arpReply h frame with
      | some f => sendFrame s h f
      | none => s)
  else
    stepIf (s.live && s.ready (.mgmt h) && (s.cluster h).inService && decide (1 ≤ n) && decide (n ≤ 9216) && frameFree s h dst n true) s
      (settlePorts (useStored (.bridge h) s (takeFrame s h frame dst)))

/-- A management port sends the frame of n bytes at an address of its cluster's SRAM or partition (R366). -/
def transmit (s : State) (h : Half) (a n : Nat) : State :=
  if s.ready (.mgmt h) && decide (1 ≤ n) && decide (n ≤ 9216) && frameFree s h a n false then
    if a / 2 ^ 47 = 1 then sendFrame s h (Memory.readN (s.cluster h).priv (a % 2 ^ 47) n)
    else
      match portRead (passPort s a n (bridgeRequester h false)) a n with
      | (some f, s) => settlePorts (sendFrame s h f)
      | (none, s) => settlePorts s
  else s

/-- MGMT_BLOCK_LOCK_TIMEOUT (R407): a port that had block lock leaves service. -/
def execMgmtBlockLockTimeout (h : Half) (s : State) : Out :=
  stepIf (s.live && s.ready (.mgmt h)) s (leaveService s (.mgmt h) 13 (halfNum h) fun s => s.reg .ctrlReadyUnit)

/-- A cluster leaves service (R407): the senior half's brings frost whatever FLT_FROST_EN holds. -/
def clusterLeaves (s : State) (h : Half) : State :=
  let s := s.modCluster h fun c => { c with inService := false }
  let s := s.fall (.cluster h)
  let s := { s with config := { s.config with outs := .cluster h :: s.config.outs } }
  let r := { Rec.of s 11 8 5 8 (halfNum h) with d0 := s.reg .ctrlReadyUnit }
  raiseWith s r (bringsFrost s 11 8 || (s.config.elected && h = s.config.senior))

/-- CLUSTER_MACHINE_CHECK (R406, R407); an SRAM error has its ECC record (R403). -/
def execClusterMachineCheck (h : Half) (sram : Bool) (s : State) : Out :=
  stepIf (s.live && (s.cluster h).inService) s
    (clusterLeaves (if sram then raiseEcc s (Rec.of s 5 8 5 8 (halfNum h)) else s) h)

/-! ### Requests (R359, R379, R385) -/

/-- A context of any core is enabled. -/
def someEnabled (s : State) : Bool := anyEnabled s .F || anyEnabled s .B

/-- A field self-test requested (R359, R379). [DEDUCED: log entry 74] -/
def requestTest (s : State) (f : Nat) : State :=
  if 4 ≤ f then lastReq s 5
  else if s.svc.tests.any fun t => t.1 = f then lastReq s 2
  else
    let busy := someEnabled s
    lastReq { s with svc := { s.svc with tests := s.svc.tests ++ [(f, !busy)] } } (if busy then 2 else 3)

/-- A recalibration requested (R359, R379): BUSY where one is pending that was requested, or while a context is enabled; else it runs at
once, though it may be waiting by itself. [DEDUCED: log entry 66] -/
def requestRecal (s : State) (u : RecalUnit) : State :=
  if !recalFitted s u then lastReq s 5
  else
    let old := (recalOf s u).getD ⟨u, s.time.elapsed, false, false, false⟩
    let busy := old.requested || someEnabled s
    lastReq (putRecal s { old with requested := true, running := old.running || !busy }) (if busy then 2 else 3)

/-- A write of CTRL_REQ with a code and a unit; in frost it is ignored with WIGN (R415). -/
def writeReq (who : Half) (code unit : Nat) (s : State) (effect : State → State) : Out :=
  writeReg who .ctrlReq true (BitVec.ofNat 64 (code * 2 ^ 8 + unit)) s fun s =>
    if s.faults.inFrost then eqxIgnored s else effect s

/-- FIELD_SELF_TEST (R379). -/
def execFieldSelfTest (who : Half) (field : Nat) (s : State) : Out := writeReq who 1 field s fun s => requestTest s field

/-- STACK_RECALIBRATION (R379). -/
def execStackRecalibration (who : Half) (n : Nat) (s : State) : Out := writeReq who 2 n s fun s => requestRecal s (.stack n)

/-- LAKE_CHANNEL_RECALIBRATION (R379). -/
def execLakeChannelRecalibration (who : Half) (n : Nat) (s : State) : Out := writeReq who 3 n s fun s => requestRecal s (.lake n)

/-- LINK_RECALIBRATION (R379). -/
def execLinkRecalibration (who : Half) (n : Nat) (s : State) : Out := writeReq who 4 n s fun s => requestRecal s (.link n)

/-- The stitches of a field fall with it: a stitch is usable with both its fields (R33). -/
def stitchesFall (s : State) (f : Nat) : State :=
  (List.range 4).foldl (fun s n => if (stitchFields n).1 = f || (stitchFields n).2 = f then s.fall (.stitch n) else s) s

/-- The end of a field's self-test (R379, R407). -/
def endTest (s : State) (f : Nat) (ok : Bool) : State :=
  let s := { s with svc := { s.svc with tests := s.svc.tests.filter fun t => t.1 ≠ f } }
  let s := if ok then s else leaveService (stitchesFall s f) (.field f) 9 f fun s => s.reg .ctrlReadyGrid
  reqEnds s 1 9 f ok

/-- SELF_TEST_COMPLETE (R379). -/
def execSelfTestComplete (field : Nat) (ok : Bool) (s : State) : Out :=
  stepIf (s.live && fieldTesting s field) s (byClass (endTest · field ok) s)

/-- CTRL_REQ_STATUS (R385): the requests that wait, and LAST. -/
def ctrlReqStatusWord (s : State) : Word :=
  let n := (s.svc.tests.filter fun t => !t.2).length + (s.svc.recals.filter fun r => r.requested && !r.running).length
  BitVec.ofNat 64 (n % 256 * 2 ^ 8 + s.regFld .ctrlReqStatus 0 3)

/-- CTRL_PART (R364): each cluster writes its own field; a change of the other's is ignored with WIGN.
[DEDUCED: log entry 78] -/
def execCtrlPart (who : Half) (v : Word) (s : State) : Out :=
  writeReg who .ctrlPart true v s fun s =>
    let mine := 4 * halfNum who
    let other := 4 * halfNum (otherHalf who)
    let wrong := Word.fld v other 4 ≠ s.regFld .ctrlPart other 4
    let s := s.putFld .ctrlPart mine 4 (Word.fld v mine 4)
    if wrong then eqxIgnored s else s

end Sys2Proof.Machine
end

