-- ==== Sys2Proof/Machine/Check.lean ====
section
/-! DEFINITION. The check units at work (R388 to R400). -/

namespace Sys2Proof.Machine

open Sys2Proof

/-! ### Arithmetic (R390) -/

/-- The values of a captured parameter set: WIDTH, POLY, INIT, XOROUT, REFIN, REFOUT (R389, R400). -/
def psWidth (ps : List Word) : Nat := Word.fld (ps.getD 3 0) 0 7
def psPoly (ps : List Word) : Word := ps.getD 0 0
def psXorout (ps : List Word) : Word := ps.getD 2 0
def psRefin (ps : List Word) : Bool := Word.bit (ps.getD 3 0) 8
def psRefout (ps : List Word) : Bool := Word.bit (ps.getD 3 0) 9

/-- The w low bits of a word. -/
def lowBits (w : Nat) (v : Word) : Word := BitVec.ofNat 64 (v.toNat % 2 ^ w)

/-- The bits of a byte in the order of REFIN. -/
def byteBits (refin : Bool) (b : Byte) : List Bool := (List.range 8).map fun k => b.getLsbD (if refin then k else 7 - k)

/-- Bits run through a CRC of width w: the loop of R390. -/
def crcBits (w : Nat) (poly : Word) : List Bool → Word → Word
  | [], crc => crc
  | b :: bs, crc =>
    if xor (crc.getLsbD (w - 1)) b then crcBits w poly bs (lowBits w (crc <<< 1) ^^^ poly)
    else crcBits w poly bs (lowBits w (crc <<< 1))

/-- The bytes of a descriptor. -/
def crcRun (ps : List Word) (crc : Word) (bs : List Byte) : Word :=
  crcBits (psWidth ps) (psPoly ps) (bs.flatMap (byteBits (psRefin ps))) crc

/-- The w low bits of a word reversed. -/
def reverseBits (w : Nat) (v : Word) : Word :=
  (List.range w).foldl (fun r k => Word.putBit r (w - 1 - k) (v.getLsbD k)) 0

/-- The result on FINAL. -/
def crcFinal (ps : List Word) (crc : Word) : Word :=
  (if psRefout ps then reverseBits (psWidth ps) crc else crc) ^^^ psXorout ps

/-- A parameter set keeps the rule of R389. -/
def psLegal (ps : List Word) : Bool :=
  let w := psWidth ps
  decide (1 ≤ w) && decide (w ≤ 64) && (ps.take 3).all fun v => decide (v.toNat < 2 ^ w)

/-- A write of register k (POLY 0, INIT 1, XOROUT 2, PCTL 3) of a parameter set is ignored where it would break the rule
(R389). -/
def writePset (s : State) (u p k : Nat) (r : Reg) (v : Word) : State :=
  if psLegal (setAt (paramSet s u p) k v) then s.setReg r v else s.setBit .chkStatus 16

/-! ### The units -/

/-- A check unit works: out of reset, not in frost, ready (R398, R399). -/
def chkWorks (s : State) (u : Nat) : Bool := s.working && decide (u < 16) && s.ready (.chk u)

/-- The rings whose CHK descriptors may go on once a queue has room. -/
def settleChk (s : State) : State :=
  (s.rings.map (·.1)).foldl (fun s r =>
    if (s.ring r).jobs.any fun j => dKind j.desc = 11 && j.stage = .reading && j.out = 0 then settle s r else s) s

/-- The descriptor at the front of a unit's queue begins and its bytes run through its session (R390); one with bytes that stayed
uncorrectable is dropped, breaks its session and fails (R398). -/
def runChk (s : State) (u : Nat) (j : ChkJob) (rest : List ChkJob) : State :=
  if j.bad then
    settleChk (failJob (breakSession (s.setChkUnit u { s.chkUnit u with queue := rest }) u j.ring j.desc) j.ring j.idx 10)
  else
    let x := beginSession s u j.ring j.desc
    let s := s.setSession u (chkSession j.desc) { x with crc := crcRun x.params x.crc j.bytes }
    s.setChkUnit u { s.chkUnit u with queue := { j with ran := true, bytes := [] } :: rest }

/-- CHK_DESCRIPTOR_RUN (R390, R395). -/
def execChkDescriptorRun (u : Nat) (s : State) : Out :=
  match (s.chkUnit u).queue with
  | [] => .next s
  | j :: rest => stepIf (chkWorks s u && !j.ran) s (byClass (runChk · u j rest) s)

/-- A compare counted, and a mismatch recorded (R397). -/
def noteCompare (s : State) (u : Nat) (j : ChkJob) (result expect : Word) (good : Bool) : State :=
  if good then s.countReg (.chkCnt u) 32 32 1
  else
    let s := (s.countReg (.chkCnt u) 16 16 1).setBit .chkStatus u
    if s.regBit (.chkMisrec0 u) 63 then s
    else
      (((s.setReg (.chkMisrec0 u) (BitVec.ofNat 64 (2 ^ 63 + chkSession j.desc * 2 ^ 20 + j.ring))).setReg (.chkMisrec u 0)
        result).setReg (.chkMisrec u 1) expect).setReg (.chkMisrec u 2) s.time.ns

/-- FINAL writes a result to DST, unless the session has missed bytes (R396, R398). -/
def writesResult (d : BitVec 512) (broken : Bool) : Bool := chkFinal d && dDst d ≠ 0 && !broken

/-- The result written, at a local address (R32): whether it could be. -/
def writeResult (s : State) (j : ChkJob) (broken : Bool) (result : Word) : Bool × State :=
  let a := addrLocal (dDst j.desc)
  if writesResult j.desc broken then portWrite (passPort s a 8 (ringRequester s j.ring)) a (toBytes 8 result.toNat) else (true, s)

/-- The port of the result takes it now. -/
def resultFree (s : State) (u : Nat) (j : ChkJob) : Bool :=
  !writesResult j.desc (s.session u (chkSession j.desc)).broken || portFree s (addrLocal (dDst j.desc)) 8 (ringRequester s j.ring) true

/-- The end of a descriptor at its unit (R396 to R398). -/
def endChk (s : State) (u : Nat) (j : ChkJob) (rest : List ChkJob) : State :=
  let d := j.desc
  let x := s.session u (chkSession d)
  let result := crcFinal x.params x.crc
  let expect := lowBits (psWidth x.params) (BitVec.ofNat 64 (dSeed d))
  let good := !x.broken && result = expect
  let s := s.setChkUnit u { s.chkUnit u with queue := rest }
  let s := match writeResult s j x.broken result with
    | (true, s) =>
      let s := if chkCompare d then noteCompare s u j result expect good else s
      modJob s j.ring j.idx fun y => { y with stage := .done, moved := if chkGate d && !good then 1 else 0 }
    | (false, s) => failJob (s.setSession u (chkSession d) { x with broken := true }) j.ring j.idx 10
  settleChk s

/-- CHK_RESULT (R396). -/
def execChkResult (u : Nat) (s : State) : Out :=
  match (s.chkUnit u).queue with
  | [] => .next s
  | j :: rest => stepIf (chkWorks s u && j.ran && resultFree s u j) s (settlePorts (byClass (endChk · u j rest) s))

/-! ### Registers (R400) -/

/-- CHK_SFLAGS. -/
def chkSflagsWord (s : State) (u : Nat) : Word :=
  let xs := (List.range 16).map fun n => s.session u n
  BitVec.ofNat 64 (packNat 1 (xs.map fun x => x.broken.toNat) + packNat 2 (xs.map fun x => x.pset) * 2 ^ 16)

end Sys2Proof.Machine
end

