-- ==== Sys2Proof/Machine/Faults.lean ====
section
/-! DEFINITION. The fault queue's registers and frost (R401, R412 to R417). -/

namespace Sys2Proof.Machine

open Sys2Proof

/-- FLT_QIDX (R417): HEAD moves within TAIL - 512 to TAIL. -/
def execFltQidx (who : Half) (v : Word) (s : State) : Out :=
  writeReg who .fltQidx true v s fun s =>
    let head : BitVec 32 := v.truncate 32
    if (s.faults.tail - head).toNat ≤ 512 then { s with faults := { s.faults with head := head } } else s.setBit .fltStatus 19

/-- FLT_CTL.ENTER (R403 class 18). -/
def execFltCtlEnter (who : Half) (s : State) : Out :=
  writeReg who .fltCtl true 1 s fun s => raiseRec s (Rec.of s 18 1 0 8 (halfNum who))

/-- COOL_REQ driven (R409): a rise sets PWR_EVENT.COOL and sends chain alarm code 2 (R336). -/
def driveCool (s : State) (on : Bool) : State :=
  if on && !s.power.coolReq then
    sendAlarm ({ s with power := { s.power with coolReq := true } }.setBit .pwrEvent 0) 2
  else { s with power := { s.power with coolReq := on } }

/-- Entry to frost (R412 to R414): requests not accepted are discarded, FROST_N falls, COOL_REQ rises, every link sends FROST
(R329), and the chain carries alarm code 1 (R336). -/
def enterFrost (s : State) : State :=
  let s := { s with
    faults := { s.faults with inFrost := true }
    reqs := s.reqs.filter fun q => q.accepted
    far := []
    power := { s.power with frostN := false }
    links := s.links.map fun l => (l.1, { l.2 with lfrost := true }) }
  settlePorts (driveCool (sendAlarm s 1) true)

/-- FROST_ENTRY (R412, R413): the frost signal reaches the dies. -/
def execFrostEntry (s : State) : Out := stepIf (s.live && s.faults.signal.isSome && !s.faults.inFrost) s (enterFrost s)

/-- No row group is under way on a pipe. -/
def pipesQuiet (s : State) : Bool :=
  s.cores.all fun c => (c.2.f.queue ++ c.2.b.queue).all fun o => !o.inGroup

/-- No stream has a go latched or an instance to send, and nothing valid is on the wires or on its way to a store or to staging. -/
def fabricQuiet (s : State) : Bool :=
  s.grid.writes.isEmpty && s.grid.edgeGos.isEmpty && (s.grid.beats.all fun m => !m.beat.valid)
    && (s.routers.all fun r => r.2.streams.all fun e => !e.2.go && !e.2.sending) && s.streams.all fun x => !x.2.go && !x.2.sending

/-- The entry is complete: the pipes stand at boundaries, latched instances are done, every accepted write is performed (R413). -/
def frostDone (s : State) : Bool := pipesQuiet s && fabricQuiet s && s.reqs.all fun q => !q.isWrite

/-- FROST_QUIET (R413): QUIET sets, and field self-tests that wait may run (R359, R379). -/
def execFrostQuiet (s : State) : Out :=
  stepIf (s.live && s.faults.inFrost && !s.faults.quiet && frostDone s) s
    { s with
      faults := { s.faults with quiet := true }
      svc := { s.svc with tests := s.svc.tests.map fun t => (t.1, true) } }

/-- FLT_FROST (R417). -/
def fltFrostWord (f : Faults) : Word :=
  let (c, k, n) := match f.signal with
    | some x => x
    | none => (0, 0, 0)
  BitVec.ofNat 64 (f.inFrost.toNat * 2 ^ 63 + f.quiet.toNat * 2 ^ 62 + c % 256 * 2 ^ 48 + k % 256 * 2 ^ 40 + n.toNat)

end Sys2Proof.Machine
end

