-- ==== Sys2Proof/Machine/Power.lean ====
section
/-! DEFINITION. Temperatures, rails and the input (R23, R409 to R411, R418, R421). -/

namespace Sys2Proof.Machine

open Sys2Proof

/-! ### Registers (R418) -/

def fieldTemp (p : Power) (f : Nat) : Nat := p.sample.fieldTemp.getD f 0
def fieldVolt (p : Power) (f : Nat) : Nat := p.sample.vmeas.getD f 0
def fieldSet (p : Power) (f : Nat) : Nat := p.vset.getD f 0
def dieTemp (p : Power) (d : Nat) : Nat := p.sample.dieTemp.getD d 0

/-- PWR_FIELD. -/
def pwrFieldWord (s : State) (f : Nat) : Word :=
  BitVec.ofNat 64 (fieldTemp s.power f % 256 * 2 ^ 48 + s.regFld (.pwrField f) 40 8 * 2 ^ 40 + fieldVolt s.power f % 65536 * 2 ^ 16
    + fieldSet s.power f % 65536)

/-- PWR_DIE. -/
def pwrDieWord (s : State) (d : Nat) : Word :=
  BitVec.ofNat 64 (dieTemp s.power d % 256 * 2 ^ 48 + s.regFld (.pwrDie d) 40 8 * 2 ^ 40)

/-- PWR_INPUT. -/
def pwrInputWord (s : State) : Word :=
  BitVec.ofNat 64 (s.regFld .pwrInput 48 16 * 2 ^ 48 + s.power.sample.watts % 65536 * 2 ^ 32 + s.power.sample.inputMv % 65536)

/-! ### Records (R403) -/

/-- A record of class VOLTAGE: at a field about its rail (kind 9), else at the power controller (kind 11). -/
def voltFault (s : State) (kind cause num : Nat) : State :=
  raiseRec s { Rec.of s 15 cause 0 kind num with d0 := pwrFieldWord s (num % 4), d1 := pwrInputWord s }

/-! ### Temperatures (R409) -/

/-- The dies that are watched: fields 0 to 3, then PWR_DIE d as 4 + d. -/
def watchedDies : List Nat := List.range 38

/-- A die's temperature in a sample. -/
def tempOf (p : PowerSample) (i : Nat) : Nat := if i < 4 then p.fieldTemp.getD i 0 else p.dieTemp.getD (i - 4) 0

/-- The warning level of a die: T_WARN for fields and I/O dies, 88 for stacks, 85 for lake packages. -/
def warnLevel (s : State) (i : Nat) : Nat :=
  if i < 4 || i = 20 || i = 21 then s.regFld .pwrTcfg 0 8 else if i < 20 then 88 else 85

/-- The critical level of a die. -/
def critLevel (i : Nat) : Nat := if i < 4 || i = 20 || i = 21 then 110 else 100

/-- The source of a record about a die (R402): fields, stacks, I/O dies as halves, lake packages by their first channel.
[DEDUCED: log entry 76] -/
def dieSource (i : Nat) : Nat × Nat :=
  if i < 4 then (9, i) else if i < 20 then (3, i - 4) else if i < 22 then (12, i - 20) else (4, (i - 22) * 4)

/-- A record of class THERMAL about a die: that it brings frost is its ACTION (R402). -/
def thermalFault (cause : Nat) (s : State) (i : Nat) : State :=
  raiseRec s { Rec.of s 14 cause 0 (dieSource i).1 (dieSource i).2 with
    d0 := if i < 4 then pwrFieldWord s i else pwrDieWord s (i - 4) }

/-- A lake package is fitted (R17). -/
def packageFitted (l1t : Bool) (d : Nat) : Bool := d < 18 || !l1t || (d - 18) % 8 < 4

/-- A sample as the registers show it: unfitted packages read 0 (R418). -/
def cleanSample (l1t : Bool) (p : PowerSample) : PowerSample :=
  { p with
    sensors := (List.range 4).map fun f => (List.range 24).map fun k => (p.sensors.getD f []).getD k 0
    vmeas := (List.range 4).map fun f => p.vmeas.getD f 0
    fixedMv := (List.range 13).map fun r => p.fixedMv.getD r 0
    dieTemp := (List.range 34).map fun d => if packageFitted l1t d then p.dieTemp.getD d 0 else 0 }

/-- The highest values since they were read. -/
def noteMaxima (s : State) : State :=
  let p := s.power
  let s := (List.range 4).foldl (fun s f => s.raiseReg (.pwrField f) 40 8 (fieldTemp p f)) s
  let s := (List.range 34).foldl (fun s d => s.raiseReg (.pwrDie d) 40 8 (dieTemp p d)) s
  s.raiseReg .pwrInput 48 16 p.sample.watts

/-- Warnings, critical levels and COOL_REQ at a sample (R404, R409): `old` is the sample before. -/
def checkTemps (s : State) (old : PowerSample) : State :=
  let t (i : Nat) : Nat := tempOf s.power.sample i
  let hot := watchedDies.filter fun i => decide (warnLevel s i < t i)
  let news := hot.filter fun i => !s.power.warned.contains i
  let crit := watchedDies.filter fun i => decide (critLevel i ≤ t i) && decide (tempOf old i < critLevel i)
  let cool := watchedDies.all fun i => decide (t i + 5 ≤ warnLevel s i)
  let s := { s with power := { s.power with warned := hot } }
  let s := news.foldl (thermalFault 1) s
  let s := crit.foldl (thermalFault 2) s
  if s.faults.inFrost || !hot.isEmpty then driveCool s true
  else if cool then driveCool s false else s

/-! ### The limits of R411 -/

/-- The largest difference between two fields' temperatures. -/
def fieldSpread (p : PowerSample) : Nat :=
  let ts := (List.range 4).map fun f => p.fieldTemp.getD f 0
  ts.foldl max 0 - ts.foldl min (ts.headD 0)

/-- The pairs of adjacent fields (R12). -/
def fieldPairs : List (Nat × Nat) := (List.range 4).map stitchFields

/-- The largest difference between two adjacent measured rails. -/
def railSpread (p : Power) : Nat :=
  (fieldPairs.map fun q => apart (fieldVolt p q.1) (fieldVolt p q.2)).foldl max 0

/-- A condition that has held since some instant. -/
def since (now : Nat) (old : Option Nat) (holds : Bool) : Option Nat :=
  if holds then some (old.getD now) else none

/-- The fixed rails in the order of R421, in mV. -/
def fixedRails : List Nat := [750, 750, 750, 900, 1100, 400, 1800, 1800, 1050, 900, 500, 1800, 3300]

/-- The fixed rails more than 3 % from their values in a sample (R421). -/
def fixedOff (p : PowerSample) : List Nat :=
  (List.range 13).filter fun r => decide (3 * fixedRails.getD r 0 < 100 * apart (p.fixedMv.getD r 0) (fixedRails.getD r 0))

/-- The instants since which each of some rails has been off. -/
def sinceEach (now : Nat) (old : SMap Nat) (off : List Nat) : SMap Nat := off.map fun r => (r, SMap.getD old r now)

/-- Spread, rails and input at a sample (R411, R421): `far` says that adjacent rails were more than 75 mV apart before it. In frost
VOLTAGE 2 is raised where they come so far apart. -/
def checkLimits (s : State) (far : Bool) : State :=
  let p := s.power
  let now := s.time.elapsed
  let apartNow := fieldSpread p.sample
  let mv := p.sample.inputMv
  let badInput := decide (mv < 40000) || decide (60000 < mv)
  let off := (List.range 4).filter fun f => decide (25 < apart (fieldVolt p f) (fieldSet p f))
  let s := { s with power :=
    { p with
      spread := decide (20 < apartNow)
      spreadSince := since now p.spreadSince (decide (25 < apartNow))
      adjSince := since now p.adjSince (decide (60 < railSpread p))
      offSince := sinceEach now p.offSince off
      fixedSince := sinceEach now p.fixedSince (fixedOff p.sample)
      inputSince := since now p.inputSince badInput } }
  let s := if 20 < apartNow then s.setBit .pwrEvent 2 else s
  let s := if badInput then s.setBit .pwrEvent 3 else s
  if 75 < railSpread p && !(s.faults.inFrost && far) then voltFault s 11 2 0 else s

/-- THERMAL_SAMPLE (R409, R411). -/
def execThermalSample (p : PowerSample) (s : State) : Out :=
  stepIf s.live s
    (let old := s.power.sample
     let s := { s with power := { s.power with sample := cleanSample s.part.l1t p } }
     checkLimits (checkTemps (noteMaxima s) old) (decide (75 < railSpread { s.power with sample := old })))

/-! ### Rails (R23, R410) -/

/-- A voltage as a rail can take it: 680 to 860 mV in steps of 5. -/
def clampRail (v : Nat) : Nat := max 680 (min 860 (v / 5 * 5))

/-- A field's target with the lift of a SPREAD, which stays within the range of R23 (R410, R411). -/
def railTarget (s : State) (f : Nat) : Nat :=
  min 860 (clampRail (Config.railTable f (fieldTemp s.power f)) + s.power.lift.getD f 0)

/-- The fields adjacent to a field. -/
def adjacentFields (f : Nat) : List Nat :=
  fieldPairs.filterMap fun q => if q.1 = f then some q.2 else if q.2 = f then some q.1 else none

/-- One pass of step 2 of R410 over the four fields. -/
def raisePass (g : List Nat) : List Nat :=
  (List.range 4).foldl (fun g f =>
    setAt g f ((adjacentFields f).foldl (fun v a => max v (g.getD a 0 - 60)) (g.getD f 0))) g

/-- The goals of the four rails (R410, steps 1 and 2); the lower of two measured rails too far apart goes up (R411). -/
def railGoals (s : State) : List Nat :=
  let p := s.power
  let up (f : Nat) : Nat :=
    let low := fieldPairs.any fun q =>
      (q.1 = f && decide (fieldVolt p q.1 + 60 < fieldVolt p q.2)) || (q.2 = f && decide (fieldVolt p q.2 + 60 < fieldVolt p q.1))
    if low then fieldSet p f + 5 else 0
  raisePass (raisePass ((List.range 4).map fun f => max (railTarget s f) (up f)))

/-- A set-point one step of at most 5 mV nearer to its goal (R410). -/
def railMove (v g : Nat) : Nat :=
  if v < g then min g (v + 5) else if g < v then max g (v - 5) else v

/-- An interval has passed since an instant, if there was one. -/
def spaced (s : State) (t : Option Nat) (ns : Nat) : Bool :=
  match t with
  | some t => decide (t + ns ≤ s.time.elapsed)
  | none => true

/-- RAIL_STEP (R410): at most one step per 10 µs. In frost VOLTAGE 5 is raised where the need arises. -/
def execRailStep (s : State) : Out :=
  stepIf (s.live && spaced s s.power.railAt 10000) s
    (let goals := railGoals s
     let above := goals.any fun g => decide (860 < g)
     let was := s.power.ceiling
     let s := { s with power := { s.power with ceiling := above, railAt := some s.time.elapsed } }
     if above then (if s.faults.inFrost && was then s else voltFault s 11 5 0)
     else
       let next := (List.range 4).map fun f => railMove (fieldSet s.power f) (goals.getD f 0)
       let moved := ((List.range 4).filter fun f => fieldSet s.power f ≠ next.getD f 0).length
       let raised := (List.range 4).any fun f => decide (railTarget s f < goals.getD f 0)
       let s := (if moved = 0 then s else s.countReg .pwrSteps 0 32 moved)
       let s := { s with power := { s.power with vset := next } }
       if raised then s.setBit .pwrEvent 1 else s)

/-- The coldest field. -/
def coldest (p : Power) : Nat :=
  (List.range 4).foldl (fun b f => if fieldTemp p f < fieldTemp p b then f else b) 0

/-- SPREAD_LIFT_STEP (R411): every 1 ms, 5 mV up on the coldest field, to at most 30 mV; without a SPREAD every lift falls back.
[DEDUCED: log entry 77] -/
def execSpreadLiftStep (s : State) : Out :=
  stepIf (s.live && spaced s s.power.liftAt 1000000) s
    (let p := s.power
     let c := coldest p
     let lift := if p.spread then setAt p.lift c (min 30 (p.lift.getD c 0 + 5)) else p.lift.map fun v => v - 5
     { s with power := { p with lift := lift, liftAt := some s.time.elapsed } })

/-- A condition has held for a time in ns. -/
def lasted (s : State) (t : Option Nat) (ns : Nat) : Bool :=
  match t with
  | some t => decide (t + ns ≤ s.time.elapsed)
  | none => false

/-- SPREAD_TIMEOUT (R411): the record names the hottest field. -/
def execSpreadTimeout (s : State) : Out :=
  let hottest := (List.range 4).foldl (fun b f => if fieldTemp s.power b < fieldTemp s.power f then f else b) 0
  stepIf (s.live && lasted s s.power.spreadSince 10000000) s
    (thermalFault 3 { s with power := { s.power with spreadSince := none } } hottest)

/-- ADJACENT_RAIL_TIMEOUT (R411). -/
def execAdjacentRailTimeout (s : State) : Out :=
  stepIf (s.live && lasted s s.power.adjSince 200000) s (voltFault { s with power := { s.power with adjSince := none } } 11 2 0)

/-- RAIL_OFF_SETPOINT_TIMEOUT (R411). -/
def execRailOffSetpointTimeout (f : Nat) (s : State) : Out :=
  stepIf (s.live && lasted s (SMap.get? s.power.offSince f) 100000) s
    (voltFault { s with power := { s.power with offSince := SMap.erase s.power.offSince f } } 9 3 f)

/-- FIXED_RAIL_TIMEOUT (R421): rails in the order of the table, VDD_CPER being 0. -/
def execFixedRailTimeout (rail : Nat) (s : State) : Out :=
  stepIf (s.live && lasted s (SMap.get? s.power.fixedSince rail) 100000) s
    (voltFault { s with power := { s.power with fixedSince := SMap.erase s.power.fixedSince rail } } 11 3 rail)

/-- INPUT_RANGE_TIMEOUT (R411). -/
def execInputRangeTimeout (s : State) : Out :=
  stepIf (s.live && lasted s s.power.inputSince 1000000) s (voltFault { s with power := { s.power with inputSince := none } } 11 4 0)

/-! ### Outputs (R425, R426) -/

/-- What a land or a port shows. -/
inductive Level where
  | low
  | high
  | released
  | off
  | idle
  | driven
  deriving DecidableEq, Repr

/-- PWR_GOOD, FROST_N and COOL_REQ. -/
def pinPwrGood (s : State) : Level := if s.power.pwrGood then .high else .low
def pinFrostN (s : State) : Level := if s.power.frostN then .released else .low
def pinCoolReq (s : State) : Level := if s.power.coolReq then .high else .low

/-- The transmitters of a link and of a management port; in frost a management port whose cluster is not healthy idles (R414). -/
def linkTransmitter (s : State) (l : Nat) : Level :=
  if !s.power.pwrGood then .off else if s.live && (s.link l).state ≠ .disabled then .driven else .idle
def mgmtTransmitter (s : State) (h : Half) : Level :=
  if !s.power.pwrGood then .off else if s.live && (s.cluster h).inService then .driven else .idle

/-- FLASH_x_RST_N and the other flash signals of a half; in frost its cluster alone drives them. -/
def pinFlashReset (s : State) : Level := if !s.power.pwrGood then .released else if s.live then .high else .low
def pinFlash (s : State) (h : Half) : Level :=
  if s.live && (!s.faults.inFrost || (s.cluster h).inService) then .driven else .released

/-- TDO: released but while shifting. -/
def pinTdo (s : State) : Level :=
  match s.scan.tdo with
  | some true => .high
  | some false => .low
  | none => .released

end Sys2Proof.Machine
end

