-- ==== Sys2Proof/Machine/Security.lean ====
section
/-! DEFINITION. The security engines (R380 to R384, R387). -/

namespace Sys2Proof.Machine

open Sys2Proof

/-- SEC_STATUS.WIGN of a half. -/
def secIgnored (s : State) (h : Half) : State := s.modSec h fun x => { x with wign := true }

/-- SEC_FLOOR (R381): the next free entry. -/
def execSecFloor (who : Half) (v : Word) (s : State) : Out :=
  writeReg who .secFloor true v s fun s =>
    let x := s.sec who
    if s.config.seq < v.toNat ∨ v.toNat < x.floor ∨ 16 ≤ x.floors.length then secIgnored s who
    else s.modSec who fun x => { x with floors := x.floors ++ [v] }

/-- REVOKE (R380): a slot revoked stays so; the slot of the copy in use is not revoked. -/
def execRevoke (who : Half) (v : Word) (s : State) : Out :=
  writeReg who .secKeys true v s fun s =>
    let bits : BitVec 4 := v.truncate 4
    let used : BitVec 4 := if s.config.accepted then BitVec.ofNat 4 (2 ^ s.config.slot) else 0
    let s := s.modSec who fun x => { x with revoked := x.revoked ||| (bits &&& ~~~used) }
    if bits &&& used = 0 then s else secIgnored s who

/-- EXTEND (R382): MR0 to MR2 are locked once the firmware runs. -/
def execExtend (who : Half) (v : Word) (s : State) : Out :=
  writeReg who .secExtCmd true v s fun s =>
    let m := Word.fld v 0 3
    if m < 3 ∧ (s.sec who).mrLock = true then secIgnored s who
    else s.modSec who fun x => x.extend m (x.extData.flatMap fun w => toBytes 8 w.toNat)

/-- ATTESTATION_START (R384): the nonce is captured. -/
def execAttestationStart (who : Half) (v : Word) (s : State) : Out :=
  writeReg who .secAtt true v s fun s =>
    let x := s.sec who
    let addr := Word.fld v 6 37 * 64
    if Word.bit v 63 then
      (if x.attNonce.isSome then secIgnored s who
       else s.modSec who fun x => { x with attAddr := addr, attNonce := some x.nonce })
    else s.modSec who fun x => { x with attAddr := addr }

/-- CTRL_IDENT (R385). -/
def ctrlIdentWord (s : State) : Word :=
  BitVec.ofNat 64 (s.part.stepping.toNat * 2 ^ 48 + s.part.l1t.toNat * 2 ^ 44 + 0x300 * 2 ^ 32 + s.part.serial.toNat)

/-- Bytes 0x000 to 0x45F of a report (R384). -/
def reportBytes (s : State) (nonce : List Word) : List Byte :=
  let words (ws : List Word) : List Byte := ws.flatMap fun w => toBytes 8 w.toNat
  let mrs (h : Half) : List Byte := (s.sec h).mrs.flatMap fun m => toBytes 64 m.toNat
  ascii "KATR" ++ toBytes 2 1 ++ toBytes 2 s.dev ++ words [ctrlIdentWord s] ++ toBytes 8 s.config.seq ++ words [s.time.ns]
    ++ words nonce ++ mrs .W ++ mrs .E ++ List.replicate 32 0

/-- The 1,248 bytes of a report, signed by the security engine of a half. -/
def attestation (s : State) (h : Half) (nonce : List Word) : List Byte :=
  let body := reportBytes s nonce
  body ++ edSign (identityKey (s.sec h)) (ascii "KELWELL-ATTEST") (shake256 body 64) ++ List.replicate 14 0

/-- A cluster of the other half may read or write a partition (R364). -/
def clusterRight (s : State) (h : Half) (write : Bool) : Bool := s.regBit .ctrlPart (4 * halfNum h + 2 + write.toNat)

/-- The part of the populated extents that holds an address; none where it is in none of them (R24, R25). -/
def extentOf (s : State) (a : Nat) : Option Nat :=
  match s.region a with
  | .hbm => some 0
  | .lake => some 1
  | .partition _ => some 1
  | .store c _ => some (2 + c)
  | _ => none

/-- Why a memory access of n bytes by a cluster is refused: the address and the cause of class ADDRESS (R25, R364, R403). A range that runs
out of its extent is named by its last byte (log entry 110). [DESIGN CHOICE: log entry 110] -/
def accessDenied (s : State) (who : Half) (a n : Nat) (write : Bool) : Option (Nat × Nat) :=
  if (extentOf s a).isNone then some (a, 1)
  else if extentOf s (a + n - 1) ≠ extentOf s a then some (a + n - 1, 1)
  else if [Half.W, .E].any fun h => meetsPartition s h a n && !(h = who || clusterRight s h write) then some (a, 2)
  else none

/-- A report written in memory: HBM and the lake through the half's bridge, or a core store; an address that is refused raises
the ADDRESS record of the cluster (R25, R364): whether it was written. -/
def writeReport (s : State) (h : Half) (a : Nat) (bs : List Byte) : Bool × State :=
  match accessDenied s h a bs.length true with
  | some (x, cause) => (false, raiseRec s { Rec.of s 4 cause 7 8 (halfNum h) with addr := x })
  | none =>
    match s.region a with
    | .store c off => (true, storeWrite s c off bs)
    | _ => portWrite (passPort s a bs.length (bridgeRequester h false)) a bs

/-- The report's memory takes it now. -/
def reportFree (s : State) (h : Half) (a n : Nat) : Bool :=
  (accessDenied s h a n true).isSome || decide (storeBase ≤ a) || portFree s a n (bridgeRequester h false) true

/-- ATTESTATION_COMPLETE (R384): ATT_DONE sets where the report was written. -/
def execAttestationComplete (h : Half) (s : State) : Out :=
  match (s.sec h).attNonce with
  | none => .next s
  | some nonce =>
    let a := (s.sec h).attAddr
    stepIf (s.live && reportFree s h a 1248) s
      (let (ok, s) := writeReport s h a (attestation s h nonce)
       settlePorts (s.modSec h fun x => { x with attNonce := none, attDone := ok || x.attDone }))

/-! ### Registers (R387) -/

/-- SEC_STATUS. -/
def secStatusWord (x : Sec) : Word :=
  BitVec.ofNat 64 (packNat 1 [x.mrLock.toNat, x.attNonce.isSome.toNat, x.attDone.toNat, x.wign.toNat])

/-- SEC_KEYS. -/
def secKeysWord (x : Sec) : Word :=
  let has (n : Nat) : Nat := (decide (x.keys.getD n 0 ≠ 0)).toNat
  BitVec.ofNat 64 (x.revoked.toNat + packNat 1 [has 0, has 1, has 2, has 3] * 2 ^ 4 + min x.floors.length 16 * 2 ^ 8)

end Sys2Proof.Machine
end

