-- ==== Sys2Proof/Machine/Registers.lean ====
section
/-! DEFINITION. Reads and writes of registers (R10, R25, R31) and the accesses of a cluster (R362 to R365, R415). -/

namespace Sys2Proof.Machine

open Sys2Proof

/-! ### What a register reads as -/

/-- The code of a context's state in CORE_STATUS (R78). -/
def ctxCode : CtxState → Nat
  | .disabled => 0
  | .running => 1
  | .frozen => 2
  | .evwait => 3
  | .faulted => 4

/-- An enable bit reads 1 while its context is neither DISABLED nor FAULTED (R78). -/
def Context.enabled (c : Context) : Bool := !(c.state = .disabled || c.state = .faulted)

/-- CORE_CTL, and CORE_STATUS but for WIGN. -/
def coreCtlWord (x : Core) : Word := BitVec.ofNat 64 (x.b.enabled.toNat + x.f.enabled.toNat * 2)
def coreStatusWord (x : Core) : Word :=
  BitVec.ofNat 64 (ctxNum x.active + ctxCode x.b.state * 2 + ctxCode x.f.state * 2 ^ 4 + (decide (x.switch ≠ .idle)).toNat * 2 ^ 7)

/-- CTX_INUSE, CTX_TCFGk and CTX_TQ. -/
def ctxInuseWord (c : Context) : Word := BitVec.ofNat 64 (c.tinuse.toNat + c.accinuse.toNat * 2 ^ 16)
def ctxTcfgWord (c : Context) (k : Nat) : Word := BitVec.ofNat 64 ((c.cfg (2 * k)).toNat + (c.cfg (2 * k + 1)).toNat * 2 ^ 32)
def ctxTqWord (c : Context) : Word :=
  let src := match c.latch with
    | some w => w.src
    | none => 0
  BitVec.ofNat 64 (c.queue.length + src * 2 ^ 4 + c.latch.isSome.toNat * 2 ^ 8)

/-- The code of a part's state in GRID_RTR_PART (R202). -/
def partCode : PartState → Nat
  | .empty => 0
  | .loaded => 1
  | .active => 2
  | .stopping => 3

/-- GRID_RTR_HOFF. -/
def gridHoffWord (x : Router) (p : Nat) : Word :=
  BitVec.ofNat 64 (packNat 8 ((List.range 8).map fun j => (SMap.getD x.hoff (8 * p + j) []).length))

/-- GRID_STRM. -/
def gridStrmWord (x : Router) (n : Nat) : Word :=
  let e := x.ep n
  let st := if e.halt ≠ 0 then 2 else if (x.desc n).isNone then 0 else 1
  BitVec.ofNat 64 (st + e.halt * 2 ^ 8 + e.defer * 2 ^ 16 + e.committed.toNat * 2 ^ 32)

/-- SYNC_WAIT. -/
def syncWaitWord (c : Context) : Word :=
  match c.hold with
  | .scWait w => BitVec.ofNat 64 (w.target.toNat + w.num * 2 ^ 32 + w.ring.toNat * 2 ^ 62 + 2 ^ 63)
  | _ => 0

/-- A counter as SYNC_SC and SYNC_RING show it. -/
def counterWord (v : BitVec 32) (poisoned : Bool) : Word := BitVec.ofNat 64 (v.toNat + poisoned.toNat * 2 ^ 63)

/-- EDGE_XS_CNT: the count, and the complete instances in staging. -/
def xsCntWord (s : State) (e n : Nat) : Word :=
  let ep := s.xs e n
  let d := if xsFromGrid s e n then ep.arrived - s.xsCount e n else s.xsCount e n - ep.sent
  let held := if 0 < xsSize s e n && decide (d.toNat < 2 ^ 31) then min d.toNat 2048 else 0
  BitVec.ofNat 64 (held + (s.xsCount e n).toNat * 2 ^ 32)

/-- The code of a ring's state (R225). -/
def ringCode : RingState → Nat
  | .disabled => 0
  | .running => 1
  | .trapped => 2
  | .error => 3
  | .resetting => 4

/-- EDGE_RING_STATUS. -/
def ringStatusWord (x : Ring) : Word :=
  let held := match x.head with
    | some h => if x.state = .running then h.code else 0
    | none => 0
  BitVec.ofNat 64 (ringCode x.state + held * 2 ^ 4 + x.cause * 2 ^ 8 + x.jobs.length * 2 ^ 16 + x.failIdx.toNat * 2 ^ 32)

/-- The bits of the springs that a test accepts. -/
def springBits (s : State) (p : Spring → Bool) : Nat := packNat 1 ((List.range 16).map fun n => (p (s.spring n)).toNat)

/-- The two time units are ready and agree within 2 ns (R340). [DEDUCED: log entry 84] -/
def standbyOk (s : State) : Bool := s.ready (.time .W) && s.ready (.time .E) && unitsAgree s.time

/-- TIME_STATUS but for STEPS. -/
def timeStatusWord (s : State) : Word :=
  BitVec.ofNat 64 (timeCode s.time.state + (standbyOk s).toNat * 2 ^ 7 + halfNum s.time.active * 2 ^ 8 + halfNum (discUnit s) * 2 ^ 9)

/-- The slots in use at a stack or lake channel (R258). -/
def slotsUsed (s : State) (f : Fn) : Nat := (s.reqs.filter fun q => q.accepted && memFn s q.addr = f).length

/-- Word w of bytes. -/
def wordOf (bs : List Byte) (w : Nat) : Word := BitVec.ofNat 64 (bytesAt bs (8 * w) 8)

/-- A register of a unit that is not fitted reads 0 and takes no write (R258, R259). -/
def regFitted (s : State) : Reg → Bool
  | .lakeStatus n => channelFitted s.part.l1t n
  | .lakeEcc n => channelFitted s.part.l1t n
  | .lakeOutst n => channelFitted s.part.l1t n
  | .lakeErraddr n => channelFitted s.part.l1t n
  | .arbCfg a => arbFitted s a
  | .arbStatus a => arbFitted s a
  | .arbPrio a _ => arbFitted s a
  | .arbGrants a _ => arbFitted s a
  | .arbWaits a _ => arbFitted s a
  | .arbLongest a _ => arbFitted s a
  | _ => true

/-- The value of a register to a cluster; a field of type WO reads 0. What is no other field's stands in `regs`. -/
def regValue (who : Half) (r : Reg) (s : State) : Word :=
  match r with
  | .coreId c => coreIdWord c
  | .coreCtl c => coreCtlWord (s.core c)
  | .coreStatus c => s.reg r ||| coreStatusWord (s.core c)
  | .coreFPend c => s.reg r ||| BitVec.ofNat 64 (s.core c).events.length
  | .ctxPc c x => BitVec.ofNat 64 (s.ctx ⟨c, x⟩).pc
  | .ctxInuse c x => ctxInuseWord (s.ctx ⟨c, x⟩)
  | .ctxTstart c x => (s.ctx ⟨c, x⟩).tstartWord
  | .ctxTcfg c x k => ctxTcfgWord (s.ctx ⟨c, x⟩) k
  | .ctxTq c x => ctxTqWord (s.ctx ⟨c, x⟩)
  | .numSummary => numSummary s
  | .gridRound => BitVec.ofNat 64 (s.grid.round % 2 ^ 48 * 2 ^ 16 + s.grid.cycle)
  | .gridStart => s.reg r ||| BitVec.ofNat 64 (s.grid.startPending.toNat * 2 ^ 63)
  | .gridRtrPart c => BitVec.ofNat 64 (partCode (s.router c).f.state + partCode (s.router c).b.state * 2 ^ 3)
  | .gridRtrHoff c p => gridHoffWord (s.router c) p
  | .gridStrm c n => gridStrmWord (s.router c) n
  | .syncSc c n => counterWord (s.counter c n).value (s.counter c n).poisoned
  | .syncWait c x => syncWaitWord (s.ctx ⟨c, if x = 0 then .F else .B⟩)
  | .syncRing n => counterWord (s.ring n).counter (s.ring n).poisoned
  | .edgeXsCnt e n => xsCntWord s e n
  | .edgeRingCtl n => BitVec.ofNat 64 (s.ring n).enable.toNat
  | .edgeRingStatus n => ringStatusWord (s.ring n)
  | .edgeRingIdx n => BitVec.ofNat 64 ((s.ring n).si.toNat + (s.ring n).pi.toNat * 2 ^ 32)
  | .hbmpMap => BitVec.ofNat 64 s.config.interleave
  | .hbmpOutst n => Word.put (s.reg r) 0 13 (slotsUsed s (.stack n))
  | .lakeOutst n => Word.put (s.reg r) 0 13 (slotsUsed s (.lake n))
  | .arbStatus a => Word.put (s.reg r) 0 8 ((activeHolder s a).getD 0xFF)
  | .sprgSummary => s.reg r ||| BitVec.ofNat 64 (springBits s Spring.held + springBits s Spring.trapped * 2 ^ 16)
  | .sprgState n => (s.spring n).stateWord
  | .sprgFaila n x => failA (if x = 0 then (s.spring n).failC else (s.spring n).failM)
  | .sprgFailb n x => failB (if x = 0 then (s.spring n).failC else (s.spring n).failM)
  | .linkDevid => BitVec.ofNat 64 s.dev
  | .linkCtl l => BitVec.ofNat 64 (s.link l).enable.toNat
  | .linkState l => linkStateWord (s.link l)
  | .chainStatus => chainStatusWord s
  | .chainSeg x => chainSegWord (if x = 0 then s.chain.cin else s.chain.cout)
  | .chainLeader => BitVec.ofNat 64 s.chain.leader
  | .timeStatus => s.reg r ||| timeStatusWord s
  | .timeNow => s.time.ns
  | .timePlogSeq => BitVec.ofNat 64 s.time.plogNext.toNat
  | .svcShare => BitVec.ofNat 64 (s.svc.share + s.svc.held.toNat * 2 ^ 8)
  | .ctrlIdent => ctrlIdentWord s
  | .ctrlEqx => s.reg r ||| ctrlEqxWord s
  | .ctrlReqStatus => ctrlReqStatusWord s
  | .cfgStatus => cfgStatusWord s
  | .cfgSeq x => BitVec.ofNat 64 (s.boot (if x = 0 then .W else .E)).seqRead
  | .cfgAcceptTime => BitVec.ofNat 64 (s.config.acceptNs / 1000 % 2 ^ 32)
  | .secStatus => secStatusWord (s.sec who)
  | .secFloor => BitVec.ofNat 64 (s.sec who).floor
  | .secKeys => secKeysWord (s.sec who)
  | .secExtData k => (s.sec who).extData.getD k 0
  | .secNonce k => (s.sec who).nonce.getD k 0
  | .secAtt => BitVec.ofNat 64 (s.sec who).attAddr
  | .secIdpub w => wordOf (toBytes 57 (s.sec who).idPub.toNat) w
  | .secCert w => (s.sec who).cert.getD w 0
  | .secMr h m w => wordOf (toBytes 64 ((s.sec (if h = 0 then .W else .E)).mrs.getD m 0).toNat) w
  | .chkSess u n => (s.session u n).crc
  | .chkSflags u => chkSflagsWord s u
  | .chkCnt u => s.reg r ||| BitVec.ofNat 64 (s.chkUnit u).queue.length
  | .fltFrost => fltFrostWord s.faults
  | .fltQidx => BitVec.ofNat 64 (s.faults.head.toNat + s.faults.tail.toNat * 2 ^ 32)
  | .fltQueue i w => BitVec.ofNat 64 ((SMap.getD s.faults.recs i 0).toNat / 2 ^ (64 * w))
  | .pwrInput => pwrInputWord s
  | .pwrField f => pwrFieldWord s f
  | .pwrDie d => pwrDieWord s d
  | _ => s.reg r

/-- Fields of type RC cleared. -/
def Reg.cleared (r : Reg) (v : Word) : Word :=
  r.fields.foldl (fun v f => if f.type = .rc then Word.put v f.lo (f.hi - f.lo + 1) 0 else v) v

/-- What a read leaves: fields of type RC are cleared, and a read of TIME_NOW latches TIME_LINE (R339). -/
def afterRead (r : Reg) (s : State) : State :=
  match r with
  | .gridStrm c n => s.modEp c n fun e => { e with defer := 0 }
  | .timeNow => (readTimeNow s).2
  | _ => s.setReg r (r.cleared (s.reg r))

/-- A register read by a cluster: its value and what the read leaves. An offset that no map lists reads 0 (R31). -/
def readRegister (who : Half) (addr : Nat) (s : State) : Word × State :=
  match Reg.ofAddr addr with
  | some r => if regFitted s r then (regValue who r s, afterRead r s) else (0, s)
  | none => (0, s)

/-! ### What a write does -/

/-- A write of a register by the types of its fields. [DEDUCED: log entry 80] -/
def plainValue (r : Reg) (old v : Word) : Word :=
  r.fields.foldl
    (fun w f =>
      let n := f.hi - f.lo + 1
      let x := Word.fld v f.lo n
      match f.type with
      | .rw => Word.put w f.lo n x
      | .w1c => w &&& ~~~(Word.put 0 f.lo n x)
      | .w1s => w ||| Word.put 0 f.lo n x
      | _ => w) old

def plainWrite (r : Reg) (v : Word) (s : State) : State := s.setReg r (plainValue r (s.reg r) v)

/-- One effect of a write after another. -/
def thenWrite (o : Out) (f : State → Out) : Out :=
  match o with
  | .next t => f t
  | .fault e => .fault e
  | .refused e => .refused e

/-- An effect that a bit of the value asks for. -/
def ifBit (v : Word) (i : Nat) (f : State → Out) (s : State) : Out := if Word.bit v i then f s else .next s

/-- A per-context register takes a write while its context is DISABLED or FAULTED (R78). -/
def writeCtx (k : CtxAt) (effect : State → State) (s : State) : State :=
  if (s.ctx k).enabled then s.setBit (.coreStatus k.core) 8 else effect s

/-- CORE_CTL (R78): the resets, then the enable bits. -/
def writeCoreControl (who : Half) (c : Nat) (v : Word) (s : State) : Out :=
  let enable (x : Ctx) (i : Nat) (s : State) : Out :=
    if Word.bit v i then execContextEnable who ⟨c, x⟩ s else execContextHalt who ⟨c, x⟩ s
  thenWrite (ifBit v 5 (execFReset who c) s) fun s =>
  thenWrite (ifBit v 4 (execBReset who c) s) fun s =>
  thenWrite (enable .F 1 s) (enable .B 0)

/-- CTX_TCFGk (R48, R78). -/
def writeTcfg (k : CtxAt) (i : Nat) (v : Word) (s : State) : Out :=
  let e0 : BitVec 32 := v.truncate 32
  let e1 : BitVec 32 := (v >>> 32).truncate 32
  if !(s.ctx k).enabled && (e0 &&& ~~~cfgMask ≠ 0 || e1 &&& ~~~cfgMask ≠ 0) then .fault (.reservedEntryBit (2 * i))
  else
    .next (writeCtx k
      (fun s => s.modCtx k fun c => { c with tcfg := SMap.set (SMap.set c.tcfg (2 * i) e0 0) (2 * i + 1) e1 0 }) s)

/-- EDGE_RING_CTL (R224, R250, R251): the commands from the highest bit down, then ENABLE. -/
def writeRingControl (who : Half) (r : Nat) (v : Word) (s : State) : Out :=
  thenWrite (ifBit v 5 (execInit who r) s) fun s =>
  thenWrite (ifBit v 4 (execReset who r) s) fun s =>
  thenWrite (ifBit v 3 (execSkip who r) s) fun s =>
  thenWrite (ifBit v 2 (execRetry who r) s) fun s =>
  thenWrite (ifBit v 1 (execResume who r) s) fun s =>
  execEnable who r (Word.bit v 0) s

/-- A configuration register of a ring takes writes while the ring is DISABLED (R257). -/
def writeRingConfig (n : Nat) (r : Reg) (v : Word) (s : State) : State :=
  if (s.ring n).state = .disabled then plainWrite r v s else s.setBit .edgeStatus 2

/-- The shares of LINK_CRED with one word replaced keep the rule of R337. -/
def credsGood (s : State) (l k : Nat) (v : Word) : Bool :=
  let words := (List.range 4).map fun i => if i = k then v else s.reg (.linkCred l i)
  let shares := words.flatMap fun w => unpackNat 16 4 w.toNat
  decide (shares.sum ≤ 16384) && shares.all fun x => decide (17 ≤ x)

/-- CTRL_REQ (R379, R385): a code that is not listed is refused. -/
def writeRequest (who : Half) (v : Word) (s : State) : Out :=
  let n := Word.fld v 0 6
  match Word.fld v 8 3 with
  | 1 => execFieldSelfTest who n s
  | 2 => execStackRecalibration who n s
  | 3 => execLakeChannelRecalibration who n s
  | 4 => execLinkRecalibration who n s
  | _ => .next (if s.faults.inFrost then eqxIgnored s else lastReq s 5)

/-- SVC_SHARE_CFG is accepted (R361). -/
def shareGood (v : Word) : Bool := decide (shareMin v ≤ shareMax v) && decide (shareMax v ≤ 64)

/-- FLT_FROST_EN as it can be (R417): the classes that always bring frost read 1, THERMAL reads 0. -/
def frostEnable (v : Word) : Word := (v &&& 0x7FFFF ||| 0x75800) &&& ~~~0x2000

/-- The effect of a write of a register that sets no reserved bit. [DESIGN CHOICE: log entry 79] -/
def writeEffect (who : Half) (r : Reg) (v : Word) (s : State) : Out :=
  match r with
  | .coreCtl c => writeCoreControl who c v s
  | .coreSaveBase c => .next (if 0x168 < Word.fld v 12 9 then s.setBit (.coreStatus c) 8 else plainWrite r v s)
  | .ctxPc c x => .next (writeCtx ⟨c, x⟩ id s)
  | .ctxTq c x => .next (writeCtx ⟨c, x⟩ id s)
  | .ctxEntry c x => .next (writeCtx ⟨c, x⟩ (plainWrite r v) s)
  | .ctxInuse c x =>
    .next (writeCtx ⟨c, x⟩ (fun s => s.modCtx ⟨c, x⟩ fun y => { y with tinuse := v.truncate 16, accinuse := (v >>> 16).truncate 2 }) s)
  | .ctxTstart c x => .next (writeCtx ⟨c, x⟩ (fun s => s.modCtx ⟨c, x⟩ fun y => { y with tstart := v.truncate 18 }) s)
  | .ctxTcfg c x k => writeTcfg ⟨c, x⟩ k v s
  | .gridCtl => execGridCtl who v s
  | .gridStart => execGridStart who v s
  | .gridRtrPart c => thenWrite (ifBit v 8 (execFStop who c) s) (ifBit v 9 (execBStop who c))
  | .syncClr c => execSyncClr who c v s
  | .syncInc c => execSyncInc who c v s
  | .edgeXsCfg e n => execEdgeXsCfg who e n v s
  | .edgeRingBase n => .next (writeRingConfig n r v s)
  | .edgeRingCfg n => .next (writeRingConfig n r v s)
  | .edgeRingCq n => .next (writeRingConfig n r v s)
  | .edgeRingCtl n => writeRingControl who n v s
  | .edgeRingPost n => execEdgeRingPost who n v s
  | .arbCfg a => thenWrite (.next (plainWrite r v s)) (ifBit v 63 (execClear who a))
  | .arbPrio a k => execArbPrio who a k v s
  | .sprgCfg _ => .next (if 16 < Word.fld v 0 5 then s.setBit .sprgSummary 32 else plainWrite r v s)
  | .sprgCtl n =>
    thenWrite (ifBit v 1 (execDropC who n) s) fun s =>
    thenWrite (ifBit v 2 (execDropM who n) s) (ifBit v 0 (execSpringResume who n))
  | .linkCtl l => thenWrite (execLinkCtlEnable who l (Word.bit v 0) s) (ifBit v 1 (execRetrain who l))
  | .linkCred l k =>
    .next (if (s.link l).state = .disabled && credsGood s l k v then plainWrite r v s else s.setBit .linkStatus 3)
  | .chainCfg => .next (writeChainCfg s v)
  | .chainAlarmTx => execChainAlarmTx who v s
  | .timeCfg => execTimeCfg who v s
  | .timeFmt => execTimeFmt who v s
  | .timeSet => execTimeSet who v s
  | .timePlogBase => execTimePlogBase who v s
  | .svcShareCfg => .next (if shareGood v then plainWrite r v s else s.setBit .svcEvent 4)
  | .svcMarginMin => execSvcMarginMinClr who v s
  | .ctrlEqxCtl => ifBit v 0 (execHandover who) s
  | .ctrlReq => writeRequest who v s
  | .ctrlPart => execCtrlPart who v s
  | .secStatus =>
    .next (s.modSec who fun x => { x with wign := x.wign && !Word.bit v 3, attDone := x.attDone && !Word.bit v 2 })
  | .secFloor => execSecFloor who v s
  | .secKeys => execRevoke who v s
  | .secExtData k => .next (s.modSec who fun x => { x with extData := setAt x.extData k v })
  | .secNonce k => .next (s.modSec who fun x => { x with nonce := setAt x.nonce k v })
  | .secExtCmd => execExtend who v s
  | .secAtt => execAttestationStart who v s
  | .chkPoly u p => .next (writePset s u p 0 r v)
  | .chkInit u p => .next (writePset s u p 1 r v)
  | .chkXorout u p => .next (writePset s u p 2 r v)
  | .chkPctl u p => .next (writePset s u p 3 r v)
  | .fltFrostEn => .next (s.setReg r (frostEnable v))
  | .fltCtl => thenWrite (ifBit v 0 (execFltCtlEnter who) s) (ifBit v 1 (execDevreset who))
  | .fltQidx => execFltQidx who v s
  | .pwrTcfg => .next (if Word.fld v 0 8 < 70 || 105 < Word.fld v 0 8 then s.setBit .pwrEvent 4 else plainWrite r v s)
  | _ => .next (plainWrite r v s)

/-! ### Accesses of a cluster -/

/-- An access that is refused (R25, R362): a record of class ADDRESS that names the cluster, and the access fault of its core.
[DEDUCED: log entry 83] -/
def refuseAccess (s : State) (who : Half) (addr cause : Nat) : State :=
  let s := raiseRec s { Rec.of s 4 cause 7 8 (halfNum who) with addr := addr }
  s.modCluster who fun c => { c with accessFault := true }

/-- An access answered without data. -/
def accessDone (s : State) (who : Half) : State := s.modCluster who fun c => { c with accessFault := false }

/-- A register access must be 8 bytes, naturally aligned (R31). -/
def regAligned (addr size : Nat) : Bool := size = 8 && addr % 8 = 0

/-- A register read by a cluster that runs. -/
def doRegisterRead (who : Half) (addr size : Nat) (s : State) : State :=
  if regAligned addr size then answer (readRegister who addr s).2 who (readRegister who addr s).1 else refuseAccess s who addr 3

/-- A register write by a cluster that runs (R10, R31, R365). -/
def doRegisterWrite (who : Half) (addr size : Nat) (v : Word) (s : State) : Out :=
  if regAligned addr size then
    match Reg.ofAddr addr with
    | some r =>
      if !regFitted s r then .next (accessDone s who)
      else if v &&& r.reserved ≠ 0 then .fault (.reservedBitWritten addr)
      else thenWrite (writeEffect who r v s) fun s => .next (accessDone s who)
    | none => .next (accessDone s who)
  else .next (refuseAccess s who addr 3)

/-- An address of the register blocks (R30). -/
def inRegs (s : State) (addr : Nat) : Bool := s.region addr = .regs

/-- An address of the 64 GiB of register windows (R24). -/
def inWindows (addr : Nat) : Bool := decide (regBase ≤ addr) && decide (addr < 2 ^ 43)

/-- REGISTER_READ (R30, R31): a window with no block faults. -/
def execRegisterRead (who : Half) (addr size : Nat) (s : State) : Out :=
  stepIf (clusterRuns s who && inWindows addr) s
    (if inRegs s addr then doRegisterRead who addr size s else refuseAccess s who addr 1)

/-- REGISTER_WRITE (R30, R31, R365). -/
def execRegisterWrite (who : Half) (addr size : Nat) (v : Word) (s : State) : Out :=
  if clusterRuns s who && inWindows addr then
    (if inRegs s addr then doRegisterWrite who addr size v s else .next (refuseAccess s who addr 1))
  else .next s

/-- A load that meets a unit which stays uncorrectable takes an access fault (R249). -/
def loadFails (s : State) (who : Half) : State := s.modCluster who fun c => { c with accessFault := true }


/-- A load of n bytes from memory. -/
def clusterLoad (who : Half) (a n : Nat) (s : State) : State :=
  match s.region a with
  | .store c off =>
    match storeRead s c off n with
    | (some bs, t) => answer t who (BitVec.ofNat 64 (ofBytes bs))
    | (none, t) => loadFails (storeEcc t c (badOffset t c off n)) who
  | _ =>
    match portRead (passPort s a n (bridgeRequester who false)) a n with
    | (some bs, t) => answer t who (BitVec.ofNat 64 (ofBytes bs))
    | (none, t) => loadFails t who

/-- A store of bytes to memory. -/
def clusterStore (who : Half) (a : Nat) (bs : List Byte) (s : State) : State :=
  match s.region a with
  | .store c off => accessDone (storeWrite s c off bs) who
  | _ =>
    match portWrite (passPort s a bs.length (bridgeRequester who false)) a bs with
    | (true, t) => accessDone t who
    | (false, t) => loadFails t who

/-- The memory takes an access of a cluster now: a core store, or the ports of the range; its own partition only once all its channels are
ready (R363). -/
def memoryFree (s : State) (who : Half) (a n : Nat) (store : Bool) : Bool :=
  decide (storeBase ≤ a)
    || (portFree s a n (bridgeRequester who false) store && (!meetsPartition s who a n || partitionReady s who))

/-- An access to memory; in frost a cluster writes its own partition only (R415). One that its port does not take has no effect yet.
[DESIGN CHOICE: log entry 81, DEDUCED: log entry 82] -/
def memoryAccess (who : Half) (store : Bool) (a n : Nat) (v : Word) (s : State) : State :=
  match accessDenied s who a n store with
  | some (x, cause) => refuseAccess s who x cause
  | none =>
    if store && s.faults.inFrost && !(s.region a = .partition who && s.region (a + n - 1) = .partition who) then s
    else if memoryFree s who a n store then
      settlePorts (useStored (.bridge who) s
        (if store then clusterStore who a (toBytes n v.toNat) s else clusterLoad who a n s))
    else s

/-- The flash of a half as its xSPI controller reaches it (R362); an absent one gives an access fault. -/
def flashAccess (who : Half) (store : Bool) (a n : Nat) (v : Word) (s : State) : State :=
  let b := s.boot who
  if !b.fitted then loadFails s who
  else if store then accessDone (s.modBoot who fun b => { b with flash := flashWrite b.flash a (toBytes n v.toNat) }) who
  else answer s who (BitVec.ofNat 64 (ofBytes (flashRead b.flash a n)))

/-- An access to the private space of a cluster (R362; log entry 108): the ROM, which takes no store, the SRAM, the flash, and the word of the
MAC that sends the frame at the address in bits [47:0] with the length in bits [63:48]. Elsewhere is nothing, and the core takes an access
fault. [DESIGN CHOICE: log entry 108] -/
def privateAccess (who : Half) (store : Bool) (a n : Nat) (v : Word) (s : State) : State :=
  if within 0 romSize a n then
    if store then accessDone s who
    else answer s who (BitVec.ofNat 64 (ofBytes ((List.range n).map fun i => Config.romByte (halfNum who) (a + i))))
  else if within sramBase sramSize a n then
    if store then accessDone (privStore s who a (toBytes n v.toNat)) who
    else answer s who (BitVec.ofNat 64 (ofBytes (Memory.readN (s.cluster who).priv a n)))
  else if within flashBase flashSize a n then flashAccess who store (a - flashBase) n v s
  else if a = macSend && n = 8 then
    accessDone (if store then transmit s who (Word.fld v 0 48) (Word.fld v 48 16) else s) who
  else loadFails s who

/-- The address is none that a cluster may issue: a bit of [63:43] is set other than bit 47 (R362). -/
def beyondLocal (addr : Nat) : Bool := addr / 2 ^ 43 % 2 ^ 21 ≠ 0 && addr / 2 ^ 43 % 2 ^ 21 ≠ 16

/-- CLUSTER_ACCESS (R25, R31, R362, R364). -/
def execClusterAccess (who : Half) (store : Bool) (addr size : Nat) (v : Word) (s : State) : Out :=
  if !clusterRuns s who || !(size = 1 || size = 2 || size = 4 || size = 8) then .next s
  else if beyondLocal addr then .next (refuseAccess s who addr 1)
  else if addr / 2 ^ 47 % 2 = 1 then .next (privateAccess who store (addr % 2 ^ 43) size v s)
  else if inRegs s addr then
    (if store then doRegisterWrite who addr size v s else .next (doRegisterRead who addr size s))
  else .next (memoryAccess who store addr size v s)

/-! ### Interrupts -/

/-- The status and enable registers of each block that interrupts both control clusters. -/
def interruptRegs : List (Reg × Reg) :=
  [(.ctrlReadyEvent, .ctrlReadyIen), (.gridStatus, .gridIen), (.syncStatus, .syncIen), (.edgeStatus, .edgeIen),
   (.linkStatus, .linkIen), (.chainEvent, .chainIen), (.timeEvent, .timeIen), (.svcEvent, .svcIen), (.chkStatus, .chkIen),
   (.fltStatus, .fltIen), (.pwrEvent, .pwrIen)]

/-- A block interrupts while a status bit and its enable are both 1; the springs by SPRG_SUMMARY and SPRG_IEN (R288). Frost, once entered,
interrupts whatever FLT_IEN holds (R405). [DESIGN CHOICE: log entry 92] -/
def interrupts (s : State) : List Reg :=
  let plain := (interruptRegs.filter fun p => s.reg p.1 &&& s.reg p.2 ≠ 0).map (·.1)
  let spring := (s.regBit .sprgIen 0 && springBits s Spring.held ≠ 0) || (s.regBit .sprgIen 1 && springBits s Spring.trapped ≠ 0)
  (if s.faults.inFrost then [.fltFrost] else []) ++ (if spring then .sprgSummary :: plain else plain)

end Sys2Proof.Machine
end

