-- ==== Sys2Proof/Machine/Scan.lean ====
section
/-! DEFINITION. The test access ports (R414, R433): three IEEE 1149.1 controllers on one TCK, TMS and TRST_N, chained from TDI to TDO. -/

namespace Sys2Proof.Machine

open Sys2Proof

/-- The next state of a controller (IEEE 1149.1). [PRESUMED: log entry 39] -/
def Tap.next (t : Tap) (tms : Bool) : Tap :=
  match t with
  | .reset => if tms then .reset else .idle
  | .idle => if tms then .selDr else .idle
  | .selDr => if tms then .selIr else .capDr
  | .capDr => if tms then .ex1Dr else .shDr
  | .shDr => if tms then .ex1Dr else .shDr
  | .ex1Dr => if tms then .upDr else .paDr
  | .paDr => if tms then .ex2Dr else .paDr
  | .ex2Dr => if tms then .upDr else .shDr
  | .upDr => if tms then .selDr else .idle
  | .selIr => if tms then .reset else .capIr
  | .capIr => if tms then .ex1Ir else .shIr
  | .shIr => if tms then .ex1Ir else .shIr
  | .ex1Ir => if tms then .upIr else .paIr
  | .paIr => if tms then .ex2Ir else .paIr
  | .ex2Ir => if tms then .upIr else .shIr
  | .upIr => if tms then .selDr else .idle

/-- BYPASS: every bit of the instruction is 1. -/
def isBypass (ir : List Bool) : Bool := ir.all id

/-- What acts as BYPASS (R433): BYPASS, and an instruction that drives lands while RESET_N is high. -/
def actsBypass (s : State) (ir : List Bool) : Bool := isBypass ir || (s.power.resetN && Config.drivesLands ir)

/-- A free bit (log entry 1). -/
def freeBit (s : State) : Bool × State := ((Config.freeBits 1 s.free).getLsbD 0, { s with free := s.free + 1 })

/-- One shift of a chain of registers, the lowest bit leaving first: the registers and the bit at the end. -/
def shiftChain : Bool → List (List Bool) → List (List Bool) × Bool
  | b, [] => ([], b)
  | b, r :: rs =>
    let out := r.headD b
    let (rest, last) := shiftChain out rs
    ((r.drop 1 ++ [b]) :: rest, last)

/-- The bits that a data register takes in capture or shows after a shift: BYPASS captures 0; what another instruction's register
holds is no bit that the spec gives. -/
def dataBits (capture : Bool) : List (List Bool) → List (List Bool) → State → List (List Bool) × State
  | ir :: irs, r :: rs, s =>
    let (x, s) := if actsBypass s ir then (if capture then [false] else r, s) else let (b, s) := freeBit s; ([b], s)
    let (xs, s) := dataBits capture irs rs s
    (x :: xs, s)
  | _, _, s => ([], s)

/-- The instruction registers capture 01 in their two lowest bits. -/
def captureIr : Nat → State → List (List Bool) × State
  | 0, s => ([], s)
  | n + 1, s =>
    let (a, s) := freeBit s
    let (b, s) := freeBit s
    let (xs, s) := captureIr n s
    ([true, false, a, b] :: xs, s)

/-- What the controllers do at a rising edge of TCK in their present state. -/
def scanAct (s : State) (tdi : Bool) : State :=
  let x := s.scan
  match x.tap with
  | .capDr =>
    let (bits, s) := dataBits true x.ir x.shift s
    { s with scan := { x with shift := bits } }
  | .shDr =>
    let (bits, s) := dataBits false x.ir (shiftChain tdi x.shift).1 s
    { s with scan := { x with shift := bits } }
  | .capIr =>
    let (bits, s) := captureIr 3 s
    { s with scan := { x with shift := bits } }
  | .shIr => { s with scan := { x with shift := (shiftChain tdi x.shift).1 } }
  | _ => s

/-- The instruction that a register takes: one that drives lands, loaded while RESET_N is high, acts as BYPASS (R433). -/
def loadIr (s : State) (ir : List Bool) : List Bool := if actsBypass s ir then ir.map fun _ => true else ir

/-- The state after an edge: Test-Logic-Reset selects BYPASS, Update-IR takes the bits shifted in, and TDO is driven while the
controllers shift. -/
def scanMove (s : State) (tms : Bool) : State :=
  let x := s.scan
  let t := x.tap.next tms
  let ir := match t with
    | .reset => Scan.reset.ir
    | .upIr => x.shift.map (loadIr s)
    | _ => x.ir
  let tdo := if t = .shDr || t = .shIr then some ((x.shift.getLastD []).headD false) else none
  { s with scan := { x with tap := t, ir := ir, tdo := tdo } }

/-- BOUNDARY_SCAN (R433): one cycle of TCK, while PWR_GOOD is high. -/
def execBoundaryScan (tms tdi : Bool) (s : State) : Out := stepIf s.power.pwrGood s (scanMove (scanAct s tdi) tms)

end Sys2Proof.Machine
end

