-- ==== Sys2Proof/Machine/Tick.lean ====
section
/-! DEFINITION. What passes with a cycle of the grid clock (R9, R178, R214, R256, R258, R288), and the start of a round. -/

namespace Sys2Proof.Machine

open Sys2Proof

/-- The arbiters at which something may wait. -/
def activeArbs (s : State) : List Nat :=
  let links := s.links.filterMap fun l => if l.2.queue.isEmpty then none else some (32 + l.1)
  let waited := s.arbs.filterMap fun a => if a.2.since.isEmpty then none else some a.1
  (s.reqs.map (·.arb) ++ links ++ waited).eraseDups

/-- A pseudo-channel of a stack holds its cap of B requests (HBMP_PCHOT.CAPCYC). -/
def atCap (s : State) (n : Nat) : Bool :=
  let here := s.reqs.filter fun q => q.accepted && !q.frame && decide (q.addr < lakeBase) && memNum s q.addr = n
  576 ≤ here.length && (List.range 32).any fun p => 576 ≤ (here.filter fun q => pseudoChannel s q.addr = p).length

/-- The cycle counted at the stacks whose pseudo-channels are at their cap. -/
def noteCaps (s : State) : State :=
  if s.reqs.length < 576 then s
  else (List.range 16).foldl (fun s n => if atCap s n then s.countReg (.hbmpPchot n) 16 48 1 else s) s

/-- How many of the passing nanoseconds a command of a spring waited for banks (R262): the banks' own timing is not given, so it is
a free value of at most all of them (log entry 49). [DESIGN CHOICE: log entry 49] -/
def noteBankWait (s : State) (sp ns : Nat) : State :=
  { s with free := s.free + 1 }.countReg (.sprgBankwait sp) 0 48 ((Config.freeBits 64 s.free).toNat % (ns + 1))

/-- The nanoseconds for which the engines of the springs ran, and for which a command waited for banks (SPRG_CBUSY, SPRG_MBUSY and
SPRG_BANKWAIT, R288). -/
def noteBusy (s : State) (ns : Nat) : State :=
  s.springs.foldl
    (fun s x =>
      let s := if x.2.compute.isSome then s.countReg (.sprgCbusy x.1) 0 48 ns else s
      let s := if x.2.move.isSome then s.countReg (.sprgMbusy x.1) 0 48 ns else s
      if x.2.compute.isSome || x.2.move.isSome then noteBankWait s x.1 ns else s) s

/-- Reference time passes one grid cycle, and what counts nanoseconds with it. -/
def passTime (s : State) : State :=
  let t := passUnits s
  let ns := t.elapsed - s.time.elapsed
  let s := { s with time := t }
  if s.working then noteBusy s ns else s

/-- One cycle of the grid clock; without a good clock, without power and in reset nothing passes. -/
def tick (s : State) : State :=
  if s.live then
    let s := if s.working then (activeArbs s).foldl noteWaits (noteCaps s) else s
    passTime (settlePorts (byClass (fun s => serviceTick (gridTick (deliverEvents s))) s))
  else s

/-- ROUND_START (R178): the last cycle of the round passes. -/
def execRoundStart (s : State) : Out :=
  stepIf (s.live && s.grid.running && decide (s.grid.len ≤ s.grid.cycle + 1)) s (tick s)

end Sys2Proof.Machine
end

