-- ==== Sys2Proof/Machine/Dispatch.lean ====
section
/-! DEFINITION. The meaning of each command: one arm per row of spec/opcode_table.json. -/

namespace Sys2Proof.Machine

open Sys2Proof

/-- What a command does to everything but the queue. -/
def exec (i : Instr) (s : State) : Host.Outcome State Fault Refusal :=
  match i with
  | .nop k => Sys2Proof.Machine.execNop k s
  | .add k d a b => Sys2Proof.Machine.execAdd k d a b s
  | .sub k d a b => Sys2Proof.Machine.execSub k d a b s
  | .and k d a b => Sys2Proof.Machine.execAnd k d a b s
  | .or k d a b => Sys2Proof.Machine.execOr k d a b s
  | .xor k d a b => Sys2Proof.Machine.execXor k d a b s
  | .sll k d a b => Sys2Proof.Machine.execSll k d a b s
  | .srl k d a b => Sys2Proof.Machine.execSrl k d a b s
  | .sra k d a b => Sys2Proof.Machine.execSra k d a b s
  | .slt k d a b => Sys2Proof.Machine.execSlt k d a b s
  | .sltu k d a b => Sys2Proof.Machine.execSltu k d a b s
  | .min k d a b => Sys2Proof.Machine.execMin k d a b s
  | .max k d a b => Sys2Proof.Machine.execMax k d a b s
  | .minu k d a b => Sys2Proof.Machine.execMinu k d a b s
  | .maxu k d a b => Sys2Proof.Machine.execMaxu k d a b s
  | .mul k d a b => Sys2Proof.Machine.execMul k d a b s
  | .mulh k d a b => Sys2Proof.Machine.execMulh k d a b s
  | .mulhu k d a b => Sys2Proof.Machine.execMulhu k d a b s
  | .addi k d a x => Sys2Proof.Machine.execAddi k d a x s
  | .andi k d a x => Sys2Proof.Machine.execAndi k d a x s
  | .ori k d a x => Sys2Proof.Machine.execOri k d a x s
  | .xori k d a x => Sys2Proof.Machine.execXori k d a x s
  | .slti k d a x => Sys2Proof.Machine.execSlti k d a x s
  | .slli k d a x => Sys2Proof.Machine.execSlli k d a x s
  | .srli k d a x => Sys2Proof.Machine.execSrli k d a x s
  | .srai k d a x => Sys2Proof.Machine.execSrai k d a x s
  | .li k d imm => Sys2Proof.Machine.execLi k d imm s
  | .lih k d imm => Sys2Proof.Machine.execLih k d imm s
  | .ld k sz d a x => Sys2Proof.Machine.execLd k sz d a x s
  | .ldu k sz d a x => Sys2Proof.Machine.execLdu k sz d a x s
  | .st k sz a b x => Sys2Proof.Machine.execSt k sz a b x s
  | .beq k a b x => Sys2Proof.Machine.execBeq k a b x s
  | .bne k a b x => Sys2Proof.Machine.execBne k a b x s
  | .blt k a b x => Sys2Proof.Machine.execBlt k a b x s
  | .bge k a b x => Sys2Proof.Machine.execBge k a b x s
  | .bltu k a b x => Sys2Proof.Machine.execBltu k a b x s
  | .bgeu k a b x => Sys2Proof.Machine.execBgeu k a b x s
  | .bdnz k d x => Sys2Proof.Machine.execBdnz k d x s
  | .jal k d x => Sys2Proof.Machine.execJal k d x s
  | .jr k d a => Sys2Proof.Machine.execJr k d a s
  | .rdtime k d => Sys2Proof.Machine.execRdtime k d s
  | .rdline k d => Sys2Proof.Machine.execRdline k d s
  | .rdid k d => Sys2Proof.Machine.execRdid k d s
  | .endCtx k => Sys2Proof.Machine.execEndCtx k s
  | .evWait k d => Sys2Proof.Machine.execEvWait k d s
  | .vld k d a x => Sys2Proof.Machine.execVld k d a x s
  | .vst k a b x => Sys2Proof.Machine.execVst k a b x s
  | .vbcast k w d a => Sys2Proof.Machine.execVbcast k w d a s
  | .vget k d a x => Sys2Proof.Machine.execVget k d a x s
  | .vadd k w d a b => Sys2Proof.Machine.execVadd k w d a b s
  | .vsub k w d a b => Sys2Proof.Machine.execVsub k w d a b s
  | .vmul k w d a b => Sys2Proof.Machine.execVmul k w d a b s
  | .vmin k w d a b => Sys2Proof.Machine.execVmin k w d a b s
  | .vmax k w d a b => Sys2Proof.Machine.execVmax k w d a b s
  | .vneg k w d a => Sys2Proof.Machine.execVneg k w d a s
  | .vabs k w d a => Sys2Proof.Machine.execVabs k w d a s
  | .vfma k w d a b c => Sys2Proof.Machine.execVfma k w d a b c s
  | .vsum k w d a => Sys2Proof.Machine.execVsum k w d a s
  | .vcmpGt k w d a b => Sys2Proof.Machine.execVcmpGt k w d a b s
  | .vcmpGe k w d a b => Sys2Proof.Machine.execVcmpGe k w d a b s
  | .vcmpEq k w d a b => Sys2Proof.Machine.execVcmpEq k w d a b s
  | .vand k d a b => Sys2Proof.Machine.execVand k d a b s
  | .vor k d a b => Sys2Proof.Machine.execVor k d a b s
  | .vxor k d a b => Sys2Proof.Machine.execVxor k d a b s
  | .vsel k d a b c => Sys2Proof.Machine.execVsel k d a b c s
  | .vexp k w d a => Sys2Proof.Machine.execVexp k w d a s
  | .vlog2 k w d a => Sys2Proof.Machine.execVlog2 k w d a s
  | .vrsqrt k w d a => Sys2Proof.Machine.execVrsqrt k w d a s
  | .vtanh k w d a => Sys2Proof.Machine.execVtanh k w d a s
  | .vcvt k mode d a b c x => Sys2Proof.Machine.execVcvt k mode d a b c x s
  | .vtrd k d a b x => Sys2Proof.Machine.execVtrd k d a b x s
  | .vtwr k d a b x => Sys2Proof.Machine.execVtwr k d a b x s
  | .tcfg k pair d a => Sys2Proof.Machine.execTcfg k pair d a s
  | .tfree k x => Sys2Proof.Machine.execTfree k x s
  | .tclr k accs => Sys2Proof.Machine.execTclr k accs s
  | .tld k d a b x => Sys2Proof.Machine.execTld k d a b x s
  | .tldTr k d a b x => Sys2Proof.Machine.execTldTr k d a b x s
  | .tst k a b c => Sys2Proof.Machine.execTst k a b c s
  | .tstTr k a b c => Sys2Proof.Machine.execTstTr k a b c s
  | .tstAdd k a b c => Sys2Proof.Machine.execTstAdd k a b c s
  | .tdrain k acc toTiles d b c => Sys2Proof.Machine.execTdrain k acc toTiles d b c s
  | .tdrainC k acc toTiles d b c => Sys2Proof.Machine.execTdrainC k acc toTiles d b c s
  | .tdrainF k acc x => Sys2Proof.Machine.execTdrainF k acc x s
  | .twl k pair a => Sys2Proof.Machine.execTwl k pair a s
  | .fcfg k a => Sys2Proof.Machine.execFcfg k a s
  | .tmma k form acc mode a b c x => Sys2Proof.Machine.execTmma k form acc mode a b c x s
  | .tmmat k form acc mode a b c x => Sys2Proof.Machine.execTmmat k form acc mode a b c x s
  | .scInc k x => Sys2Proof.Machine.execScInc k x s
  | .scIncR k a x => Sys2Proof.Machine.execScIncR k a x s
  | .scWait k ring d a b x => Sys2Proof.Machine.execScWait k ring d a b x s
  | .scRd k ring d x => Sys2Proof.Machine.execScRd k ring d x s
  | .rgPost k a x => Sys2Proof.Machine.execRgPost k a x s
  | .phBgn k x => Sys2Proof.Machine.execPhBgn k x s
  | .phEnd k x => Sys2Proof.Machine.execPhEnd k x s
  | .releaseTakesEffect k => Sys2Proof.Machine.execReleaseTakesEffect k s
  | .contextEntersFaulted k => Sys2Proof.Machine.execContextEntersFaulted k s
  | .tileOpBegin k stage => Sys2Proof.Machine.execTileOpBegin k stage s
  | .rowGroupBegin k stage => Sys2Proof.Machine.execRowGroupBegin k stage s
  | .rowGroupComplete k stage => Sys2Proof.Machine.execRowGroupComplete k stage s
  | .tileInstructionComplete k stage => Sys2Proof.Machine.execTileInstructionComplete k stage s
  | .pondBroadcastBegin pond c => Sys2Proof.Machine.execPondBroadcastBegin pond c s
  | .lineEventDelivery core ev => Sys2Proof.Machine.execLineEventDelivery core ev s
  | .interruptBoundaryReached k stage => Sys2Proof.Machine.execInterruptBoundaryReached k stage s
  | .saveComplete core => Sys2Proof.Machine.execSaveComplete core s
  | .restoreComplete core => Sys2Proof.Machine.execRestoreComplete core s
  | .contextEnable who k => Sys2Proof.Machine.execContextEnable who k s
  | .contextHalt who k => Sys2Proof.Machine.execContextHalt who k s
  | .fReset who core => Sys2Proof.Machine.execFReset who core s
  | .bReset who core => Sys2Proof.Machine.execBReset who core s
  | .registerWrite who addr size v => Sys2Proof.Machine.execRegisterWrite who addr size v s
  | .roundStart => Sys2Proof.Machine.execRoundStart s
  | .voteAndEntry router n parity => Sys2Proof.Machine.execVoteAndEntry router n parity s
  | .voteGoEntry router n parity => Sys2Proof.Machine.execVoteGoEntry router n parity s
  | .dataSlotEntry router entry => Sys2Proof.Machine.execDataSlotEntry router entry s
  | .gridStart who v => Sys2Proof.Machine.execGridStart who v s
  | .fStop who router => Sys2Proof.Machine.execFStop who router s
  | .bStop who router => Sys2Proof.Machine.execBStop who router s
  | .gridCtl who v => Sys2Proof.Machine.execGridCtl who v s
  | .incrementLands places => Sys2Proof.Machine.execIncrementLands places s
  | .waitTimeoutExpiry w => Sys2Proof.Machine.execWaitTimeoutExpiry w s
  | .syncClr who core v => Sys2Proof.Machine.execSyncClr who core v s
  | .syncInc who core v => Sys2Proof.Machine.execSyncInc who core v s
  | .edgeRingPost who ring v => Sys2Proof.Machine.execEdgeRingPost who ring v s
  | .descriptorNop ring => Sys2Proof.Machine.execDescriptorNop ring s
  | .copy ring => Sys2Proof.Machine.execCopy ring s
  | .sin ring => Sys2Proof.Machine.execSin ring s
  | .sout ring => Sys2Proof.Machine.execSout ring s
  | .gather ring => Sys2Proof.Machine.execGather ring s
  | .scatter ring => Sys2Proof.Machine.execScatter ring s
  | .csld ring => Sys2Proof.Machine.execCsld ring s
  | .csrd ring => Sys2Proof.Machine.execCsrd ring s
  | .ild ring => Sys2Proof.Machine.execIld ring s
  | .sld ring => Sys2Proof.Machine.execSld ring s
  | .sprg ring => Sys2Proof.Machine.execSprg ring s
  | .chk ring => Sys2Proof.Machine.execChk ring s
  | .wait ring => Sys2Proof.Machine.execWait ring s
  | .descriptorComplete ring => Sys2Proof.Machine.execDescriptorComplete ring s
  | .requestAccepted id => Sys2Proof.Machine.execRequestAccepted id s
  | .readDataReturn id interfaceError => Sys2Proof.Machine.execReadDataReturn id interfaceError s
  | .eccWriteBack unit => Sys2Proof.Machine.execEccWriteBack unit s
  | .arbiterGrant arb => Sys2Proof.Machine.execArbiterGrant arb s
  | .arbiterPreempt arb => Sys2Proof.Machine.execArbiterPreempt arb s
  | .clear who arb => Sys2Proof.Machine.execClear who arb s
  | .arbPrio who arb req v => Sys2Proof.Machine.execArbPrio who arb req v s
  | .edgeXsCfg who engine n v => Sys2Proof.Machine.execEdgeXsCfg who engine n v s
  | .init who ring => Sys2Proof.Machine.execInit who ring s
  | .enable who ring on => Sys2Proof.Machine.execEnable who ring on s
  | .resume who ring => Sys2Proof.Machine.execResume who ring s
  | .retry who ring => Sys2Proof.Machine.execRetry who ring s
  | .skip who ring => Sys2Proof.Machine.execSkip who ring s
  | .reset who ring => Sys2Proof.Machine.execReset who ring s
  | .resettingComplete ring => Sys2Proof.Machine.execResettingComplete ring s
  | .springCommandAccept spring => Sys2Proof.Machine.execSpringCommandAccept spring s
  | .gacc spring => Sys2Proof.Machine.execGacc spring s
  | .adam spring => Sys2Proof.Machine.execAdam spring s
  | .mom spring => Sys2Proof.Machine.execMom spring s
  | .cast spring => Sys2Proof.Machine.execCast spring s
  | .lrinit spring => Sys2Proof.Machine.execLrinit spring s
  | .lrp spring => Sys2Proof.Machine.execLrp spring s
  | .lrorth spring => Sys2Proof.Machine.execLrorth spring s
  | .lrq spring => Sys2Proof.Machine.execLrq spring s
  | .lrres spring => Sys2Proof.Machine.execLrres spring s
  | .gath spring => Sys2Proof.Machine.execGath spring s
  | .snap spring => Sys2Proof.Machine.execSnap spring s
  | .springCommandComplete spring eng => Sys2Proof.Machine.execSpringCommandComplete spring eng s
  | .springResume who spring => Sys2Proof.Machine.execSpringResume who spring s
  | .dropC who spring => Sys2Proof.Machine.execDropC who spring s
  | .dropM who spring => Sys2Proof.Machine.execDropM who spring s
  | .codewordTransmit link => Sys2Proof.Machine.execCodewordTransmit link s
  | .codewordReceive link cw fec => Sys2Proof.Machine.execCodewordReceive link cw fec s
  | .controlFlitReceive link => Sys2Proof.Machine.execControlFlitReceive link s
  | .write link => Sys2Proof.Machine.execWrite link s
  | .read link => Sys2Proof.Machine.execRead link s
  | .resp link => Sys2Proof.Machine.execResp link s
  | .inc link => Sys2Proof.Machine.execInc link s
  | .ack link => Sys2Proof.Machine.execAck link s
  | .unreach link => Sys2Proof.Machine.execUnreach link s
  | .blockLockTimeout link => Sys2Proof.Machine.execBlockLockTimeout link s
  | .linkRtoExpiry tag => Sys2Proof.Machine.execLinkRtoExpiry tag s
  | .linkTrainingComplete link rtt pdev plink => Sys2Proof.Machine.execLinkTrainingComplete link rtt pdev plink s
  | .linkCtlEnable who link on => Sys2Proof.Machine.execLinkCtlEnable who link on s
  | .retrain who link => Sys2Proof.Machine.execRetrain who link s
  | .chainTimeSend => Sys2Proof.Machine.execChainTimeSend s
  | .time side msg passage => Sys2Proof.Machine.execTime side msg passage s
  | .frame side msg residence => Sys2Proof.Machine.execFrame side msg residence s
  | .alarm side msg => Sys2Proof.Machine.execAlarm side msg s
  | .probeSend side stamp => Sys2Proof.Machine.execProbeSend side stamp s
  | .probe side msg residence => Sys2Proof.Machine.execProbe side msg residence s
  | .echo side msg stamp => Sys2Proof.Machine.execEcho side msg stamp s
  | .chainLockLoss side => Sys2Proof.Machine.execChainLockLoss side s
  | .chainAlarmTx who v => Sys2Proof.Machine.execChainAlarmTx who v s
  | .bypassOpen => Sys2Proof.Machine.execBypassOpen s
  | .frameStart => Sys2Proof.Machine.execFrameStart s
  | .lineEvent n => Sys2Proof.Machine.execLineEvent n s
  | .referenceMeasurement m => Sys2Proof.Machine.execReferenceMeasurement m s
  | .referenceLoss => Sys2Proof.Machine.execReferenceLoss s
  | .holdoverExpiry => Sys2Proof.Machine.execHoldoverExpiry s
  | .ppsEdge h m => Sys2Proof.Machine.execPpsEdge h m s
  | .ptpEventMessage h frame => Sys2Proof.Machine.execPtpEventMessage h frame s
  | .timeSet who v => Sys2Proof.Machine.execTimeSet who v s
  | .timeCfg who v => Sys2Proof.Machine.execTimeCfg who v s
  | .timeFmt who v => Sys2Proof.Machine.execTimeFmt who v s
  | .timeNow who => Sys2Proof.Machine.execTimeNow who s
  | .timePlogBase who v => Sys2Proof.Machine.execTimePlogBase who v s
  | .phaseLogEntryWrite k => Sys2Proof.Machine.execPhaseLogEntryWrite k s
  | .sliceStart => Sys2Proof.Machine.execSliceStart s
  | .deadlineLineBegin => Sys2Proof.Machine.execDeadlineLineBegin s
  | .quietWindowStart => Sys2Proof.Machine.execQuietWindowStart s
  | .recalibrationComplete u ok => Sys2Proof.Machine.execRecalibrationComplete u ok s
  | .qwStarved u => Sys2Proof.Machine.execQwStarved u s
  | .svcMarginMinClr who v => Sys2Proof.Machine.execSvcMarginMinClr who v s
  | .resetNRise strapRecover => Sys2Proof.Machine.execResetNRise strapRecover s
  | .resetNFall => Sys2Proof.Machine.execResetNFall s
  | .inputPowerFail => Sys2Proof.Machine.execInputPowerFail s
  | .powerUp rise => Sys2Proof.Machine.execPowerUp rise s
  | .sysclkFault => Sys2Proof.Machine.execSysclkFault s
  | .copyCheckComplete check => Sys2Proof.Machine.execCopyCheckComplete check s
  | .heartbeatSend h => Sys2Proof.Machine.execHeartbeatSend h s
  | .heartbeatReceive h hb => Sys2Proof.Machine.execHeartbeatReceive h hb s
  | .silent h => Sys2Proof.Machine.execSilent h s
  | .lost h => Sys2Proof.Machine.execLost h s
  | .handover who => Sys2Proof.Machine.execHandover who s
  | .recoveryImageWrite h file => Sys2Proof.Machine.execRecoveryImageWrite h file s
  | .mgmtFrameReceive h frame dst => Sys2Proof.Machine.execMgmtFrameReceive h frame dst s
  | .mgmtBlockLockTimeout h => Sys2Proof.Machine.execMgmtBlockLockTimeout h s
  | .clusterAccess who store addr size v => Sys2Proof.Machine.execClusterAccess who store addr size v s
  | .readyBitRise f => Sys2Proof.Machine.execReadyBitRise f s
  | .thawDeadlineExpiry f => Sys2Proof.Machine.execThawDeadlineExpiry f s
  | .clusterMachineCheck h sram => Sys2Proof.Machine.execClusterMachineCheck h sram s
  | .fieldSelfTest who field => Sys2Proof.Machine.execFieldSelfTest who field s
  | .stackRecalibration who stack => Sys2Proof.Machine.execStackRecalibration who stack s
  | .lakeChannelRecalibration who channel => Sys2Proof.Machine.execLakeChannelRecalibration who channel s
  | .linkRecalibration who link => Sys2Proof.Machine.execLinkRecalibration who link s
  | .selfTestComplete field ok => Sys2Proof.Machine.execSelfTestComplete field ok s
  | .ctrlPart who v => Sys2Proof.Machine.execCtrlPart who v s
  | .secFloor who v => Sys2Proof.Machine.execSecFloor who v s
  | .revoke who v => Sys2Proof.Machine.execRevoke who v s
  | .extend who v => Sys2Proof.Machine.execExtend who v s
  | .attestationStart who v => Sys2Proof.Machine.execAttestationStart who v s
  | .attestationComplete h => Sys2Proof.Machine.execAttestationComplete h s
  | .chkDescriptorRun chkUnit => Sys2Proof.Machine.execChkDescriptorRun chkUnit s
  | .chkResult chkUnit => Sys2Proof.Machine.execChkResult chkUnit s
  | .fltQidx who v => Sys2Proof.Machine.execFltQidx who v s
  | .fltCtlEnter who => Sys2Proof.Machine.execFltCtlEnter who s
  | .devreset who => Sys2Proof.Machine.execDevreset who s
  | .frostEntry => Sys2Proof.Machine.execFrostEntry s
  | .frostQuiet => Sys2Proof.Machine.execFrostQuiet s
  | .thermalSample p => Sys2Proof.Machine.execThermalSample p s
  | .railStep => Sys2Proof.Machine.execRailStep s
  | .spreadLiftStep => Sys2Proof.Machine.execSpreadLiftStep s
  | .spreadTimeout => Sys2Proof.Machine.execSpreadTimeout s
  | .adjacentRailTimeout => Sys2Proof.Machine.execAdjacentRailTimeout s
  | .railOffSetpointTimeout field => Sys2Proof.Machine.execRailOffSetpointTimeout field s
  | .fixedRailTimeout rail => Sys2Proof.Machine.execFixedRailTimeout rail s
  | .inputRangeTimeout => Sys2Proof.Machine.execInputRangeTimeout s
  | .registerRead who addr size => Sys2Proof.Machine.execRegisterRead who addr size s
  | .recalibrationDue u => Sys2Proof.Machine.execRecalibrationDue u s
  | .sysclkGood => Sys2Proof.Machine.execSysclkGood s
  | .chainLockRegained side => Sys2Proof.Machine.execChainLockRegained side s
  | .boundaryScan tms tdi => Sys2Proof.Machine.execBoundaryScan tms tdi s

end Sys2Proof.Machine
end

