-- ==== Sys2Proof/Machine/Step.lean ====
section
/-! DEFINITION. One step of the block: the command at the front of the queue, or a cycle of the grid clock. -/

namespace Sys2Proof.Machine

open Sys2Proof

/-- The command at the front of the queue is taken and carried out with the rest; with none waiting, one cycle of the grid clock
passes (log entry 36). [DESIGN CHOICE: log entries 36, 94 and 98]
[DESIGN CHOICE: log entry 36, DESIGN CHOICE: log entry 94, DESIGN CHOICE: log entry 98] -/
def step (s : State) : Host.Outcome State Fault Refusal :=
  match s.pending with
  | [] => .next (tick s)
  | c :: rest => exec c { s with pending := rest }

/-- The state with the command that a word spells at the front of its queue. The table gives no row any bits, so no word spells a
command; what runs on a module comes from outside it (log entry 37). -/
def State.withFetchWord (s : State) (nbits w : Nat) : State :=
  match decodeTableWord nbits w with
  | some c => { s with pending := c :: s.pending }
  | none => s

end Sys2Proof.Machine
end

