-- ==== Sys2Proof/Machine/Pins.lean ====
section
/-! DEFINITION. What the module's outputs show (R414, R424 to R426): a function of the state, which no command reads. -/

namespace Sys2Proof.Machine

open Sys2Proof

/-- The transmitters of links and management ports (R426): off, electrically idle, or as each port's state says. -/
inductive TxState where
  | off
  | idle
  | perPort
  deriving DecidableEq, Repr

/-- The output lands and ports of R426: a released one is `none`; `flashDriven` says that the other flash signals are driven. -/
structure Outputs where
  pwrGood : Bool
  frostN : Option Bool
  coolReq : Bool
  tx : TxState
  bypassClosed : Bool
  flashRstN : Option Bool
  flashDriven : Bool
  tdo : Option Bool
  deriving DecidableEq, Repr

/-- The outputs in each condition of the module (R426). -/
def outputs (s : State) : Outputs :=
  { pwrGood := s.power.pwrGood
    frostN := if s.power.pwrGood && !s.power.frostN then some false else none
    coolReq := s.power.pwrGood && s.power.coolReq
    tx := if !s.power.pwrGood then .off else if s.live then .perPort else .idle
    bypassClosed := !(s.live && s.chain.bypassOpen)
    flashRstN := if s.power.pwrGood then some s.live else none
    flashDriven := s.live
    tdo := if s.power.pwrGood then s.scan.tdo else none }

end Sys2Proof.Machine
end

