-- ==== Sys2Proof/WellFormed.lean ====
section
/-! DEFINITION. When a command is well formed: every number in it names something that a K768 has. -/

namespace Sys2Proof

/-- A core, and so a router (R11, R176). -/
def coreOk (c : Nat) : Bool := decide (c < 768)
def ctxOk (k : CtxAt) : Bool := coreOk k.core

/-- A ring (R14). -/
def ringOk (r : Nat) : Bool := decide (r < 8192)

/-- A spring (R16), a link (R18), an arbiter (R252). -/
def springOk (s : Nat) : Bool := decide (s < 16)
def linkOk (l : Nat) : Bool := decide (l < 36)
/-- A reference's frequency as an offset from SYSCLK's, in 2^-32 ns per grid cycle: less than half a cycle. -/
def freqOk (f : Int) : Bool := decide (f.natAbs < 2 ^ 31)

def arbOk (a : Nat) : Bool := decide (a < 68)

/-- What waits (R216). -/
def waiterOk : Waiter → Bool
  | .ctx k => ctxOk k
  | .ring r => ringOk r

/-- A function (R37). -/
def fnOk : Fn → Bool
  | .field n => decide (n < 4)
  | .stitch n => decide (n < 4)
  | .stack n => decide (n < 16)
  | .spring n => decide (n < 16)
  | .lake n => decide (n < 64)
  | .link n => decide (n < 36)
  | .chk n => decide (n < 16)
  | .cluster _ => true
  | .mgmt _ => true
  | .time _ => true

/-- A unit that is recalibrated (R358). -/
def recalOk : RecalUnit → Bool
  | .stack n => decide (n < 16)
  | .lake n => decide (n < 64)
  | .link n => decide (n < 36)

/-- The size of an access: 1, 2, 4 or 8 bytes. -/
def sizeOk (n : Nat) : Bool := n = 1 || n = 2 || n = 4 || n = 8

/-- An address of the register windows (R24, R30). -/
def regAddrOk (a : Nat) : Bool := decide (0x7F000000000 ≤ a) && decide (a < 0x80000000000)

/-- A codeword (R311, R314): ten flits, numbered modulo 2^16. -/
def codewordOk (cw : Codeword) : Bool := cw.flits.length = 10 && decide (cw.num < 2 ^ 16)

/-- A frame of a management port (R366): up to 9,216 bytes. -/
def frameOk (f : List Byte) : Bool := decide (1 ≤ f.length) && decide (f.length ≤ 9216)

/-- A sample (R409, R418, R421): four fields of 24 sensors, 34 other dies and 13 fixed rails, each within the width of its register
field. -/
def sampleOk (p : PowerSample) : Bool :=
  p.sensors.length = 4 && p.dieTemp.length = 34 && p.vmeas.length = 4 && p.fixedMv.length = 13
    && p.sensors.all (fun ts => ts.length = 24 && ts.all (· < 256)) && p.dieTemp.all (· < 256)
    && p.vmeas.all (· < 65536) && decide (p.inputMv < 65536) && decide (p.watts < 65536)

/-- A command is well formed. -/
def Instr.wf : Instr → Bool
  | .nop k => ctxOk k
  | .add k _ _ _ => ctxOk k
  | .sub k _ _ _ => ctxOk k
  | .and k _ _ _ => ctxOk k
  | .or k _ _ _ => ctxOk k
  | .xor k _ _ _ => ctxOk k
  | .sll k _ _ _ => ctxOk k
  | .srl k _ _ _ => ctxOk k
  | .sra k _ _ _ => ctxOk k
  | .slt k _ _ _ => ctxOk k
  | .sltu k _ _ _ => ctxOk k
  | .min k _ _ _ => ctxOk k
  | .max k _ _ _ => ctxOk k
  | .minu k _ _ _ => ctxOk k
  | .maxu k _ _ _ => ctxOk k
  | .mul k _ _ _ => ctxOk k
  | .mulh k _ _ _ => ctxOk k
  | .mulhu k _ _ _ => ctxOk k
  | .addi k _ _ _ => ctxOk k
  | .andi k _ _ _ => ctxOk k
  | .ori k _ _ _ => ctxOk k
  | .xori k _ _ _ => ctxOk k
  | .slti k _ _ _ => ctxOk k
  | .slli k _ _ _ => ctxOk k
  | .srli k _ _ _ => ctxOk k
  | .srai k _ _ _ => ctxOk k
  | .li k _ _ => ctxOk k
  | .lih k _ _ => ctxOk k
  | .ld k _ _ _ _ => ctxOk k
  | .ldu k _ _ _ _ => ctxOk k
  | .st k _ _ _ _ => ctxOk k
  | .beq k _ _ _ => ctxOk k
  | .bne k _ _ _ => ctxOk k
  | .blt k _ _ _ => ctxOk k
  | .bge k _ _ _ => ctxOk k
  | .bltu k _ _ _ => ctxOk k
  | .bgeu k _ _ _ => ctxOk k
  | .bdnz k _ _ => ctxOk k
  | .jal k _ _ => ctxOk k
  | .jr k _ _ => ctxOk k
  | .rdtime k _ => ctxOk k
  | .rdline k _ => ctxOk k
  | .rdid k _ => ctxOk k
  | .endCtx k => ctxOk k
  | .evWait k _ => ctxOk k
  | .vld k _ _ _ => ctxOk k
  | .vst k _ _ _ => ctxOk k
  | .vbcast k _ _ _ => ctxOk k
  | .vget k _ _ _ => ctxOk k
  | .vadd k _ _ _ _ => ctxOk k
  | .vsub k _ _ _ _ => ctxOk k
  | .vmul k _ _ _ _ => ctxOk k
  | .vmin k _ _ _ _ => ctxOk k
  | .vmax k _ _ _ _ => ctxOk k
  | .vneg k _ _ _ => ctxOk k
  | .vabs k _ _ _ => ctxOk k
  | .vfma k _ _ _ _ _ => ctxOk k
  | .vsum k _ _ _ => ctxOk k
  | .vcmpGt k _ _ _ _ => ctxOk k
  | .vcmpGe k _ _ _ _ => ctxOk k
  | .vcmpEq k _ _ _ _ => ctxOk k
  | .vand k _ _ _ => ctxOk k
  | .vor k _ _ _ => ctxOk k
  | .vxor k _ _ _ => ctxOk k
  | .vsel k _ _ _ _ => ctxOk k
  | .vexp k _ _ _ => ctxOk k
  | .vlog2 k _ _ _ => ctxOk k
  | .vrsqrt k _ _ _ => ctxOk k
  | .vtanh k _ _ _ => ctxOk k
  | .vcvt k _ _ _ _ _ _ => ctxOk k
  | .vtrd k _ _ _ _ => ctxOk k
  | .vtwr k _ _ _ _ => ctxOk k
  | .tcfg k _ _ _ => ctxOk k
  | .tfree k _ => ctxOk k
  | .tclr k _ => ctxOk k
  | .tld k _ _ _ _ => ctxOk k
  | .tldTr k _ _ _ _ => ctxOk k
  | .tst k _ _ _ => ctxOk k
  | .tstTr k _ _ _ => ctxOk k
  | .tstAdd k _ _ _ => ctxOk k
  | .tdrain k _ _ _ _ _ => ctxOk k
  | .tdrainC k _ _ _ _ _ => ctxOk k
  | .tdrainF k _ _ => ctxOk k
  | .twl k _ _ => ctxOk k
  | .fcfg k _ => ctxOk k
  | .tmma k _ _ _ _ _ _ _ => ctxOk k
  | .tmmat k _ _ _ _ _ _ _ => ctxOk k
  | .scInc k _ => ctxOk k
  | .scIncR k _ _ => ctxOk k
  | .scWait k _ _ _ _ _ => ctxOk k
  | .scRd k _ _ _ => ctxOk k
  | .rgPost k _ _ => ctxOk k
  | .phBgn k _ => ctxOk k
  | .phEnd k _ => ctxOk k
  | .releaseTakesEffect k => ctxOk k
  | .contextEntersFaulted k => ctxOk k
  | .tileOpBegin k _ => ctxOk k
  | .rowGroupBegin k _ => ctxOk k
  | .rowGroupComplete k _ => ctxOk k
  | .tileInstructionComplete k _ => ctxOk k
  | .pondBroadcastBegin pond _ => decide (pond < 192)
  | .lineEventDelivery core ev => coreOk core && decide (ev ≤ 16)
  | .interruptBoundaryReached k _ => ctxOk k
  | .saveComplete core => coreOk core
  | .restoreComplete core => coreOk core
  | .contextEnable _ k => ctxOk k
  | .contextHalt _ k => ctxOk k
  | .fReset _ core => coreOk core
  | .bReset _ core => coreOk core
  | .registerWrite _ addr size _ => regAddrOk addr && sizeOk size
  | .roundStart => true
  | .voteAndEntry router _ _ => coreOk router
  | .voteGoEntry router _ _ => coreOk router
  | .dataSlotEntry router _ => coreOk router
  | .gridStart _ _ => true
  | .fStop _ router => coreOk router
  | .bStop _ router => coreOk router
  | .gridCtl _ _ => true
  | .incrementLands places => places ≠ [] && places.Nodup
  | .waitTimeoutExpiry w => waiterOk w
  | .syncClr _ core _ => coreOk core
  | .syncInc _ core _ => coreOk core
  | .edgeRingPost _ ring _ => ringOk ring
  | .descriptorNop ring => ringOk ring
  | .copy ring => ringOk ring
  | .sin ring => ringOk ring
  | .sout ring => ringOk ring
  | .gather ring => ringOk ring
  | .scatter ring => ringOk ring
  | .csld ring => ringOk ring
  | .csrd ring => ringOk ring
  | .ild ring => ringOk ring
  | .sld ring => ringOk ring
  | .sprg ring => ringOk ring
  | .chk ring => ringOk ring
  | .wait ring => ringOk ring
  | .descriptorComplete ring => ringOk ring
  | .requestAccepted _ => true
  | .readDataReturn _ _ => true
  | .eccWriteBack unit => decide (unit < 0x40000000000)
  | .arbiterGrant arb => arbOk arb
  | .arbiterPreempt arb => arbOk arb
  | .clear _ arb => arbOk arb
  | .arbPrio _ arb req _ => arbOk arb && decide (req < 134)
  | .edgeXsCfg _ engine n _ => decide (engine < 64) && decide (n < 32)
  | .init _ ring => ringOk ring
  | .enable _ ring _ => ringOk ring
  | .resume _ ring => ringOk ring
  | .retry _ ring => ringOk ring
  | .skip _ ring => ringOk ring
  | .reset _ ring => ringOk ring
  | .resettingComplete ring => ringOk ring
  | .springCommandAccept spring => springOk spring
  | .gacc spring => springOk spring
  | .adam spring => springOk spring
  | .mom spring => springOk spring
  | .cast spring => springOk spring
  | .lrinit spring => springOk spring
  | .lrp spring => springOk spring
  | .lrorth spring => springOk spring
  | .lrq spring => springOk spring
  | .lrres spring => springOk spring
  | .gath spring => springOk spring
  | .snap spring => springOk spring
  | .springCommandComplete spring _ => springOk spring
  | .springResume _ spring => springOk spring
  | .dropC _ spring => springOk spring
  | .dropM _ spring => springOk spring
  | .codewordTransmit link => linkOk link
  | .codewordReceive link cw _ => linkOk link && codewordOk cw
  | .controlFlitReceive link => linkOk link
  | .write link => linkOk link
  | .read link => linkOk link
  | .resp link => linkOk link
  | .inc link => linkOk link
  | .ack link => linkOk link
  | .unreach link => linkOk link
  | .blockLockTimeout link => linkOk link
  | .linkRtoExpiry _ => true
  | .linkTrainingComplete link _ pdev plink => linkOk link && decide (pdev < 2048) && decide (plink < 36)
  | .linkCtlEnable _ link _ => linkOk link
  | .retrain _ link => linkOk link
  | .chainTimeSend => true
  | .time _ _ p => freqOk p.freq
  | .frame _ _ _ => true
  | .alarm _ _ => true
  | .probeSend _ _ => true
  | .probe _ _ _ => true
  | .echo _ _ _ => true
  | .chainLockLoss _ => true
  | .chainAlarmTx _ _ => true
  | .bypassOpen => true
  | .frameStart => true
  | .lineEvent n => decide (n < 16)
  | .referenceMeasurement m => freqOk m.freq
  | .referenceLoss => true
  | .holdoverExpiry => true
  | .ppsEdge _ m => freqOk m.freq
  | .ptpEventMessage _ fr => frameOk fr
  | .timeSet _ _ => true
  | .timeCfg _ _ => true
  | .timeFmt _ _ => true
  | .timeNow _ => true
  | .timePlogBase _ _ => true
  | .phaseLogEntryWrite k => ctxOk k
  | .sliceStart => true
  | .deadlineLineBegin => true
  | .quietWindowStart => true
  | .recalibrationComplete u _ => recalOk u
  | .qwStarved u => recalOk u
  | .svcMarginMinClr _ _ => true
  | .resetNRise _ => true
  | .resetNFall => true
  | .inputPowerFail => true
  | .powerUp _ => true
  | .sysclkFault => true
  | .copyCheckComplete _ => true
  | .heartbeatSend _ => true
  | .heartbeatReceive _ _ => true
  | .silent _ => true
  | .lost _ => true
  | .handover _ => true
  | .recoveryImageWrite _ _ => true
  | .mgmtFrameReceive _ fr _ => frameOk fr
  | .mgmtBlockLockTimeout _ => true
  | .clusterAccess _ _ _ size _ => sizeOk size
  | .readyBitRise f => fnOk f
  | .thawDeadlineExpiry f => fnOk f
  | .clusterMachineCheck _ _ => true
  | .fieldSelfTest _ field => decide (field < 64)
  | .stackRecalibration _ stack => decide (stack < 64)
  | .lakeChannelRecalibration _ channel => decide (channel < 64)
  | .linkRecalibration _ link => decide (link < 64)
  | .selfTestComplete field _ => decide (field < 4)
  | .ctrlPart _ _ => true
  | .secFloor _ _ => true
  | .revoke _ _ => true
  | .extend _ _ => true
  | .attestationStart _ _ => true
  | .attestationComplete _ => true
  | .chkDescriptorRun chkUnit => decide (chkUnit < 16)
  | .chkResult chkUnit => decide (chkUnit < 16)
  | .fltQidx _ _ => true
  | .fltCtlEnter _ => true
  | .devreset _ => true
  | .frostEntry => true
  | .frostQuiet => true
  | .thermalSample p => sampleOk p
  | .railStep => true
  | .spreadLiftStep => true
  | .spreadTimeout => true
  | .adjacentRailTimeout => true
  | .railOffSetpointTimeout field => decide (field < 4)
  | .fixedRailTimeout rail => decide (rail < 13)
  | .inputRangeTimeout => true
  | .registerRead _ addr size => regAddrOk addr && sizeOk size
  | .recalibrationDue u => recalOk u
  | .sysclkGood => true
  | .chainLockRegained _ => true
  | .boundaryScan _ _ => true

end Sys2Proof
end

