-- ==== Sys2Proof/Safety.lean ====
section
/-! DEFINITION. What counts as a safe run: the terms in which claims are stated. -/

namespace Sys2Proof.Machine

open Sys2Proof

/-- A step goes on. -/
def goesOn (o : Host.Outcome State Fault Refusal) : Bool :=
  match o with
  | .next _ => true
  | .fault _ => false
  | .refused _ => false

/-- Memory stands in its canonical form: HBM, the lake and the core stores, and the private space of each cluster. -/
def State.memOk (s : State) : Bool := Memory.wf s.mem && s.clusters.all fun c => Memory.wf c.priv

/-- No command waits that is not well formed. -/
def State.queueOk (s : State) : Bool := s.pending.all Instr.wf

/-- Word w stands, without an error mark, where the context k will issue next, and k may issue (R41, R67, R145, R170). -/
def issues (s : State) (k : CtxAt) (w : Word) : Prop :=
  canIssue s k = true ∧ SMap.get? s.imarks (imemKey k.core (s.ctx k).pc) = none ∧ fetchWord s k.core (s.ctx k).pc = w

/-- A state as a command finds it whose records are put in the order of their classes: none gathered yet (R401). -/
def gathering (s : State) : State := { s with faults := { s.faults with batch := some [] } }

/-- A tile instruction o of context k has entered the queue (R51, R53, R55): behind those queued, the tiles that it writes and the
accumulators that it uses marked in use. -/
def queued (s : State) (k : CtxAt) (o : TileOp) (accs : List Nat) : State :=
  s.setCtx k { s.ctx k with
    seq := (s.ctx k).seq + 1
    pc := pcAdd (s.ctx k).pc 1
    queue := (s.ctx k).queue.map (supersede accs) ++ [o]
    tinuse := setTiles (s.ctx k).tinuse (opWrites o.opc)
    accinuse := setAccs (s.ctx k).accinuse accs }

/-- A tile instruction as it enters: nothing done, with what R42 and R62 have it capture at issue. -/
def asIssued (c : Context) (o : TileOp) (opc : TileOpc) (rows : Nat) (cfg : BitVec 32) : Prop :=
  o.opc = opc ∧ o.rows = rows ∧ o.cfg0 = cfg ∧ o.fc = c.fc ∧ o.seq = c.seq ∧ o.pc = c.pc ∧ o.started = false ∧ o.row = 0

/-- An engine of spring n works on command c in state u: the command it runs, or the one that it starts next (R267). -/
def engineOn (s : State) (n : Nat) (moves : Bool) (c : SpringCmd) (u : State) : Prop :=
  springWorks s n = true ∧ c.finished = false ∧ snapshotsPassed (s.spring n) c = true ∧
    ((s.spring n).running moves = some c ∧ u = s ∨
      (s.spring n).running moves = none ∧ (s.spring n).trapped = false ∧ (s.spring n).held = false ∧
        nextCmd (s.spring n) moves = some c ∧ u = s.setSpring n ((s.spring n).setEngine moves (some c.no)))

/-- n steps from a state, as long as each goes on. -/
def run : Nat → State → Host.Outcome State Fault Refusal
  | 0, s => .next s
  | n + 1, s =>
    match step s with
    | .next t => run n t
    | .fault e => .fault e
    | .refused e => .refused e

end Sys2Proof.Machine
end

