-- ==== Sys2Proof/Certificates/Slice0/Obligations.lean ====
section
/-! DEFINITION. The statements for the provers. Each formalises rules of spec/ or, where its docstring says so, a choice of the
model. -/

open Sys2Proof Sys2Proof.Machine

/-! ### Scalar and control instructions (R152) -/

/-- R152: each register-register operation writes its result into sD and goes on to the next index. -/
def Obligations.ScalarRegisterOperations : Prop :=
  ∀ (k : CtxAt) (d a b : BitVec 5) (s : State) (x y : Word), (s.ctx k).s a = x → (s.ctx k).s b = y →
    (issues s k (encR 0x02 0x00 d a b 0 0) → exec (.add k d a b) s = .next (writeS s k d (x + y))) ∧
    (issues s k (encR 0x02 0x01 d a b 0 0) → exec (.sub k d a b) s = .next (writeS s k d (x - y))) ∧
    (issues s k (encR 0x02 0x02 d a b 0 0) → exec (.and k d a b) s = .next (writeS s k d (x &&& y))) ∧
    (issues s k (encR 0x02 0x03 d a b 0 0) → exec (.or k d a b) s = .next (writeS s k d (x ||| y))) ∧
    (issues s k (encR 0x02 0x04 d a b 0 0) → exec (.xor k d a b) s = .next (writeS s k d (x ^^^ y))) ∧
    (issues s k (encR 0x02 0x05 d a b 0 0) →
      exec (.sll k d a b) s = .next (writeS s k d (BitVec.ofNat 64 (x.toNat * 2 ^ (y.toNat % 64))))) ∧
    (issues s k (encR 0x02 0x06 d a b 0 0) →
      exec (.srl k d a b) s = .next (writeS s k d (BitVec.ofNat 64 (x.toNat / 2 ^ (y.toNat % 64))))) ∧
    (issues s k (encR 0x02 0x07 d a b 0 0) →
      exec (.sra k d a b) s = .next (writeS s k d (BitVec.ofInt 64 (x.toInt / 2 ^ (y.toNat % 64))))) ∧
    (issues s k (encR 0x02 0x08 d a b 0 0) →
      exec (.slt k d a b) s = .next (writeS s k d (if x.toInt < y.toInt then 1 else 0))) ∧
    (issues s k (encR 0x02 0x09 d a b 0 0) →
      exec (.sltu k d a b) s = .next (writeS s k d (if x.toNat < y.toNat then 1 else 0))) ∧
    (issues s k (encR 0x02 0x0A d a b 0 0) →
      exec (.min k d a b) s = .next (writeS s k d (if x.toInt ≤ y.toInt then x else y))) ∧
    (issues s k (encR 0x02 0x0B d a b 0 0) →
      exec (.max k d a b) s = .next (writeS s k d (if x.toInt ≤ y.toInt then y else x))) ∧
    (issues s k (encR 0x02 0x0C d a b 0 0) →
      exec (.minu k d a b) s = .next (writeS s k d (if x.toNat ≤ y.toNat then x else y))) ∧
    (issues s k (encR 0x02 0x0D d a b 0 0) →
      exec (.maxu k d a b) s = .next (writeS s k d (if x.toNat ≤ y.toNat then y else x))) ∧
    (issues s k (encR 0x03 0x00 d a b 0 0) →
      exec (.mul k d a b) s = .next (writeS s k d (BitVec.ofNat 64 (x.toNat * y.toNat)))) ∧
    (issues s k (encR 0x03 0x01 d a b 0 0) →
      exec (.mulh k d a b) s = .next (writeS s k d (BitVec.ofInt 64 (x.toInt * y.toInt / 2 ^ 64)))) ∧
    (issues s k (encR 0x03 0x02 d a b 0 0) →
      exec (.mulhu k d a b) s = .next (writeS s k d (BitVec.ofNat 64 (x.toNat * y.toNat / 2 ^ 64))))

/-- R152: the operations with an immediate, the loads of constants and the reads of the machine; nop only goes on. -/
def Obligations.ScalarImmediateOperations : Prop :=
  ∀ (k : CtxAt) (d a : BitVec 5) (i : BitVec 28) (imm : BitVec 32) (s : State) (x : Word), (s.ctx k).s a = x →
    (issues s k (encR 0x01 0 0 0 0 0 0) → exec (.nop k) s = .next (advance s k)) ∧
    (issues s k (encR 0x04 0 d a 0 0 i) → exec (.addi k d a i) s = .next (writeS s k d (BitVec.ofInt 64 (x.toInt + i.toInt)))) ∧
    (issues s k (encR 0x04 1 d a 0 0 i) → exec (.andi k d a i) s = .next (writeS s k d (x &&& i.signExtend 64))) ∧
    (issues s k (encR 0x04 2 d a 0 0 i) → exec (.ori k d a i) s = .next (writeS s k d (x ||| i.signExtend 64))) ∧
    (issues s k (encR 0x04 3 d a 0 0 i) → exec (.xori k d a i) s = .next (writeS s k d (x ^^^ i.signExtend 64))) ∧
    (issues s k (encR 0x04 4 d a 0 0 i) →
      exec (.slti k d a i) s = .next (writeS s k d (if x.toInt < i.toInt then 1 else 0))) ∧
    (i.toNat < 64 → issues s k (encR 0x04 5 d a 0 0 i) →
      exec (.slli k d a i) s = .next (writeS s k d (BitVec.ofNat 64 (x.toNat * 2 ^ i.toNat)))) ∧
    (i.toNat < 64 → issues s k (encR 0x04 6 d a 0 0 i) →
      exec (.srli k d a i) s = .next (writeS s k d (BitVec.ofNat 64 (x.toNat / 2 ^ i.toNat)))) ∧
    (i.toNat < 64 → issues s k (encR 0x04 7 d a 0 0 i) →
      exec (.srai k d a i) s = .next (writeS s k d (BitVec.ofInt 64 (x.toInt / 2 ^ i.toNat)))) ∧
    (issues s k (encL 0x05 0 d imm) → exec (.li k d imm) s = .next (writeS s k d (BitVec.ofInt 64 imm.toInt))) ∧
    (issues s k (encL 0x05 1 d imm) →
      exec (.lih k d imm) s = .next (writeS s k d (BitVec.ofNat 64 (imm.toNat * 2 ^ 32 + ((s.ctx k).s d).toNat % 2 ^ 32)))) ∧
    (issues s k (encR 0x0C 0 d 0 0 0 0) → exec (.rdtime k d) s = .next (writeS s k d s.time.ns)) ∧
    (issues s k (encR 0x0C 1 d 0 0 0 0) →
      exec (.rdline k d) s = .next (writeS s k d (BitVec.ofNat 64 (s.time.frame.toNat * 2 ^ 16 + s.time.line.toNat)))) ∧
    (issues s k (encR 0x0C 2 d 0 0 0 0) → exec (.rdid k d) s = .next (writeS s k d (coreIdWord k.core)))

/-- R150 and R152: a load of a size whose bytes lie in the store at a multiple of the size, with no tile instruction of the context
using the store and no error mark on the word, writes the bytes, sign- or zero-extended; a store writes its bytes and, of all
memory, nothing else. -/
def Obligations.ScalarLoadsAndStores : Prop :=
  ∀ (k : CtxAt) (sz : MemSize) (d a b : BitVec 5) (i : BitVec 28) (s : State) (off : Nat),
    effOffset (s.ctx k) a i = BitVec.ofNat 64 off → off + sizeBytes sz ≤ storeSize → off % sizeBytes sz = 0 →
    storeClear (s.ctx k) = true → SMap.get? s.marks (storeAddr k.core (8 * (off / 8))) = none →
    (issues s k (encR 0x06 (sizeCode sz) d a 0 0 i) →
      exec (.ld k sz d a i) s =
        .next (writeS s k d (BitVec.ofInt 64 (sextInt (8 * sizeBytes sz) (s.memNat (storeAddr k.core off) (sizeBytes sz)))))) ∧
    (sz ≠ .d → issues s k (encR 0x06 (4 + sizeCode sz) d a 0 0 i) →
      exec (.ldu k sz d a i) s = .next (writeS s k d (BitVec.ofNat 64 (s.memNat (storeAddr k.core off) (sizeBytes sz))))) ∧
    (issues s k (encR 0x07 (sizeCode sz) 0 a b 0 i) →
      ∃ m, exec (.st k sz a b i) s = .next (({ s with
            mem := m
            marks := clearMarks s.marks (storeAddr k.core off) (sizeBytes sz) } : State).setCtx k
          { s.ctx k with pc := pcAdd (s.ctx k).pc 1 }) ∧
        ∀ x, Memory.read m x =
          if storeAddr k.core off ≤ x ∧ x < storeAddr k.core off + sizeBytes sz then
            BitVec.ofNat 8 (((s.ctx k).s b).toNat / 256 ^ (x - storeAddr k.core off))
          else Memory.read s.mem x)


/-- R146 and R152: the branches and jumps. A target is the instruction's own index plus X, modulo 8,192. R68 and R153: end makes a
context DISABLED with its tile and weight state clear once nothing of it is queued or held, and else stops its issue; ev.wait takes
the oldest pending event, and with none puts F in EVWAIT with its work clear and gives the core to B. -/
def Obligations.ControlFlow : Prop :=
  (∀ (k : CtxAt) (d a b : BitVec 5) (i : BitVec 28) (s : State) (c : Context) (x y : Word),
     s.ctx k = c → c.s a = x → c.s b = y →
     let taken (p : Prop) [Decidable p] : Host.Outcome State Fault Refusal :=
       .next (s.setCtx k { c with pc := if p then pcAdd c.pc i.toInt else pcAdd c.pc 1 })
     (issues s k (encR 0x08 0 0 a b 0 i) → exec (.beq k a b i) s = taken (x = y)) ∧
     (issues s k (encR 0x08 1 0 a b 0 i) → exec (.bne k a b i) s = taken (x ≠ y)) ∧
     (issues s k (encR 0x08 2 0 a b 0 i) → exec (.blt k a b i) s = taken (x.toInt < y.toInt)) ∧
     (issues s k (encR 0x08 3 0 a b 0 i) → exec (.bge k a b i) s = taken (y.toInt ≤ x.toInt)) ∧
     (issues s k (encR 0x08 4 0 a b 0 i) → exec (.bltu k a b i) s = taken (x.toNat < y.toNat)) ∧
     (issues s k (encR 0x08 5 0 a b 0 i) → exec (.bgeu k a b i) s = taken (y.toNat ≤ x.toNat)) ∧
     (issues s k (encR 0x09 0 d 0 0 0 i) →
       exec (.bdnz k d i) s = .next (s.setCtx k
         { (c.setS d (c.s d - 1)) with pc := if c.s d = 1 then pcAdd c.pc 1 else pcAdd c.pc i.toInt })) ∧
     (issues s k (encR 0x0A 0 d 0 0 0 i) →
       exec (.jal k d i) s = .next (s.setCtx k
         { (c.setS d (BitVec.ofNat 64 (c.pc + 1))) with pc := pcAdd c.pc i.toInt })) ∧
     (issues s k (encR 0x0B 0 d a 0 0 0) →
       exec (.jr k d a) s = .next (s.setCtx k
         { (c.setS d (BitVec.ofNat 64 (c.pc + 1))) with pc := x.toNat % 8192 }))) ∧
  (∀ (k : CtxAt) (d : BitVec 5) (s : State) (c : Context), s.ctx k = c →
     (issues s k (encR 0x0D 0 0 0 0 0 0) → c.queue = [] → c.releases = [] →
       ∃ t, exec (.endCtx k) s = .next t ∧
         t.ctx k = { c with pc := pcAdd c.pc 1, state := .disabled, hold := .none, tinuse := 0, accinuse := 0, tstart := 0,
                            latch := none, shadow := none } ∧
         (∀ q, q ≠ k → t.ctx q = s.ctx q) ∧ (t.core k.core).active = .B ∧ { t with cores := s.cores } = s) ∧
     (issues s k (encR 0x0D 0 0 0 0 0 0) → (c.queue ≠ [] ∨ c.releases ≠ []) →
       exec (.endCtx k) s = .next (s.setCtx k { c with hold := .ending, pc := pcAdd c.pc 1 })) ∧
     (k.ctx = .F → issues s k (encR 0x0E 0 d 0 0 0 0) → c.queue = [] →
       (∀ e es, (s.core k.core).events = e :: es →
         ∃ t, exec (.evWait k d) s = .next t ∧ t.ctx k = { (c.setS d (BitVec.ofNat 64 e)) with pc := pcAdd c.pc 1 } ∧
           { t.core k.core with f := c } = { s.core k.core with events := es } ∧ { t with cores := s.cores } = s) ∧
       ((s.core k.core).events = [] →
         ∃ t, exec (.evWait k d) s = .next t ∧
           t.ctx k = { c with pc := pcAdd c.pc 1, state := .evwait, tinuse := 0, accinuse := 0, latch := none, shadow := none } ∧
           (t.core k.core).active = .B ∧ (t.core k.core).fDst = d ∧ { t with cores := s.cores } = s)))
/-! ### Vector instructions (R154 to R156) -/

/-- R121, R130, R133 to R136 and R154: the lane operations write, lane by lane, the rounded results of their operands with the
flags those raise (`writeVec`, whose whole effect InstructionFrames states). -/
def Obligations.VectorLaneOperations : Prop :=
  ∀ (k : CtxAt) (w : BitVec 2) (d a b c : BitVec 5) (s : State) (xa xb xc : List Nat),
    w ≠ 3 → lanes w ((s.ctx k).v a) = xa → lanes w ((s.ctx k).v b) = xb → lanes w ((s.ctx k).v c) = xc →
    vReady (s.ctx k) [d, a, b, c] = true →
    let f := laneFmt w
    let two (code : Nat) (i : Instr) (g : Nat → Nat → Nat × NFlags) : Prop :=
      issues s k (encR 0x24 (4 * code + w.toNat) d a b 0 0) → exec i s = .next (writeVec k 0x24 w d (List.zipWith g xa xb) s)
    let one (code : Nat) (i : Instr) : Prop :=
      issues s k (encR 0x29 (4 * code + w.toNat) d a 0 0 0) → exec i s = .next (writeVec k 0x29 w d (xa.map (transc f code)) s)
    two 0 (.vadd k w d a b) f.addBits ∧ two 1 (.vsub k w d a b) f.subBits ∧ two 2 (.vmul k w d a b) f.mulBits ∧
    two 3 (.vmin k w d a b) (f.minMax false) ∧ two 4 (.vmax k w d a b) (f.minMax true) ∧
    one 0 (.vexp k w d a) ∧ one 1 (.vlog2 k w d a) ∧ one 2 (.vrsqrt k w d a) ∧ one 3 (.vtanh k w d a) ∧
    (issues s k (encR 0x25 w.toNat d a b c 0) →
      exec (.vfma k w d a b c) s =
        .next (writeVec k 0x25 w d ((xa.zip (xb.zip xc)).map fun p => f.fmaBits p.1 p.2.1 p.2.2) s)) ∧
    (issues s k (encR 0x26 w.toNat d a 0 0 0) →
      exec (.vsum k w d a) s =
        .next (writeVec k 0x26 0 d (treeSum (sumLanes w ((s.ctx k).v a)) :: List.replicate 47 (0, 0)) s))

/-- R42 and R152: what a scalar instruction with at most one destination register leaves as it was, whatever comes of its issue:
every other register of its context, every other context, all tile state, memory, counters, rings and units. The second of each
pair is the destination register, 0 where there is none. An illegal word or an error of the fetched word adds a fault record, a
count and the context's way to FAULTED; the result statements say when neither happens. R137, R138 and R154: what a vector result
leaves: its register, the program counter and the context's vector flags, which gain those of all lanes; with a NaN in a lane and
the context's trap enabled, also the trap, and the context on its way to FAULTED at the first instruction not issued. Nothing else
changes. -/
def Obligations.InstructionFrames : Prop :=
  (∀ (k : CtxAt) (d a b : BitVec 5) (i : BitVec 28) (imm : BitVec 32) (s t : State),
     ∀ p ∈ [((.nop k : Instr), (0 : BitVec 5)), (.add k d a b, d), (.sub k d a b, d), (.and k d a b, d), (.or k d a b, d),
         (.xor k d a b, d), (.sll k d a b, d), (.srl k d a b, d), (.sra k d a b, d), (.slt k d a b, d), (.sltu k d a b, d),
         (.min k d a b, d), (.max k d a b, d), (.minu k d a b, d), (.maxu k d a b, d), (.mul k d a b, d), (.mulh k d a b, d),
         (.mulhu k d a b, d), (.addi k d a i, d), (.andi k d a i, d), (.ori k d a i, d), (.xori k d a i, d),
         (.slti k d a i, d), (.slli k d a i, d), (.srli k d a i, d), (.srai k d a i, d), (.li k d imm, d), (.lih k d imm, d),
         (.rdtime k d, d), (.rdline k d, d), (.rdid k d, d), (.beq k a b i, 0), (.bne k a b i, 0), (.blt k a b i, 0),
         (.bge k a b i, 0), (.bltu k a b i, 0), (.bgeu k a b i, 0), (.bdnz k d i, d), (.jal k d i, d), (.jr k d a, d)],
       exec p.1 s = .next t →
         (∀ n, n ≠ p.2 → (t.ctx k).s n = (s.ctx k).s n) ∧
         { t.ctx k with sregs := (s.ctx k).sregs, pc := (s.ctx k).pc, hold := (s.ctx k).hold } = s.ctx k ∧
         (∀ q, q ≠ k → t.ctx q = s.ctx q) ∧
         (∀ c, { t.core c with f := (s.core c).f, b := (s.core c).b } = s.core c) ∧
         { t with cores := s.cores, faults := s.faults, regs := s.regs, imarks := s.imarks, free := s.free } = s) ∧
  (∀ (k : CtxAt) (op : Nat) (w : BitVec 2) (d : BitVec 5) (rs : List (Nat × NFlags)) (s t u : State) (r : Word),
     writeVec k op w d rs s = t → s.reg (.numCoreFlags k.core) = r →
     s.setCtx k { ((s.ctx k).setV d (ofLanes w (rs.map (·.1)))) with pc := pcAdd (s.ctx k).pc 1 } = u →
     let lo := (if k.ctx = .F then 0 else 8) + 4
     let v := u.setReg (.numCoreFlags k.core) (Word.put r lo 4 (Word.fld r lo 4 ||| (orFlags rs).toNat))
     let trapped := rs.any fun r => (laneFmt w).isNanBits r.1
     ((trapped && trapOn v (ctxTrapBit k.ctx)) = false → t = v) ∧
     ((s.ctx k).hold = .none → (trapped && trapOn v (ctxTrapBit k.ctx)) = true →
       t.ctx k = { u.ctx k with hold := .faulting (u.ctx k).pc } ∧ t.mem = s.mem ∧
         t.faults.seq = s.faults.seq + 1 ∧ t.regBit .numNanrec0 63 = true))

/-- R154: the moves, the operations on bits and the comparisons, which trap nothing. A comparison sets its lanes to all ones or all
zeros. -/
def Obligations.VectorBitOperations : Prop :=
  ∀ (k : CtxAt) (w : BitVec 2) (d a b c : BitVec 5) (x : BitVec 28) (s : State) (y : Context), s.ctx k = y → w ≠ 3 →
    vReady y [d, a, b, c] = true →
    let wrote (i : Instr) (v : BitVec 1536 → Prop) : Prop :=
      ∃ r, v r ∧ exec i s = .next (s.setCtx k { (y.setV d r) with pc := pcAdd y.pc 1 })
    let compared (code : Nat) (i : Instr) : Prop :=
      issues s k (encR 0x27 (4 * code + w.toNat) d a b 0 0) →
        ∃ t, exec i s = .next t ∧ (t.ctx k).pc = pcAdd y.pc 1 ∧ (t.ctx k).hold = .none ∧
          lanes w ((t.ctx k).v d) =
            List.zipWith (fun p q => if ((laneFmt w).compare code p q).1 then (if w = 0 then 2 ^ 32 - 1 else 2 ^ 16 - 1) else 0)
              (lanes w (y.v a)) (lanes w (y.v b)) ∧
          (∀ n, n ≠ d → (t.ctx k).v n = y.v n) ∧ t.mem = s.mem ∧ t.faults = s.faults
    (issues s k (encR 0x22 w.toNat d a 0 0 0) →
      wrote (.vbcast k w d a) fun r => lanes w r = List.replicate (if w = 0 then 48 else 96)
        ((y.s a).toNat % (if w = 0 then 2 ^ 32 else 2 ^ 16))) ∧
    (x.toNat < 48 → issues s k (encR 0x23 0 d a 0 0 x) →
      exec (.vget k d a x) s = .next (writeS s k d (BitVec.ofNat 64 ((lanes 0 (y.v a)).getD x.toNat 0)))) ∧
    (issues s k (encR 0x24 (20 + w.toNat) d a 0 0 0) →
      wrote (.vneg k w d a) fun r => lanes w r = (lanes w (y.v a)).map fun v => v ^^^ signBit w) ∧
    (issues s k (encR 0x24 (24 + w.toNat) d a 0 0 0) →
      wrote (.vabs k w d a) fun r => lanes w r = (lanes w (y.v a)).map fun v => v % signBit w) ∧
    (issues s k (encR 0x28 0 d a b 0 0) → wrote (.vand k d a b) fun r => r = y.v a &&& y.v b) ∧
    (issues s k (encR 0x28 4 d a b 0 0) → wrote (.vor k d a b) fun r => r = y.v a ||| y.v b) ∧
    (issues s k (encR 0x28 8 d a b 0 0) → wrote (.vxor k d a b) fun r => r = y.v a ^^^ y.v b) ∧
    (issues s k (encR 0x28 12 d a b c 0) → wrote (.vsel k d a b c) fun r => r = (y.v a &&& y.v c) ||| (y.v b &&& ~~~y.v c)) ∧
    compared 0 (.vcmpGt k w d a b) ∧ compared 1 (.vcmpGe k w d a b) ∧ compared 2 (.vcmpEq k w d a b)

/-- R154 and R155: the vector load and store move 192 bytes at a multiple of 64, lowest byte first; a conversion that R155 lists
writes its result and, for a pair, the register after it, and sets its flags. -/
def Obligations.VectorMemoryAndConversions : Prop :=
  ∀ (k : CtxAt) (mode : BitVec 2) (d a b c : BitVec 5) (x : BitVec 28) (s : State) (y : Context) (off : Nat),
    s.ctx k = y →
    (effOffset y a x = BitVec.ofNat 64 off → off + 192 ≤ storeSize → off % 64 = 0 → storeClear y = true →
      vReady y [d, b] = true → (∀ n, n < 24 → SMap.get? s.marks (storeAddr k.core (off + 8 * n)) = none) →
      (issues s k (encR 0x20 0 d a 0 0 x) →
        exec (.vld k d a x) s =
          .next (s.setCtx k { (y.setV d (BitVec.ofNat 1536 (s.memNat (storeAddr k.core off) 192))) with pc := pcAdd y.pc 1 })) ∧
      (issues s k (encR 0x21 0 0 a b 0 x) →
        ∃ m, exec (.vst k a b x) s = .next (({ s with
              mem := m
              marks := clearMarks s.marks (storeAddr k.core off) 192 } : State).setCtx k { y with pc := pcAdd y.pc 1 }) ∧
          ∀ n, Memory.read m n =
            if storeAddr k.core off ≤ n ∧ n < storeAddr k.core off + 192 then
              BitVec.ofNat 8 ((y.v b).toNat / 256 ^ (n - storeAddr k.core off))
            else Memory.read s.mem n)) ∧
    (let cv := cvtOf mode.toNat x.toNat
     let r := cvtRun cv (y.s b) (y.s c) (y.v a).toNat (y.v (a + 1)).toNat (y.v d).toNat
     let e := s.reg (.numCoreFlags k.core)
     let lo := (if k.ctx = .F then 0 else 8) + 4
     issues s k (encR 0x2A mode.toNat d a b c x) → cvtCause (encR 0x2A mode.toNat d a b c x) = none →
      vReady y (cvtRegs cv d a) = true → (r.nan && trapOn s (ctxTrapBit k.ctx)) = false →
        exec (.vcvt k mode d a b c x) s =
          .next ((s.setCtx k { ((match r.hi with
              | some h => y.setV (d + 1) h
              | none => y).setV d r.lo) with pc := pcAdd y.pc 1 }).setReg (.numCoreFlags k.core)
            (Word.put e lo 4 (Word.fld e lo 4 ||| r.flags.toNat))))

/-! ### Tile instructions (R47 to R65, R157 to R164) -/

/-- R53, R55, R57, R62, R63 and R100: the instructions that no pipe takes. tcfg waits for the context's queue and then writes its
entries; tfree clears TINUSE bits, or faults with cause 9 where its mask names a weight source; tclr clears ACCINUSE bits; fcfg,
with no twl under way, takes the configuration that its 256 bytes spell. -/
def Obligations.TileConfigurationInstructions : Prop :=
  ∀ (k : CtxAt) (pair : Bool) (d a : BitVec 5) (x : BitVec 28) (accs : BitVec 2) (s : State) (c : Context), s.ctx k = c →
    (issues s k (encR 0x40 pair.toNat d a 0 0 0) → d.toNat < 16 → (pair = true → d.toNat % 2 = 0) → c.queue = [] →
      ((c.s a).truncate 32 : BitVec 32) &&& ~~~cfgMask = 0 →
      (pair = true → ((c.s a >>> 32).truncate 32 : BitVec 32) &&& ~~~cfgMask = 0) →
        ∃ t, exec (.tcfg k pair d a) s = .next t ∧ (t.ctx k).cfg d.toNat = (c.s a).truncate 32 ∧
          (pair = true → (t.ctx k).cfg (d.toNat + 1) = (c.s a >>> 32).truncate 32) ∧
          (∀ n, n ≠ d.toNat → (pair = true → n ≠ d.toNat + 1) → (t.ctx k).cfg n = c.cfg n) ∧
          { t.ctx k with tcfg := c.tcfg } = { c with pc := pcAdd c.pc 1 } ∧ (t.core k.core).reuse = none ∧
          { t with cores := s.cores } = s) ∧
    (issues s k (encR 0x40 pair.toNat d a 0 0 0) → d.toNat < 16 → (pair = true → d.toNat % 2 = 0) → c.queue ≠ [] →
      exec (.tcfg k pair d a) s = .next s) ∧
    (issues s k (encR 0x41 0 0 0 0 0 x) → x.toNat < 2 ^ 16 → (∀ n, n < 16 → x.getLsbD n = true → n ∉ c.weightSources) →
      exec (.tfree k x) s = .next (s.setCtx k { c with tinuse := c.tinuse &&& ~~~(x.truncate 16), pc := pcAdd c.pc 1 })) ∧
    (issues s k (encR 0x41 0 0 0 0 0 x) → x.toNat < 2 ^ 16 → (∃ n, n < 16 ∧ x.getLsbD n = true ∧ n ∈ c.weightSources) →
      ∃ t, exec (.tfree k x) s = .next t ∧ t.ctx k = { c with hold := .faulting c.pc } ∧ t.faults.seq = s.faults.seq + 1) ∧
    (issues s k (encR 0x42 accs.toNat 0 0 0 0 0) → accs ≠ 0 →
      exec (.tclr k accs) s = .next (s.setCtx k { c with accinuse := c.accinuse &&& ~~~accs, pc := pcAdd c.pc 1 })) ∧
    (∀ fc, issues s k (encR 0x49 0 0 a 0 0 0) → (c.s a).toNat + 256 ≤ storeSize → (c.s a).toNat % 64 = 0 →
      twlUnderWay c = false →
      (∀ n, n < 32 → SMap.get? s.marks (storeAddr k.core ((c.s a).toNat + 8 * n)) = none) →
      fcfgParse (s.memBytes (storeAddr k.core (c.s a).toNat) 256) = some fc →
        ∃ t, exec (.fcfg k a) s = .next t ∧ t.ctx k = { c with fc := fc, pc := pcAdd c.pc 1 } ∧ { t with cores := s.cores } = s)

/-- R51, R53, R158 to R161 and R65: a tile load, store or drain whose queue has room and whose checks hold (its entry, its bytes
within the store at multiples of 32, a stride that holds a row, its tile or accumulator in use) enters the queue. -/
def Obligations.TileMovesEnterTheQueue : Prop :=
  ∀ (k : CtxAt) (d a b c : BitVec 5) (x : BitVec 28) (acc : Bool) (s : State) (y : Context), s.ctx k = y →
    y.queue.length < 8 →
    let enters (w : Word) (i : Instr) (opc : TileOpc) (rows : Nat) (cfg : BitVec 32) : Prop :=
      issues s k w → illegalCause k w = none → tstartFails y opc rows = [] →
        ∃ o, asIssued y o opc rows cfg ∧ exec i s = .next (queued s k o [])
    let mf := if x.toNat = 15 then cfgFmt (y.cfg d.toNat) else x.toNat
    let e := y.cfg d.toNat
    let g := y.cfg a.toNat
    let loads (tr : Bool) (i : Instr) : Prop :=
      let sh := memShape e tr
      cfgFails e d.toNat = [] → tldPair mf (cfgFmt e) = true → rowBytes mf sh.2 ≤ (y.s b).toNat →
        (tr = true → fmtBlock (cfgFmt e) = false ∧ fmtBlock mf = false) →
        tileStoreFault (y.s a) (y.s b) sh.1 (rowBytes mf sh.2) = none →
          enters (encR 0x44 tr.toNat d a b 0 x) i (.tld d.toNat (y.s a).toNat (y.s b).toNat mf tr) (cfgRows e) e
    let stores (fn : Nat) (kind : StoreKind) (i : Instr) : Prop :=
      let sh := memShape g (decide (kind = .tr))
      cfgFails g a.toNat = [] → (kind = .add → cfgFmt g ≤ 2) → rowBytes (cfgFmt g) sh.2 ≤ (y.s c).toNat →
        y.tileInUse a.toNat = true → (kind = .tr → fmtBlock (cfgFmt g) = false) →
        tileStoreFault (y.s b) (y.s c) sh.1 (rowBytes (cfgFmt g) sh.2) = none →
          enters (encR 0x45 fn 0 a b c 0) i (.tst a.toNat (y.s b).toNat (y.s c).toNat kind) (cfgRows g) g
    let drains (clear : Bool) (i j : Instr) : Prop :=
      y.accInUse acc.toNat = true →
        (192 ≤ (y.s c).toNat → tileStoreFault (y.s b) (y.s c) 48 192 = none →
          enters (encR 0x46 (acc.toNat + 2 * clear.toNat) 0 0 b c 0) i
            (.drain acc clear (.store (y.s b).toNat (y.s c).toNat)) 48 0) ∧
        (d.toNat < 15 → d.toNat % 2 = 0 → (∀ n ∈ [d.toNat, d.toNat + 1],
            cfgFmt (y.cfg n) = 0 ∧ cfgRows (y.cfg n) = 48 ∧ cfgCols (y.cfg n) = 24) →
          enters (encR 0x46 (acc.toNat + 2 * clear.toNat + 4) d 0 0 0 0) j (.drain acc clear (.tiles d.toNat)) 48 e)
    loads false (.tld k d a b x) ∧ loads true (.tldTr k d a b x) ∧
    stores 0 .plain (.tst k a b c) ∧ stores 1 .tr (.tstTr k a b c) ∧ stores 2 .add (.tstAdd k a b c) ∧
    drains false (.tdrain k acc false 0 b c) (.tdrain k acc true d 0 0) ∧
    drains true (.tdrainC k acc false 0 b c) (.tdrainC k acc true d 0 0) ∧
    (y.accInUse acc.toNat = true → 0 < (s.router k.core).hoffRows.getD x.toNat 0 → partitionOf x.toNat = k.ctx →
      enters (encR 0x47 acc.toNat 0 0 0 0 x) (.tdrainF k acc x) (.drain acc false (.handoff x.toNat)) 48 0)

/-- R57, R64, R81, R86, R87, R157 and R162: a load of weights, a product (of an operand in a tile, streamed or broadcast) and the
vector tile moves enter the queue when it has room and their checks hold. A product names its accumulators, which become in use.
-/
def Obligations.WeightsAndProductsEnterTheQueue : Prop :=
  ∀ (k : CtxAt) (pair tr acc : Bool) (form : BitVec 4) (mode : BitVec 2) (d a b c : BitVec 5) (x : BitVec 28) (s : State)
    (y : Context), s.ctx k = y → y.queue.length < 8 →
    let e := y.cfg a.toNat
    (issues s k (encR 0x48 pair.toNat 0 a 0 0 0) → a.toNat < 16 → operandFails y pair a.toNat = [] →
      usedFails y pair a.toNat = [] → (pair = true → pairFails y a.toNat = []) → (cfgFmt e = 6 → y.fc.affine = true) →
      (pair = true → cfgCols e ≤ 24 ∧ cfgCols (y.cfg (a.toNat + 1)) ≤ 24) →
      (cfgFmt e = 6 ∨ cfgFmt e = 7 → cfgCols e ≤ 48 * (wClass (cfgFmt e) y.fc.target).slots) →
        ∃ o, asIssued y o (.twl a.toNat pair) (cfgRows e) e ∧ exec (.twl k pair a) s = .next (queued s k o [])) ∧
    (∀ p v, p = ({ form := form.toNat, transposed := tr, acc := acc, mode := mode.toNat, tile := a.toNat,
                   base := (y.s b).toNat, stride := (y.s c).toNat, mask := fld x.toNat 0 4, member := fld x.toNat 4 2,
                   cj := x.getLsbD 6, half := fld x.toNat 7 1 } : Product) →
      issues s k (encR 0x50 (prodFn form tr acc mode) 0 a b c x) →
      illegalCause k (encR 0x50 (prodFn form tr acc mode) 0 a b c x) = none →
      operandFails y (formPair form.toNat) a.toNat = [] →
      (mode = 0 ∨ (mode = 2 ∧ p.member = pondMember k.core) → usedFails y (formPair form.toNat) a.toNat = []) →
      (mode.toNat % 2 = 1 → rowBytes (cfgFmt e) (cfgCols e) ≤ (y.s c).toNat ∧
        tileStoreFault (y.s b) (y.s c) (cfgRows e) (rowBytes (cfgFmt e) (cfgCols e)) = none) →
      (formPair form.toNat = true → pairFails y a.toNat = []) → formStreams form.toNat (cfgFmt e) = true →
      (tr = true → cfgCols e ≤ 48) → y.weightsAtIssue = some v → wClass (cfgFmt v.cfg0) v.fc.target = formClass form.toNat →
      tstartFails y (.prod p) (cfgRows e) = [] →
        ∃ o, asIssued y o (.prod p) (cfgRows e) e ∧ o.wsrc = v.tiles ∧
          exec (if tr then .tmmat k form acc mode a b c x else .tmma k form acc mode a b c x) s
            = .next (queued s k o (prodAccs p))) ∧
    (∀ row, effOffset y a x = BitVec.ofNat 64 row → row < 48 → vReady y [d, b] = true →
      (issues s k (encR 0x2C 0 d a b 0 x) → b.toNat < 16 → cfgFails (y.cfg b.toNat) b.toNat = [] →
        row < cfgRows (y.cfg b.toNat) → y.tileInUse b.toNat = true →
          ∃ o, asIssued y o (.vtrd d.toNat b.toNat row) 1 (y.cfg b.toNat) ∧ exec (.vtrd k d a b x) s = .next (queued s k o [])) ∧
      (issues s k (encR 0x2D 0 d a b 0 x) → d.toNat < 16 → cfgFails (y.cfg d.toNat) d.toNat = [] →
        row < cfgRows (y.cfg d.toNat) →
          ∃ o, asIssued y o (.vtwr d.toNat row (y.v b)) 1 (y.cfg d.toNat) ∧ exec (.vtwr k d a b x) s = .next (queued s k o [])))

/-- R66, R149 and R151: a context that issues an illegal word takes the illegal-instruction fault of that word, whichever
instruction's command asks it to issue: a record of class 2 with the cause and the word, and the context on its way to FAULTED at
that instruction, nothing else changed. R150 and R151: a scalar or vector access whose bytes reach beyond the store faults with
cause RANGE, and one not aligned to its size (64 bytes for a vector) with cause ALIGN, RANGE taking the place of ALIGN: a record of
class 3 with the word and the offset, nothing written. R64 and R65: a tile instruction whose entry or operands fail a check takes
the tile-shape fault with the lowest cause that fails; it enters no queue and sets no in-use bit. -/
def Obligations.InstructionFaults : Prop :=
  (∀ (k : CtxAt) (d a b c : BitVec 5) (x : BitVec 28) (imm : BitVec 32) (sz : MemSize) (w2 : BitVec 2) (p q : Bool)
     (form : BitVec 4) (w : Word) (cause : Nat) (s : State),
     issues s k w → illegalCause k w = some cause →
     ∀ i ∈ [(.nop k : Instr), .add k d a b, .mulhu k d a b, .addi k d a x, .li k d imm, .lih k d imm, .ld k sz d a x,
         .ldu k sz d a x, .st k sz a b x, .beq k a b x, .bdnz k d x, .jal k d x, .jr k d a, .rdtime k d, .rdline k d, .rdid k d,
         .endCtx k, .evWait k d, .vld k d a x, .vst k a b x, .vbcast k w2 d a, .vget k d a x, .vadd k w2 d a b, .vneg k w2 d a,
         .vfma k w2 d a b c, .vsum k w2 d a, .vcmpGt k w2 d a b, .vand k d a b, .vsel k d a b c, .vexp k w2 d a,
         .vcvt k w2 d a b c x, .vtrd k d a b x, .vtwr k d a b x, .tcfg k p d a, .tfree k x, .tclr k w2, .tld k d a b x,
         .tldTr k d a b x, .tst k a b c, .tstTr k a b c, .tstAdd k a b c, .tdrain k p q d b c, .tdrainC k p q d b c,
         .tdrainF k p x, .twl k p a, .fcfg k a, .tmma k form p w2 a b c x, .tmmat k form p w2 a b c x, .scInc k x, .scIncR k a x,
         .scWait k p d a b x, .scRd k p d x, .rgPost k a x, .phBgn k x, .phEnd k x],
       exec i s = .next ((raiseRec s
         { cls := 2, cause := cause, action := 1, kind := 0, num := k.core, ctx := ctxNum k.ctx, dev := s.dev,
           iaddr := (s.ctx k).pc, addr := 0, d0 := w, d1 := 0, d2 := 0 }).setCtx k
         { s.ctx k with hold := .faulting (s.ctx k).pc })) ∧
  (∀ (k : CtxAt) (sz : MemSize) (d a b : BitVec 5) (x : BitVec 28) (s : State) (off : Nat),
     (effOffset (s.ctx k) a x).toNat = off →
     let faults (w : Word) (n align : Nat) (i : Instr) : Prop :=
       issues s k w → (storeSize < off + n ∨ off % align ≠ 0) →
         exec i s = .next ((raiseRec s
           { cls := 3, cause := if storeSize < off + n then 1 else 2, action := 1, kind := 0, num := k.core, ctx := ctxNum k.ctx,
             dev := s.dev, iaddr := (s.ctx k).pc, addr := off, d0 := w, d1 := 0, d2 := 0 }).setCtx k
           { s.ctx k with hold := .faulting (s.ctx k).pc })
     faults (encR 0x06 (sizeCode sz) d a 0 0 x) (sizeBytes sz) (sizeBytes sz) (.ld k sz d a x) ∧
     (sz ≠ .d → faults (encR 0x06 (4 + sizeCode sz) d a 0 0 x) (sizeBytes sz) (sizeBytes sz) (.ldu k sz d a x)) ∧
     faults (encR 0x07 (sizeCode sz) 0 a b 0 x) (sizeBytes sz) (sizeBytes sz) (.st k sz a b x) ∧
     (vReady (s.ctx k) [d] = true → faults (encR 0x20 0 d a 0 0 x) 192 64 (.vld k d a x)) ∧
     (vReady (s.ctx k) [b] = true → faults (encR 0x21 0 0 a b 0 x) 192 64 (.vst k a b x))) ∧
  (∀ (k : CtxAt) (a b c : BitVec 5) (s : State) (y : Context) (f : Fail), s.ctx k = y → y.queue.length < 8 → a.toNat < 16 →
     issues s k (encR 0x45 0 0 a b c 0) →
     let e := y.cfg a.toNat
     let n := rowBytes (cfgFmt e) (cfgCols e)
     tileStoreFault (y.s b) (y.s c) (cfgRows e) n = none →
     lowest (cfgFails e a.toNat ++ failIf ((y.s c).toNat < n) 4 a.toNat ++ failIf (!y.tileInUse a.toNat) 5 a.toNat) = some f →
       exec (.tst k a b c) s = .next ((raiseRec s
         { cls := 1, cause := f.1, action := 1, kind := 0, num := k.core, ctx := ctxNum k.ctx, dev := s.dev, iaddr := y.pc,
           addr := 0, d0 := BitVec.ofNat 64 f.2, d1 := y.tstart.zeroExtend 64, d2 := 0 }).setCtx k
         { y with hold := .faulting y.pc }))
/-! ### The pipes and contexts of a core (R51 to R78, R438) -/

/-- R58 and R96: a row group of an operation that is no broadcast begins once its rows are free and what it reads, of the core store
or through the feeders, holds no uncorrectable word; as it completes, its operation stands at the row after the group's last. R55 and R164: a tile
instruction whose rows are all done leaves the queue, and a tdrain.c that no later instruction supersedes clears its accumulator's
ACCINUSE bit. -/
def Obligations.RowGroupsAndCompletion : Prop :=
  (∀ (k : CtxAt) (st : Stage) (s u : State) (o : TileOp), (s.ctx k).running st = some o → o.broadcast = none →
     (groupReady s k o = true → (groupFault s k o).1 = u → (groupFault s k o).2.isNone = true →
       ∃ t, exec (.rowGroupBegin k st) s = .next t ∧ t.ctx k = (u.ctx k).putOp { o with inGroup := true } ∧ t.mem = s.mem ∧
         t.faults = s.faults ∧ t.counters = s.counters ∧ ∀ q, q ≠ k → t.ctx q = s.ctx q) ∧
     (groupReady s k o = true → (∀ n ∈ (s.core k.core).badParity, n ∉ groupUnits (s.core k.core) k o) → (∀ p, o.opc ≠ .prod p) →
       readAll k.core (groupReads o o.group.1 o.group.2) s = (u, none) → (groupFault s k o).1 = u ∧ (groupFault s k o).2.isNone = true) ∧
     (pipesFinish s k = true → o.inGroup = true → (∀ a pair, o.opc ≠ .twl a pair) →
       ∃ t, exec (.rowGroupComplete k st) s = .next t ∧
         (((t.ctx k).queue.find? fun p => p.seq = o.seq).map fun p => (p.row, p.inGroup)) = some (o.group.2, false) ∧
         (∀ tile row data, o.opc = .vtwr tile row data → o.rows = 1 → o.row = 0 →
           (t.core k.core).tileRow tile row = data.truncate 768) ∧
         (∀ d tile row, o.opc = .vtrd d tile row → o.rows = 1 → o.row = 0 → fmtBlock (cfgFmt o.cfg0) = false →
           (t.ctx k).v (BitVec.ofNat 5 d) = ((s.core k.core).tileRow tile row).zeroExtend 1536))) ∧
  (∀ (k : CtxAt) (st : Stage) (s : State) (o : TileOp), pipesFinish s k = true → (s.ctx k).ranOut st = some o →
     clearsFree (s.ctx k) o = true →
       ∃ t, exec (.tileInstructionComplete k st) s = .next t ∧
         (t.ctx k).queue = (s.ctx k).queue.filter (fun p => p.seq ≠ o.seq) ∧
         (∀ acc dst, o.opc = .drain acc true dst → o.superseded = false → (t.ctx k).accInUse acc.toNat = false) ∧
         (t.ctx k).sregs = (s.ctx k).sregs ∧ (t.ctx k).vregs = (s.ctx k).vregs ∧ t.mem = s.mem ∧ t.faults = s.faults)

/-- R52, R60, R61 and R82 to R85: the next operation of a stage begins when nothing stands in its way: a move at its first row, or
at the row of TSTART where it accumulates; a product with the weights that change over to it; a load of weights, unless the same
weights stand, when it leaves the queue at once. The weights of a twl issued after an operation stay in the shadow set.
R101 and R102: once every participant waits with its broadcast, all of one kind, and the source's first rows are read, they agree and
take their weights together; where they differ, each takes a tile-shape fault of cause DIM. -/
def Obligations.TileOperationsBegin : Prop :=
  (∀ (k : CtxAt) (st : Stage) (s : State) (c : Context) (o : TileOp), s.ctx k = c → pipesGo s k = true →
     c.nextOp st = some o → mayBegin k.core c st o = true → tstartBad c o = false →
     ∃ t, exec (.tileOpBegin k st) s = .next t ∧ t.mem = s.mem ∧ (∀ q, q ≠ k → t.ctx q = s.ctx q) ∧
       (st = .move → t.ctx k = c.putOp { o with started := true, row := beginRow c o }) ∧
       (∀ p, o.opc = .prod p → p.mode < 2 →
         t.ctx k = (c.promote o).putOp { o with started := true, row := beginRow c o, weights := (c.promote o).latch }) ∧
       (∀ p, o.opc = .prod p → 2 ≤ p.mode →
         t.ctx k = c.putOp { o with started := true, row := beginRow c o, weights := none }) ∧
       (∀ a pair, o.opc = .twl a pair → sameWeights (c.promote o) o a pair = false →
         t.ctx k = (c.promote o).putOp { o with started := true, row := 0 }) ∧
       (∀ a pair, o.opc = .twl a pair → sameWeights (c.promote o) o a pair = true →
         (t.ctx k).queue = (c.dropOp o).queue ∧
           (c.hold ≠ .ending → (t.ctx k).latch = (c.promote o).latch ∧ (t.ctx k).shadow = (c.promote o).shadow))) ∧
  (∀ (c : Context) (o : TileOp) (w : WLatch), c.shadow = some w →
     c.promote o = (if w.seq < o.seq then { c with latch := some w, shadow := none } else c)) ∧
  (∀ (pond : Nat) (c : Ctx) (s : State) (q : CtxAt × TileOp × Product) (qs : List (CtxAt × TileOp × Product)), pond < 192 →
     ((List.range 4).findSome? fun m => readyBroadcast s c (pondCore pond m)) = some (q :: qs) →
     (groupFaults (sources (q :: qs)) s).2.isNone = true → s.faults.batch = none →
     ((∀ r ∈ qs, broadcastKey r.2.1 r.2.2 = broadcastKey q.2.1 q.2.2) →
       ∃ t, exec (.pondBroadcastBegin pond c) s = .next t ∧ t.mem = s.mem ∧ t.faults = s.faults ∧
         ∀ r ∈ q :: qs, ∃ p ∈ (t.ctx r.1).queue, p.seq = r.2.1.seq ∧ p.agreed = true) ∧
     ((∃ r ∈ qs, broadcastKey r.2.1 r.2.2 ≠ broadcastKey q.2.1 q.2.2) →
       ∃ t, exec (.pondBroadcastBegin pond c) s = .next t ∧ t.faults.seq = s.faults.seq + BitVec.ofNat 32 (qs.length + 1) ∧
         ∀ r ∈ q :: qs, ∀ p ∈ (t.ctx r.1).queue, p.seq < r.2.1.seq))

/-- R59, R70, R71, R73 and R438: a switch of the core from B to F and back. Each stage of B that reaches its boundary is counted, the
third beginning the save; the save complete, B is FROZEN with its image standing and F issues, its event number in its register; a B on its way to FAULTED is FAULTED as its save completes; the restore complete, B issues again. -/
def Obligations.ContextSwitch : Prop :=
  ∀ (core : Nat) (st : Stage) (s : State) (x : Core), s.core core = x → core < 768 → s.working = true →
    (x.switch = .stopping → x.b.hold ≠ .ending → x.stopped.contains st = false → (∀ o, x.b.running st = some o → o.inGroup = false) →
      ∃ t, exec (.interruptBoundaryReached ⟨core, .B⟩ st) s = .next t ∧ (t.core core).stopped = x.stopped ++ [st] ∧
        (t.core core).switch = (if x.stopped.length = 2 then .saving else .stopping) ∧
        (t.core core).b.state = x.b.state ∧ t.mem = s.mem) ∧
    (x.switch = .saving → x.b.state = .running → x.b.hold = .none → x.f.state = .running → saveParity x = false →
      ∃ t, exec (.saveComplete core) s = .next t ∧ (t.core core).b = { x.b with state := .frozen } ∧
        (t.core core).saved = true ∧ (t.core core).imageTiles = (liveTiles x).map (fun n => (n, tileBlock x n)) ∧
        (t.core core).imageAccs = liveAccs x ∧ (t.core core).switch = .idle ∧ (t.core core).active = .F ∧
        (∀ e, x.fEvent = some e → (t.core core).f = x.f.setS x.fDst (BitVec.ofNat 64 e)) ∧
        (x.fEvent = none → (t.core core).f = x.f)) ∧
    (x.switch = .saving → x.b.state = .running → (∃ pc, x.b.hold = .faulting pc) → x.f.state = .running → saveParity x = false →
      ∃ t, exec (.saveComplete core) s = .next t ∧ (t.core core).b.state = .faulted ∧ (t.core core).saved = true ∧
        (t.core core).active = .F) ∧
    (∀ u, x.switch = .restoring → restoreB s core = (true, u) →
      ∃ t, exec (.restoreComplete core) s = .next t ∧ (t.core core).b.state = .running ∧ (t.core core).b.pc = x.b.pc ∧
        (t.core core).b.sregs = x.b.sregs ∧ (t.core core).b.hold = x.b.hold ∧ (t.core core).b.queue = x.b.queue ∧ (t.core core).saved = false ∧
        (t.core core).switch = .idle)

/-- R66, R69, R70 and R74: a context with a fault enters FAULTED at that instruction once its queue is empty. A line event that its
core has enabled waits among at most four while F runs, a fifth sets OVERRUN and is counted; with F in EVWAIT it makes F run; an
event that is not enabled changes no core. -/
def Obligations.FaultedContextsAndLineEvents : Prop :=
  ∀ (k : CtxAt) (pc ev : Nat) (s : State) (x : Core), s.core k.core = x → k.core < 768 →
    (s.live = true → (s.ctx k).hold = .faulting pc → (s.ctx k).state = .running → (s.ctx k).queue = [] → x.active = k.ctx →
      x.switch = .idle →
        ∃ t, exec (.contextEntersFaulted k) s = .next t ∧ (t.ctx k).state = .faulted ∧ (t.ctx k).pc = pc ∧
          (t.ctx k).hold = .none ∧ (t.ctx k).sregs = (s.ctx k).sregs ∧ (t.core k.core).active = .B) ∧
    (s.working = true → onItsWay s k.core ev = true →
      (s.regBit (.coreFEvent k.core) ev = false → ∃ t, exec (.lineEventDelivery k.core ev) s = .next t ∧ t.cores = s.cores) ∧
      (s.regBit (.coreFEvent k.core) ev = true → x.f.state = .running → x.events.length < 4 →
        ∃ t, exec (.lineEventDelivery k.core ev) s = .next t ∧ t.core k.core = { x with events := x.events ++ [ev] }) ∧
      (s.regBit (.coreFEvent k.core) ev = true → x.f.state = .running → 4 ≤ x.events.length →
        ∃ t, exec (.lineEventDelivery k.core ev) s = .next t ∧ t.core k.core = x ∧ t.regBit (.coreFPend k.core) 8 = true ∧
          t.regFld (.coreFPend k.core) 16 16 = min (s.regFld (.coreFPend k.core) 16 16 + 1) 0xFFFF) ∧
      (s.regBit (.coreFEvent k.core) ev = true → x.f.state = .evwait →
        ∃ t, exec (.lineEventDelivery k.core ev) s = .next t ∧ (t.core k.core).f.state = .running ∧
          (t.core k.core).active = .F ∧ t.regFld (.coreSwitchCnt k.core) 0 48 = min (s.regFld (.coreSwitchCnt k.core) 0 48 + 1)
            (2 ^ 48 - 1)))

/-- R67, R77 and R78: through CORE_CTL a cluster enables a DISABLED context at its entry, halts one, or resets one. A context that
is reset is DISABLED with no work, its feeder configuration that of reset. In frost an enable is ignored with WIGN (R415). -/
def Obligations.ContextControl : Prop :=
  ∀ (who : Half) (k : CtxAt) (s : State), clusterRuns s who = true → k.core < 768 → fieldTesting s (coreField k.core) = false →
    (s.faults.inFrost = false → (s.ctx k).state = .disabled → (s.ctx k).hold = .none →
      ∃ t, exec (.contextEnable who k) s = .next t ∧ (t.ctx k).state = .running ∧ (t.ctx k).hold = .none ∧
        (t.ctx k).pc = s.regFld (.ctxEntry k.core k.ctx) 0 13 ∧ t.mem = s.mem) ∧
    (s.faults.inFrost = true → (s.ctx k).state = .disabled →
      ∃ t, exec (.contextEnable who k) s = .next t ∧ t.cores = s.cores ∧ t.regBit (.coreStatus k.core) 8 = true) ∧
    ((s.ctx k).state ≠ .disabled →
      ∃ t, exec (.contextHalt who k) s = .next t ∧ (t.ctx k).state = .disabled ∧ (t.ctx k).queue = [] ∧
        (t.ctx k).releases = []) ∧
    (∃ t, exec (.fReset who k.core) s = .next t ∧ (t.ctx ⟨k.core, .F⟩).state = .disabled ∧ (t.ctx ⟨k.core, .F⟩).queue = [] ∧
      (t.ctx ⟨k.core, .F⟩).fc = FeederCfg.reset) ∧
    (∃ t, exec (.bReset who k.core) s = .next t ∧ (t.ctx ⟨k.core, .B⟩).state = .disabled ∧ (t.ctx ⟨k.core, .B⟩).queue = [] ∧
      (t.ctx ⟨k.core, .B⟩).fc = FeederCfg.reset)

/-! ### Counters, waits and releases (R148, R165 to R169, R203 to R218) -/

/-- R148, R165, R166 and R169: a release goes on at once and is held for its turn, at most four, so that a fifth waits to issue; ph.bgn
opens its phase at once; a target of sc.inc.r that R166 does not allow faults with cause OPERAND. -/
def Obligations.ReleasesAreHeld : Prop :=
  ∀ (k : CtxAt) (a : BitVec 5) (x : BitVec 28) (s : State) (c : Context), s.ctx k = c →
    (issues s k (encR 0x60 0 0 0 0 0 x) → x.toNat / 2 ^ 6 % 2 ^ 6 = 0 → x.toNat % 2 ^ 6 < 48 → c.releases.length < 4 →
      exec (.scInc k x) s = .next (s.setCtx k
        { c with
          releases := c.releases ++ [⟨c.seq, c.pc, .scInc (x.toNat % 2 ^ 6) (BitVec.ofNat 32 (x.toNat / 2 ^ 12))⟩]
          seq := c.seq + 1
          pc := pcAdd c.pc 1 })) ∧
    (∀ dev core n, issues s k (encR 0x61 0 0 a 0 0 x) → x.toNat % 2 ^ 12 = 0 → incTarget (c.s a) = some (dev, core, n) →
      c.releases.length < 4 →
      exec (.scIncR k a x) s = .next (s.setCtx k
        { c with
          releases := c.releases ++ [⟨c.seq, c.pc, .scIncR dev core n (BitVec.ofNat 32 (x.toNat / 2 ^ 12))⟩]
          seq := c.seq + 1
          pc := pcAdd c.pc 1 })) ∧
    (issues s k (encR 0x64 0 0 a 0 0 x) → x.toNat < 2 ^ 13 → c.releases.length < 4 →
      exec (.rgPost k a x) s = .next (s.setCtx k
        { c with
          releases := c.releases ++ [⟨c.seq, c.pc, .rgPost x.toNat ((c.s a).toNat % 2 ^ 16)⟩]
          seq := c.seq + 1
          pc := pcAdd c.pc 1 })) ∧
    (issues s k (encR 0x71 0 0 0 0 0 x) → x.toNat < 2 ^ 16 → c.releases.length < 4 →
      exec (.phEnd k x) s = .next (s.setCtx k
        { c with
          releases := c.releases ++ [⟨c.seq, c.pc, .phEnd x.toNat⟩]
          seq := c.seq + 1
          pc := pcAdd c.pc 1 })) ∧
    (issues s k (encR 0x70 0 0 0 0 0 x) → x.toNat < 2 ^ 16 →
      exec (.phBgn k x) s = .next (s.setCtx k
        { c with phase := some ⟨x.toNat, s.time.ns, s.time.steps⟩, pc := pcAdd c.pc 1 })) ∧
    (4 ≤ c.releases.length →
      (issues s k (encR 0x60 0 0 0 0 0 x) → x.toNat / 2 ^ 6 % 2 ^ 6 = 0 → x.toNat % 2 ^ 6 < 48 → exec (.scInc k x) s = .next s) ∧
      (issues s k (encR 0x61 0 0 a 0 0 x) → x.toNat % 2 ^ 12 = 0 → incTarget (c.s a) ≠ none → exec (.scIncR k a x) s = .next s) ∧
      (issues s k (encR 0x64 0 0 a 0 0 x) → x.toNat < 2 ^ 13 → exec (.rgPost k a x) s = .next s) ∧
      (issues s k (encR 0x71 0 0 0 0 0 x) → x.toNat < 2 ^ 16 → exec (.phEnd k x) s = .next s)) ∧
    (issues s k (encR 0x61 0 0 a 0 0 x) → x.toNat % 2 ^ 12 = 0 → incTarget (c.s a) = none → s.faults.batch = none →
      ∃ t, exec (.scIncR k a x) s = .next t ∧ t.ctx k = { c with hold := .faulting c.pc } ∧ t.faults.seq = s.faults.seq + 1 ∧
        t.regBit .fltStatus 1 = true)

/-- R148, R168, R169, R208, R222, R223 and R307: the oldest release of a context takes effect once its earlier instructions have
finished. An increment of its own core is due in the next cycle, and one of another core of the device goes to the increment plane; a
post raises PI by its count; the end of a phase closes a phase of its id, and with the log armed and room leaves an entry, whose start
is that of the phase, or with UNMATCHED its own end where there is none of its id. An increment of its own core that has one of its
source still ahead of it on the plane follows it there (the model's choice, log entry 102). -/
def Obligations.ReleaseTakesEffect : Prop :=
  ∀ (k : CtxAt) (s : State) (r : Release) (rs : List Release), s.working = true → k.core < 768 →
    (s.ctx k).releases = r :: rs → (∀ o ∈ (s.ctx k).queue, r.seq < o.seq) →
      ∃ t, exec (.releaseTakesEffect k) s = .next t ∧ (t.ctx k).releases = rs ∧ t.mem = s.mem ∧
        (∀ n amount, r.op = .scInc n amount →
          let m : IncMsg := ⟨k.core, n, amount, ⟨s.dev, 0, k.ctx, k.core, r.pc⟩⟩
          t.counters = s.counters ∧ t.rings = s.rings ∧
            (s.incs.any (sameSource m) = false → t.grid.due = s.grid.due ++ [m] ∧ t.incs = s.incs) ∧
            (s.incs.any (sameSource m) = true → t.incs = s.incs ++ [m] ∧ t.grid.due = s.grid.due)) ∧
        (∀ core n amount, r.op = .scIncR s.dev core n amount →
          t.incs = s.incs ++ [⟨core, n, amount, ⟨s.dev, 0, k.ctx, k.core, r.pc⟩⟩] ∧ t.counters = s.counters) ∧
        (∀ ring n, r.op = .rgPost ring n →
          ((s.ring ring).pi - (s.ring ring).counter).toNat + n ≤ ringSize s ring →
            t.ring ring = { s.ring ring with pi := (s.ring ring).pi + BitVec.ofNat 32 n } ∧ t.faults.seq = s.faults.seq) ∧
        (∀ id, r.op = .phEnd id →
          (∀ p, (s.ctx k).phase = some p → p.id = id → (t.ctx k).phase = none) ∧
          ((∀ p, (s.ctx k).phase = some p → p.id ≠ id) → (t.ctx k).phase = (s.ctx k).phase) ∧
          (s.regBit .timePlogBase 0 = true → (s.ctx k).plog.length < 2 →
            ∃ e, (t.ctx k).plog = (s.ctx k).plog ++ [e] ∧ e.phase = id ∧ e.fin = s.time.ns ∧ e.line = s.time.line ∧
              (∀ p, (s.ctx k).phase = some p → p.id = id →
                e.start = p.start ∧ e.unmatched = false ∧ e.stepped = decide (p.steps ≠ s.time.steps)) ∧
              ((∀ p, (s.ctx k).phase = some p → p.id ≠ id) → e.start = e.fin ∧ e.unmatched = true)))

/-- R167, R205, R211 and R214: sc.wait answers 2 where its counter is poisoned, else 0 where the counter has reached the target, else 1
at once with a timeout of 0, and else waits; sc.rd reads the counter. R209 to R211, R213 and R216: increments of one counter that met
on their way reach it as their sum, and a poisoned counter, or one cleared in this cycle, discards it with an error; an increment lands
once none that goes before it is on the plane. R215 and R216: a wait that has lasted its timeout ends with outcome 0 where its
condition holds, 2 where its counter is poisoned and else 1, with an error in the last two, nothing else of its context or of any
counter changed; a WAIT of a ring that ends so starts, or takes its ring to ERROR. -/
def Obligations.WaitsAndIncrements : Prop :=
  (∀ (k : CtxAt) (ring : Bool) (d a b : BitVec 5) (x : BitVec 28) (s : State) (c : Context) (o : SyncObj), s.ctx k = c →
     counterNamed s k.core ring x = o → illegalCause k (encR 0x62 ring.toNat d a b 0 x) = none → s.faults.inFrost = false →
     s.faults.batch = none →
     let target : BitVec 32 := (c.s a).truncate 32
     let timeout := (c.s b).toNat % 2 ^ 48
     let met := (o.value s - target).toNat < 2 ^ 31
     (issues s k (encR 0x62 ring.toNat d a b 0 x) →
       (o.poisoned s = true →
         ∃ t, exec (.scWait k ring d a b x) s = .next t ∧ t.ctx k = (writeS s k d 2).ctx k ∧ t.counters = s.counters ∧
           t.regBit .syncStatus 1 = true ∧ t.faults.seq = s.faults.seq + 1) ∧
       (o.poisoned s = false → met → exec (.scWait k ring d a b x) s = .next (writeS s k d 0)) ∧
       (o.poisoned s = false → ¬met → timeout = 0 →
         ∃ t, exec (.scWait k ring d a b x) s = .next t ∧ t.ctx k = (writeS s k d 1).ctx k ∧ t.counters = s.counters ∧
           t.regBit .syncStatus 0 = true ∧ t.faults.seq = s.faults.seq + 1) ∧
       (o.poisoned s = false → ¬met → timeout ≠ 0 →
         exec (.scWait k ring d a b x) s = .next (s.setCtx k
           { c with hold := .scWait ⟨ring, o.num, target, timeout, s.time.elapsed, d, c.pc, false⟩, pc := pcAdd c.pc 1 }))) ∧
     (issues s k (encR 0x63 ring.toNat d 0 0 0 x) →
       exec (.scRd k ring d x) s = .next (writeS s k d ((o.value s).zeroExtend 64)))) ∧
  ((∀ (n : Nat) (met : List Nat) (s : State) (m : IncMsg) (x : Counter), s.live = true → s.incs[n]? = some m →
     mayLand s m (n :: met) = true → s.counter m.core m.n = x →
     let sum : BitVec 32 := (incsAt s (n :: met)).foldl (fun v y => v + y.amount) 0
     let cut := x.poisoned || s.grid.cleared.contains (m.core * 64 + m.n)
     (cut = false →
       ∃ t, exec (.incrementLands (n :: met)) s = .next t ∧ t.counter m.core m.n = { x with value := x.value + sum } ∧
         t.incs = (s.incs.zipIdx.filter fun p => !(n :: met).contains p.2).map (·.1) ∧ t.mem = s.mem ∧
         (∀ c j, c * 64 + j ≠ m.core * 64 + m.n → t.counter c j = s.counter c j)) ∧
     (cut = true →
       ∃ t, exec (.incrementLands (n :: met)) s = .next t ∧ t.counters = s.counters ∧
         (s.faults.inFrost = false → s.faults.batch = none →
           t.regBit .syncStatus 2 = true ∧ t.faults.seq = s.faults.seq + 1))) ∧
   (∀ (n : Nat) (s : State) (m : IncMsg), s.incs[n]? = some m → (∀ e ∈ s.incs.take n, passesFirst e m = false) →
     (∀ e ∈ s.grid.due, sameSource e m = false) → mayLand s m [n] = true) ∧
   (∀ (k : CtxAt) (s : State) (w : ScWait), s.working = true → s.faults.batch = none → (s.ctx k).hold = .scWait w →
     timedOut s w = true →
     let o := waitObj s k.core w
     let ended (outcome : Nat) : Context :=
       { ((s.ctx k).setS w.dst (BitVec.ofNat 64 outcome)) with
         hold := if w.trapped && (s.ctx k).state ≠ .faulted then .faulting (s.ctx k).pc else .none }
     ((o.value s - w.target).toNat < 2 ^ 31 →
       ∃ t, exec (.waitTimeoutExpiry (.ctx k)) s = .next t ∧ t.ctx k = ended 0 ∧ { t with cores := s.cores } = s) ∧
     (2 ^ 31 ≤ (o.value s - w.target).toNat →
       ∃ t, exec (.waitTimeoutExpiry (.ctx k)) s = .next t ∧ t.ctx k = ended (if o.poisoned s then 2 else 1) ∧
         t.counters = s.counters ∧ t.rings = s.rings ∧ t.regBit .syncStatus (if o.poisoned s then 1 else 0) = true ∧
         t.faults.seq = s.faults.seq + 1)) ∧
   (∀ (r code : Nat) (s : State) (w : ScWait) (desc : BitVec 512), s.working = true →
     ((s.ring r).state = .running ∨ (s.ring r).state = .trapped) →
     (s.ring r).head = some ⟨code, some (w, desc)⟩ → timedOut s w = true →
     let o := ringWaitObj s w
     (2 ^ 31 ≤ (o.value s - w.target).toNat →
       ∃ t, exec (.waitTimeoutExpiry (.ring r)) s = .next t ∧ (t.ring r).state = .error ∧
         (t.ring r).cause = (if o.poisoned s then 13 else 12) ∧
         (t.ring r).failIdx = (s.ring r).si ∧ (t.ring r).head = none ∧ (t.ring r).copy = some desc ∧ t.counters = s.counters) ∧
     ((o.value s - w.target).toNat < 2 ^ 31 → ringStarts s r = true →
       ∃ t j, exec (.waitTimeoutExpiry (.ring r)) s = .next t ∧ (t.ring r).jobs = (s.ring r).jobs ++ [j] ∧ j.desc = desc ∧
         j.stage = .done ∧ (t.ring r).si = (s.ring r).si + 1 ∧ (t.ring r).head = none ∧ t.counters = s.counters)))

/-! ### The scheduled fabric (R176 to R202) -/

/-- R178 and R188: at the last cycle of a round the next begins at cycle 0; each stream with a go latched commits an instance,
which it sends in the new round. R187, R199 and R201: an AND entry without parity errors sends on, or hands its decider, the AND of
its inputs and, with LOCAL, of this router's readiness as sampled at the start of the cycle; a stream halted there votes 0, and so does
a part that stops. A GO entry passes the go on, to the edge engine two cycles later, and latches it at an endpoint. -/
def Obligations.RoundsAndVotes : Prop :=
  (∀ (s : State), s.live = true → s.grid.running = true → s.grid.len ≤ s.grid.cycle + 1 →
     ∃ t, exec .roundStart s = .next t ∧ t.grid.round = s.grid.round + 1 ∧ t.grid.cycle = 0 ∧ t.grid.now = s.grid.now + 1 ∧
       t.grid.running = true ∧
       ((∀ r n, dueEntry s r n = none) → (∀ p ∈ s.routers, ∀ q ∈ p.2.streams, q.2.haltDue = false) →
         (∀ p ∈ s.rings, ∀ j ∈ p.2.jobs, dKind j.desc ≠ 9) →
         ∀ r n x e, SMap.get? s.routers r = some x → x.f.state = .active → x.b.state = .active →
           SMap.get? x.streams n = some e →
             ((t.router r).ep n).committed = (if e.go then e.committed + 1 else e.committed) ∧
             ((t.router r).ep n).sending = e.go ∧ ((t.router r).ep n).go = false)) ∧
  (∀ (r n : Nat) (s : State) (p : Part) (e : BitVec 64) (x : Router) (ep : Endpoint), dueEntry s r n = some (p, e) →
     ePlane e = 1 → s.router r = x → x.ep (eStream e) = ep → .slotTable r ∉ s.broken →
     let m := eStream e
     let halted := ep.halt ≠ 0 ∧ ((x.desc m).isSome = true ∨ ep.haltRound < s.grid.round)
     let bit := ([eInA e, eInB e, eInC e].all fun port => port = 7 || voteInput s r m port) && (!eLocal e || sampled s r m false (localReady s r m))
       && !decide halted && !votesOff s p
     let go := if eInA e = 6 then ep.decided.getD false else voteIn s r (eInA e) true
     (eOp e = 0 → ∃ t, exec (.voteAndEntry r n 0) s = .next t ∧ t.mem = s.mem ∧ t.regs = s.regs ∧ t.faults = s.faults ∧
       (eOut e = 6 → ((t.router r).ep m).decided = some bit ∧ t.grid.votes = s.grid.votes) ∧
       (∀ q, eOut e ≠ 6 → neighbour r (eOut e) = some q →
         t.grid.votes = s.grid.votes ++ [⟨q, oppositePort (eOut e), s.grid.now, false, bit⟩] ∧ t.routers = s.routers)) ∧
     (eOp e = 1 → votesOff s p = false →
       ∃ t, exec (.voteGoEntry r n false) s = .next t ∧ t.mem = s.mem ∧ t.regs = s.regs ∧ t.faults = s.faults ∧
         (go = true → (x.desc m).isSome = true → ep.halt = 0 → resetHalts s ep = false → s.faults.inFrost = false →
           ((t.router r).ep m).go = true) ∧
         t.grid.edgeGos = s.grid.edgeGos ++ (if go && edgePort r (eOut e) then [⟨r, m, s.grid.now + 2⟩] else []) ∧
         (go = false → t.routers = s.routers) ∧
         (∀ q, eOut e < 4 → neighbour r (eOut e) = some q →
           t.grid.votes = s.grid.votes ++ [⟨q, oppositePort (eOut e), s.grid.now, true, go⟩])))

/-- R179 to R181, R184 and R189: a data entry that passes. From a source in the core store, in the round after its go, the beat that its
read found, or finds now where no read began three cycles before, leaves for the next router with the entry's tag, marked as its way
there left it; from a neighbour's port to a target in the core store, a valid beat of the right tag is written two cycles later at its
place in the instance. -/
def Obligations.DataEntries : Prop :=
  (∀ (r n : Nat) (wire : Fec) (s : State) (p : Part) (e : BitVec 64) (d : BitVec 256) (x : Router) (ep : Endpoint),
    dueEntry s r n = some (p, e) → ePlane e = 0 → eOp e = 0 → s.router r = x → x.ep (eStream e) = ep → blocks ep = false →
    x.desc (eStream e) = some d → .slotTable r ∉ s.broken →
    let began (y : BeatRead) : Bool := y.router = r && y.stream = eStream e && y.beat = eBeat e && y.due = s.grid.now
    let leaves (q : Nat) (bs : List Byte) (t : State) : Prop :=
      exec (.dataSlotEntry r ⟨n, wire⟩) s = .next t ∧ t.mem = s.mem ∧
        t.grid.beats = s.grid.beats ++
          [⟨q, oppositePort (eOut e), s.grid.now,
            ⟨true, eTag e, beatOf bs, 0, decide (wire = .uncorrectable), decide (wire = .corrected)⟩, false⟩]
    (∀ q, eInA e = 4 → sdSource d = true → sdSrcKind d = 4 → ep.sending = true → eOut e ≠ 4 →
      edgePort r (eOut e) = false → neighbour r (eOut e) = some q →
      (∀ y, s.grid.reads.find? began = some y → y.good = true → ∃ t, leaves q y.bytes t) ∧
      (∀ bs u, s.grid.reads.find? began = none →
        storeRead s r (sdSrcBase d + (sourceInst d ep).toNat % sdSrcBufs d * (sdBeats d * 384) + eBeat e * 384) 384 = (some bs, u) →
        ∃ t, leaves q bs t)) ∧
    (∀ m, eInA e < 4 → edgePort r (eInA e) = false → eOut e = 4 → sdTarget d = true → sdTgtKind d = 4 →
      (s.grid.beats.find? fun y => y.router = r && y.port = eInA e && y.launched + inputDelay r e (eInA e) = s.grid.now)
        = some m →
      m.beat.valid = true → m.beat.tag = eTag e →
        ∃ t, exec (.dataSlotEntry r ⟨n, wire⟩) s = .next t ∧ t.mem = s.mem ∧
          t.grid.writes = s.grid.writes ++ [⟨r, eStream e, false, eBeat e, s.grid.now + 2, { m.beat with corr := false }⟩])) ∧
  (∀ (s : State) (w : BeatWrite) (d : BitVec 256) (ep : Endpoint), (s.router w.router).desc w.stream = some d →
    (s.router w.router).ep w.stream = ep → takesBeat ep = true → w.edge = false →
    (writeBeat s w).mem = Memory.writeN s.mem
      (storeAddr w.router (sdTgtBase d + ep.arrived.toNat % sdTgtBufs d * (sdBeats d * 384) + w.place * 384))
      (toBytes 384 w.beat.data.toNat))

/-- R208, R213 and R218: a write of SYNC_INC puts an increment on the plane, one above counter 47 is ignored with WIGN; a write of
SYNC_CLR clears each counter that it names whose owner is DISABLED with the router's parts EMPTY, discarding with an error an increment
that landed there in this cycle, and sets WIGN where it names another. R178, R198, R202 and R415: the registers of the fabric. GRID_START sets the round that makes the loaded parts ACTIVE, and
is ignored with WIGN in frost; GRID_CTL takes a round length from 64 to 1,024 while every part is EMPTY, and sets WIGN otherwise;
F_STOP and B_STOP stop an ACTIVE part at this round and empty a LOADED one. -/
def Obligations.SyncAndFabricRegisters : Prop :=
  (∀ (who : Half) (core : Nat) (v : Word) (s : State), clusterRuns s who = true → core < 768 →
     (v &&& Reg.reserved (.syncInc core) = 0 → s.faults.inFrost = false → Word.fld v 32 6 ≤ 47 →
       exec (.syncInc who core v) s = .next { s with incs := s.incs ++
         [⟨core, Word.fld v 32 6, BitVec.ofNat 32 (Word.fld v 0 16), ⟨s.dev, 2, .B, halfNum who, 0⟩⟩] }) ∧
     (v &&& Reg.reserved (.syncInc core) = 0 → 47 < Word.fld v 32 6 →
       exec (.syncInc who core v) s = .next (s.setBit .syncStatus 4)) ∧
     (v &&& Reg.reserved (.syncClr core) = 0 →
       ∃ t, exec (.syncClr who core v) s = .next t ∧ t.incs = s.incs ∧
         (∀ k, (∀ w, (s.ctx k).hold ≠ .scWait w) → t.ctx k = s.ctx k) ∧
         (s.faults.inFrost = false →
           (∃ m ∈ s.grid.landed, m.core = core ∧ m.n < 48 ∧ Word.bit v m.n = true ∧ clearable s core m.n = true) →
             t.regBit .syncStatus 2 = true) ∧
         (∀ n, n < 48 → t.counter core n =
           if Word.bit v n && clearable s core n then Counter.reset else s.counter core n) ∧
         (∀ c n, c ≠ core → n < 64 → t.counter c n = s.counter c n) ∧
         t.regBit .syncStatus 4 = (s.regBit .syncStatus 4 || (List.range 48).any fun n => Word.bit v n && !clearable s core n))) ∧
  (∀ (who : Half) (r : Nat) (v : Word) (s : State), clusterRuns s who = true →
     (v &&& Reg.reserved .gridStart = 0 → s.faults.inFrost = false →
       ∃ t, exec (.gridStart who v) s = .next t ∧ t.regFld .gridStart 0 48 = Word.fld v 0 48 ∧ t.grid.startPending = true ∧
         t.routers = s.routers) ∧
     (v &&& Reg.reserved .gridStart = 0 → s.faults.inFrost = true →
       exec (.gridStart who v) s = .next (s.setBit .gridStatus 0)) ∧
     (v &&& Reg.reserved .gridCtl = 0 →
       (64 ≤ Word.fld v 0 11 → Word.fld v 0 11 ≤ 1024 →
         (∀ x ∈ s.routers, x.2.f.state = .empty ∧ x.2.b.state = .empty) →
           ∃ t, exec (.gridCtl who v) s = .next t ∧ t.regFld .gridCtl 0 11 = Word.fld v 0 11 ∧ { t with regs := s.regs } = s) ∧
       ((Word.fld v 0 11 < 64 ∨ 1024 < Word.fld v 0 11 ∨ ∃ x ∈ s.routers, x.2.f.state ≠ .empty ∨ x.2.b.state ≠ .empty) →
         exec (.gridCtl who v) s = .next (s.setBit .gridStatus 0))) ∧
     (r < 768 → ∀ c ∈ [Ctx.F, Ctx.B],
       let i : Instr := match c with
         | .F => .fStop who r
         | .B => .bStop who r
       (((s.router r).part c).state = .active →
         ∃ t, exec i s = .next t ∧
           (t.router r).part c = { (s.router r).part c with state := .stopping, stopRound := s.grid.round } ∧
           (t.router r).streams = (s.router r).streams ∧ { t with routers := s.routers } = s) ∧
       (((s.router r).part c).state = .loaded →
         ∃ t, exec i s = .next t ∧ (t.router r).part c = Part.reset ∧ { t with routers := s.routers } = s)))
/-! ### Edge engines, ports and arbiters (R219 to R259) -/

/-- R222, R226, R227 and R230: the descriptor at the head of a running, enabled ring with room starts when it is of the command's
kind, nothing holds it and it meets no cause: it is in flight and SI names the next. A NOP has then performed its effects; a WAIT
whose counter has reached its target too, and one that must wait keeps its place at the head. -/
def Obligations.DescriptorsStart : Prop :=
  ∀ (r kind : Nat) (s u : State) (d : BitVec 512) (x : Ring) (i : Instr), mayStart s r = true → s.ring r = x →
    .ringIndex r ∉ s.broken → s.faults.batch = none → windowFull s r = false →
    fetchHead (gathering s) r = .desc d u → dKind d = kind → earlyHold u r d = none → dCause u (ringEngine r) d = none →
    lateHold u r d = none →
    (kind, i) ∈ [(0, (.descriptorNop r : Instr)), (1, .copy r), (2, .sin r), (3, .sout r), (4, .gather r), (5, .scatter r),
      (6, .csld r), (7, .csrd r), (8, .ild r), (9, .sld r), (10, .sprg r), (11, .chk r), (12, .wait r)] →
    let quiet := ∀ q ∈ u.far, q.ring ≠ r
    (kind ≠ 12 → ∃ t, exec i s = .next t ∧ (t.ring r).si = x.si + 1 ∧ (t.ring r).pi = x.pi ∧ (t.ring r).counter = x.counter ∧
      (t.ring r).jobs.map (·.idx) = x.jobs.map (·.idx) ++ [x.si] ∧ (t.ring r).head = none ∧
      (kind = 0 → x.jobs = [] → quiet → ∃ j, (t.ring r).jobs = [j] ∧ j.stage = .done ∧ j.desc = d)) ∧
    (kind = 12 →
      let w := waitOf u d
      let o := ringWaitObj u w
      (o.poisoned u = false → (o.value u - w.target).toNat < 2 ^ 31 →
        ∃ t, exec i s = .next t ∧ (t.ring r).si = x.si + 1 ∧ (t.ring r).jobs.map (·.idx) = x.jobs.map (·.idx) ++ [x.si] ∧
          (quiet → ∃ j, (t.ring r).jobs = (u.ring r).jobs ++ [j] ∧ j.stage = .done ∧ j.desc = d ∧ j.idx = x.si)) ∧
      (2 ^ 31 ≤ (o.value u - w.target).toNat → o.poisoned u = false → w.timeout ≠ 0 →
        ∃ t, exec i s = .next t ∧ (t.ring r).si = x.si ∧ (t.ring r).head = some ⟨5, some (w, d)⟩))

/-- R219, R222, R231 and R232: a ring whose window is full, whose next descriptor is not there yet, or is held, shows the code of the
hold with SI as it was; a descriptor that meets a cause of R231, or cannot be fetched, takes its ring to ERROR with that cause, its index
in FAILIDX, and is not in flight. R230: a WAIT on a poisoned counter fails with cause 13, and one with a timeout of 0 whose counter has
not reached its target with cause 12. -/
def Obligations.DescriptorsAreHeldOrFail : Prop :=
  ∀ (r kind : Nat) (s : State) (x : Ring) (i : Instr), mayStart s r = true → s.ring r = x →
    .ringIndex r ∉ s.broken → s.faults.batch = none → s.far = [] →
    (kind, i) ∈ [(0, (.descriptorNop r : Instr)), (1, .copy r), (2, .sin r), (3, .sout r), (4, .gather r), (5, .scatter r),
      (6, .csld r), (7, .csrd r), (8, .ild r), (9, .sld r), (10, .sprg r), (11, .chk r), (12, .wait r)] →
    let fetched := fetchHead (gathering s) r
    (windowFull s r = true → ∃ t, exec i s = .next t ∧ t.ring r = { x with head := some ⟨7, none⟩ }) ∧
    (windowFull s r = false → fetched = .absent → ∃ t, exec i s = .next t ∧ t.ring r = { x with head := some ⟨9, none⟩ }) ∧
    (∀ d u h, windowFull s r = false → fetched = .desc d u → dKind d = kind → u.far = [] →
      (earlyHold u r d = some h ∨ (earlyHold u r d = none ∧ dCause u (ringEngine r) d = none ∧ lateHold u r d = some h)) →
        ∃ t, exec i s = .next t ∧ t.ring r = { u.ring r with head := some ⟨h, none⟩ }) ∧
    (∀ u, windowFull s r = false → u.far = [] → u.working = true → (u.ring r).state = .running → (u.ring r).si = x.si →
      let failed (c : Nat) (copy : Option (BitVec 512)) : Prop :=
        ∃ t, exec i s = .next t ∧ t.regBit .edgeStatus 0 = true ∧
          t.ring r = { u.ring r with state := .error, cause := c, failIdx := x.si, head := none, copy := copy }
      (∀ c, fetched = .bad c u → failed c none) ∧
      (∀ d c, fetched = .desc d u → dKind d = kind → earlyHold u r d = none → dCause u (ringEngine r) d = some c →
        failed c (some d)) ∧
      (∀ d, fetched = .desc d u → dKind d = 12 → kind = 12 → earlyHold u r d = none → dCause u (ringEngine r) d = none →
        lateHold u r d = none →
        let w := waitOf u d
        let o := ringWaitObj u w
        (o.poisoned u = true → failed 13 (some d)) ∧
        (o.poisoned u = false → 2 ^ 31 ≤ (o.value u - w.target).toNat → w.timeout = 0 → failed 12 (some d))))

/-- R229, R234 and R236: the oldest descriptor in flight, its effects performed and no record asked for, completes: the ring's counter
goes up by one, or discards the one where it is poisoned (R211), and its completion increment goes to the counter it names. -/
def Obligations.DescriptorCompletes : Prop :=
  ∀ (r : Nat) (s u : State) (j : Job), s.working = true → r < 8192 → .ringIndex r ∉ s.broken → s.faults.batch = none →
    settle (gathering s) r = u → completable u r = some j → ringRecords u r = false →
      ∃ t, exec (.descriptorComplete r) s = .next t ∧ (t.ring r).pi = (u.ring r).pi ∧ t.mem = u.mem ∧
        ((u.ring r).poisoned = false → (t.ring r).counter = (u.ring r).counter + 1) ∧
        ((u.ring r).poisoned = true → (t.ring r).counter = (u.ring r).counter ∧ t.regBit .syncStatus 2 = true) ∧
        (∀ amount core n, (dKind j.desc ≠ 11 ∨ j.moved = 0) → incBad j.desc = false → fld (dInc j.desc) 27 16 = amount →
          amount ≠ 0 → fld (dInc j.desc) 43 11 = u.dev → fld (dInc j.desc) 6 10 = core →
          fld (dInc j.desc) 0 6 = n → t.incs = u.incs ++ [⟨core, n, BitVec.ofNat 32 amount, ringSource u r⟩])

/-- R235, R242, R243 and R253: the holder of a port's grant has a request accepted, which takes a slot. A write to HBM, its units good,
stores its bytes and, of all of HBM, nothing else; a read takes the bytes as they stand. R243, R247, R248 and R407: a request served gives
up its slot; an interface error is counted and the command replayed, up to the sixteenth in succession; a read that finds a unit
uncorrectable is tried again, twice at most; a corrected unit is written back unless a write to it is queued. -/
def Obligations.MemoryRequests : Prop :=
  (∀ (id : Nat) (s : State) (q : Req), (s.reqs.find? fun x => x.id = id) = some q → s.working = true →
     (s.arb q.arb).holder = some q.requester → sendable s q = true →
     (q.isWrite = true → q.addr + q.data.length ≤ lakeBase →
       (∀ u ∈ unitsOf q.addr q.data.length,
         SMap.get? s.marks u = none ∧ SMap.get? s.glitches u = none ∧ portOut s u = false) →
       ∃ t, exec (.requestAccepted id) s = .next t ∧ (∃ x ∈ t.reqs, x.id = id ∧ x.accepted = true) ∧
         ∀ a, a < lakeBase → Memory.read t.mem a =
           if q.addr ≤ a ∧ a < q.addr + q.data.length then q.data.getD (a - q.addr) 0 else Memory.read s.mem a) ∧
     (q.isWrite = false →
       ∃ t, exec (.requestAccepted id) s = .next t ∧ t.mem = s.mem ∧
         (∃ x ∈ t.reqs, x.id = id ∧ x.accepted = true ∧ x.data = s.memBytes q.addr q.len ∧ x.order = s.nextReq) ∧
         (s.far = [] → t.rings = s.rings))) ∧
  ((∀ (id : Nat) (s : State) (q : Req), (s.reqs.find? fun x => x.id = id && x.accepted) = some q → s.live = true →
     portServes s q.addr = true → portOut s q.addr = false → servedNext s q = true →
     let read := (oneReading (gathering s) (unitsOf q.addr q.len)).1
     (q.isWrite = true → ∃ t, exec (.readDataReturn id false) s = .next t ∧ t.mem = s.mem ∧ ∀ x ∈ t.reqs, x.id ≠ id) ∧
     (q.isWrite = false → s.faults.batch = none → read = [] →
       ∃ t, exec (.readDataReturn id false) s = .next t ∧ t.mem = s.mem ∧ ∀ x ∈ t.reqs, x.id = id → x.accepted = false) ∧
     (q.isWrite = false → s.faults.batch = none → read ≠ [] → q.tries < 2 →
       ∃ t, exec (.readDataReturn id false) s = .next t ∧ t.mem = s.mem ∧
         ∃ x ∈ t.reqs, x.id = id ∧ x.accepted = true ∧ x.tries = q.tries + 1) ∧
     (q.replays < 15 →
       ∃ t, exec (.readDataReturn id true) s = .next t ∧ t.mem = s.mem ∧
         (∃ x ∈ t.reqs, x.id = id ∧ x.accepted = true ∧ x.replays = q.replays + 1) ∧
         t.regFld (portEccReg s q.addr) 16 16 = min (s.regFld (portEccReg s q.addr) 16 16 + 1) 0xFFFF)) ∧
   (∀ (n : Nat) (s : State), s.live = true → n ∈ s.writeBacks → portServes s n = true → SMap.get? s.marks n = some .corr →
     SMap.get? s.glitches n = none → portOut s n = false →
     (∀ q ∈ s.reqs, q.isWrite = false) →
       exec (.eccWriteBack n) s = .next { s with writeBacks := s.writeBacks.filter (· ≠ n), marks := SMap.erase s.marks n }))

/-- R253 to R256: an arbiter whose grant is free grants the requester of the highest PRIO, among equals the next in turn, and counts it;
a requester of PRIO 3 takes the grant from a lower holder, and the preemption is counted; ARB_CFG.CLEAR clears the counts; ARB_PRIO
sets a priority. -/
def Obligations.ArbitersGrantAndPreempt : Prop :=
  ∀ (who : Half) (a k : Nat) (v : Word) (s : State), arbFitted s a = true →
    (s.working = true → grantFree s a = true → nextGrant s a = some k → .arbiter a ∉ s.broken →
      ∃ t, exec (.arbiterGrant a) s = .next t ∧ (t.arb a).holder = some k ∧ (t.arb a).prio = arbPriority s a k ∧
        (t.arb a).moved = 0 ∧ t.reqs = s.reqs ∧
        t.regFld (.arbGrants a k) 0 48 = min (s.regFld (.arbGrants a k) 0 48 + 1) (2 ^ 48 - 1)) ∧
    (s.working = true → preempts s a = true →
      ∃ t, exec (.arbiterPreempt a) s = .next t ∧ (t.arb a).holder = nextGrant (preempt s a) a ∧
        (a < 32 → t.regFld (.arbStatus a) 16 48 = min (s.regFld (.arbStatus a) 16 48 + 1) (2 ^ 48 - 1))) ∧
    (clusterRuns s who = true →
      ∃ t, exec (.clear who a) s = .next t ∧ { t with regs := s.regs } = s ∧
        ∀ j, j < 134 → t.reg (.arbGrants a j) = 0 ∧ t.reg (.arbWaits a j) = 0 ∧ t.reg (.arbLongest a j) = 0) ∧
    (clusterRuns s who = true → k < 134 → v &&& Reg.reserved (.arbPrio a k) = 0 →
      preempts (s.putFld (.arbPrio a k) 0 2 (Word.fld v 0 2)) a = false →
        exec (.arbPrio who a k v) s = .next (s.putFld (.arbPrio a k) 0 2 (Word.fld v 0 2))) ∧
    (clusterRuns s who = true → k < 134 → v &&& Reg.reserved (.arbPrio a k) = 0 →
      ∃ t, exec (.arbPrio who a k v) s = .next t ∧ t.regFld (.arbPrio a k) 0 2 = Word.fld v 0 2)

/-- R220 to R225, R250, R251 and R415: what a cluster does to a ring and to an edge stream: a post raises PI, or overflows into ERROR
with cause 9; INIT clears a DISABLED ring; ENABLE starts it; RESUME and RETRY return it to RUNNING, SKIP with its failed descriptor to
complete as skipped; RESET takes it to RESETTING with its counter poisoned, and once every request has returned it is DISABLED. -/
def Obligations.RingControl : Prop :=
  ∀ (who : Half) (r : Nat) (v : Word) (s : State) (x : Ring), clusterRuns s who = true → r < 8192 → s.ring r = x →
    s.faults.inFrost = false →
    let quiet := ∀ q ∈ s.far, q.ring ≠ r
    (v &&& Reg.reserved (.edgeRingPost r) = 0 → 0 < Word.fld v 0 16 → .ringIndex r ∉ s.broken →
      ((x.pi - x.counter).toNat + Word.fld v 0 16 ≤ ringSize s r →
        exec (.edgeRingPost who r v) s = .next (s.setRing r { x with pi := x.pi + BitVec.ofNat 32 (Word.fld v 0 16) })) ∧
      (ringSize s r < (x.pi - x.counter).toNat + Word.fld v 0 16 → x.state ≠ .error → x.state ≠ .resetting →
        ∃ t, exec (.edgeRingPost who r v) s = .next t ∧
          t.ring r = { x with state := .error, cause := 9, failIdx := x.pi })) ∧
    (x.state = .disabled → quiet → ∃ t, exec (.init who r) s = .next t ∧
      t.ring r = { x with pi := 0, si := 0, head := none, copy := none, counter := 0, poisoned := false }) ∧
    (x.state = .disabled → quiet → ∃ t, exec (.enable who r true) s = .next t ∧
      t.ring r = { x with enable := true, state := .running }) ∧
    (x.state = .running → x.jobs = [] → quiet → ∃ t, exec (.enable who r false) s = .next t ∧
      t.ring r = { x with enable := false, state := .disabled, head := none }) ∧
    (x.state = .running → x.jobs ≠ [] → quiet → ∃ t, exec (.enable who r false) s = .next t ∧
      t.ring r = { x with enable := false }) ∧
    (x.head = none → x.enable = true → x.failedJob = none → quiet →
      (x.state = .trapped → ∃ t, exec (.resume who r) s = .next t ∧ t.ring r = { x with state := .running }) ∧
      (x.state = .error → ∃ t, exec (.retry who r) s = .next t ∧ t.ring r = { x with state := .running }) ∧
      (x.state = .error → x.cause ≠ 9 → x.failIdx = x.si → errorJob x = none →
        ∃ t j, exec (.skip who r) s = .next t ∧ (t.ring r).jobs = x.jobs ++ [j] ∧ j.stage = .skipped ∧ j.idx = x.si ∧
          (t.ring r).si = x.si + 1 ∧ (t.ring r).state = .running)) ∧
    (∀ j, x.state = .error → errorJob x = some j → quiet →
      (x.head = none → ∃ t, exec (.retry who r) s = .next t ∧ (t.ring r).jobs.map (·.idx) = x.jobs.map (·.idx) ∧
        (t.ring r).si = x.si ∧ (t.ring r).counter = x.counter) ∧
      ∃ t, exec (.skip who r) s = .next t ∧ ∃ y ∈ (t.ring r).jobs, y.idx = j.idx ∧ y.stage = .skipped) ∧
    (∃ t, exec (.reset who r) s = .next t ∧ (t.ring r).state = .resetting ∧ (t.ring r).poisoned = true ∧ (t.ring r).jobs = []) ∧
    (x.state = .resetting → (∀ q ∈ s.reqs, q.ring ≠ r) → (∀ q ∈ s.tags, q.spring = true ∨ q.ring ≠ r) →
      exec (.resettingComplete r) s =
        .next (s.setRing r { x with state := .disabled, enable := false, head := none, copy := none })) ∧
    (∀ e n, e < 64 → n < 32 → v &&& Reg.reserved (.edgeXsCfg e n) = 0 →
      (xsCfgGood s e n v = true → ∃ t, exec (.edgeXsCfg who e n v) s = .next t ∧ t.reg (.edgeXsCfg e n) = v ∧ t.xsCount e n = 0 ∧
        t.rings = s.rings ∧ t.staging = s.staging) ∧
      (xsCfgGood s e n v = false → exec (.edgeXsCfg who e n v) s = .next (s.setBit .edgeStatus 2)))

/-! ### Springs (R260 to R288) -/

/-- R267, R269 to R279 and R285: a compute engine does one chunk of its command: what the chunk reads is worked on, its results are
written to the own stack, and nothing else of memory changes; the command stands at the next chunk, finished after its last. A chunk
with an uncorrectable read, or one whose results meet an uncorrectable unit, fails the command with cause 10, memory as it was. -/
def Obligations.SpringComputeChunks : Prop :=
  ∀ (n op : Nat) (i : Instr) (s u v : State) (c : SpringCmd), engineOn s n false c u → cOp c.desc = op →
    (op, i) ∈ [(0x01, (.gacc n : Instr)), (0x02, .adam n), (0x03, .mom n), (0x04, .cast n), (0x08, .lrinit n), (0x09, .lrp n),
      (0x0A, .lrorth n), (0x0B, .lrq n), (0x0C, .lrres n)] →
    s.faults.batch = none →
    (∀ bs w, readRanges n (chunkReads c.desc c.chunk) (gathering u) = (some bs, v) →
      writeStack v n (chunkWork c.desc c.chunk bs).writes = (true, w) →
      ∃ t nan, exec i s = .next t ∧ t.mem = w.mem ∧
        (t.spring n).queue = (w.spring n).queue.map (fun y => if y.no = c.no then
          { c with chunk := c.chunk + 1, nan := nan, finished := decide (chunkCount c.desc ≤ c.chunk + 1) } else y) ∧
        ∀ a, (∀ p ∈ (chunkWork c.desc c.chunk bs).writes, ∀ j, j < p.2.length → a ≠ stackAddr s n (p.1 + j)) →
          Memory.read t.mem a = Memory.read s.mem a) ∧
    (readRanges n (chunkReads c.desc c.chunk) (gathering u) = (none, v) ∨
        (∃ bs w, readRanges n (chunkReads c.desc c.chunk) (gathering u) = (some bs, v) ∧
          writeStack v n (chunkWork c.desc c.chunk bs).writes = (false, w)) →
      ∃ t, exec i s = .next t ∧ t.mem = s.mem ∧ (t.spring n).failC = some (c, 10) ∧ (t.spring n).compute = none)

/-- R280, R281 and R364: a move engine does one chunk of a GATH or of a SNAP. A SNAP's chunk stands at its lake address, all else
of memory as it was; a GATH's chunk goes to every destination of its list, and of this device's memory nothing else changes. A
SNAP whose lake range its engine may not write fails with cause 5. Each
waits while a port that it writes to here does not take the chunk. That a GATH awaits the acknowledgements of the chunk before, and that
the port serves it within the step, are the model's choices (log entries 31 and 22). -/
def Obligations.SpringMoveChunks : Prop :=
  ∀ (n : Nat) (s u v w : State) (c : SpringCmd) (rs : List (List Byte)), engineOn s n true c u →
    s.faults.batch = none →
    (cOp c.desc = 0x11 →
      readRanges n [(cA c.desc 0 + 4096 * c.chunk, min 4096 (cCount c.desc - 4096 * c.chunk))] (gathering u) = (some rs, v) →
      let bs := rs.getD 0 []
      let a0 := cA c.desc 1 + 4096 * c.chunk
      (memDenied v a0 bs.length true = none → outwardFree v c bs.length [a0] = true → outwardLocal v c a0 bs = (true, w) →
        ∃ t, exec (.snap n) s = .next t ∧
          (t.spring n).queue = (w.spring n).queue.map (fun y => if y.no = c.no then
            { c with chunk := c.chunk + 1, finished := decide (chunkCount c.desc ≤ c.chunk + 1) } else y) ∧
          ∀ a, Memory.read t.mem a = if a0 ≤ a ∧ a < a0 + bs.length then bs.getD (a - a0) 0 else Memory.read s.mem a) ∧
      (∀ x, memDenied v a0 bs.length true = some x →
        ∃ t, exec (.snap n) s = .next t ∧ t.mem = s.mem ∧ (t.spring n).failM = some (c, 5))) ∧
    (cOp c.desc = 0x10 → cmdTags s n c = [] →
      readRanges n [(cA c.desc 1, 8 * cA c.desc 2), (cA c.desc 0 + 4096 * c.chunk, min 4096 (cCount c.desc - 4096 * c.chunk))]
          (gathering u) = (some rs, v) →
      let list := (List.range (cA c.desc 2)).map fun i => bytesAt (rs.getD 0 []) (8 * i) 8
      let bs := rs.getD 1 []
      (∀ a ∈ list, gathEntryBad v n c.desc a = false) →
      outwardFree v c (min 4096 (cCount c.desc - 4096 * c.chunk))
        ((list.filter fun a => !gathRemote v a).map fun a => addrLocal (a + 4096 * c.chunk)) = true →
      gathWrite n c bs list v = (none, w) →
        ∃ t, exec (.gath n) s = .next t ∧ t.mem = w.mem ∧
          (t.spring n).queue = (w.spring n).queue.map (fun y => if y.no = c.no then
            { c with chunk := c.chunk + 1, finished := decide (chunkCount c.desc ≤ c.chunk + 1) } else y) ∧
          ∀ a, (∀ e ∈ list, e / 2 ^ 43 = s.dev →
              ¬(addrLocal (e + 4096 * c.chunk) ≤ a ∧ a < addrLocal (e + 4096 * c.chunk) + bs.length)) →
            Memory.read t.mem a = Memory.read s.mem a)

/-- R266 and R286: a command is accepted with the next number while fewer than 32 are, and a failed one that comes again is taken
up where it failed; a finished command, its remote writes acknowledged, leaves the queue, is counted, and its descriptor's effects
stand performed. R284, R286 and R415: RESUME ends TRAPPED, and in frost is ignored with WIGN; DROP_C and DROP_M drop the failed
command of an engine. -/
def Obligations.SpringCommands : Prop :=
  (∀ (n : Nat) (s : State) (x : Spring), springWorks s n = true → s.spring n = x →
     (∀ c cs, x.arriving = c :: cs → sameFailed c x.failC = false → sameFailed c x.failM = false → x.queue.length < 32 →
       let no := s.regFld (.sprgCmdno n) 0 48
       ∃ t, exec (.springCommandAccept n) s = .next t ∧ t.spring n = { x with arriving := cs, queue := x.queue ++ [{ c with no := no }] } ∧
         t.regFld (.sprgCmdno n) 0 48 = (no + 1) % 2 ^ 48 ∧ t.mem = s.mem ∧ t.rings = s.rings) ∧
     (∀ c cs, x.arriving = c :: cs → sameFailed c x.failC = true →
       exec (.springCommandAccept n) s = .next (s.setSpring n { x with arriving := cs, failC := none })) ∧
     (∀ c cs, x.arriving = c :: cs → sameFailed c x.failC = false → sameFailed c x.failM = true →
       exec (.springCommandAccept n) s = .next (s.setSpring n { x with arriving := cs, failM := none })) ∧
     (∀ eng c j, x.running (eng == .move) = some c → c.finished = true → cmdTags s n c = [] → (s.ring c.ring).job c.idx = some j →
       ∃ t, exec (.springCommandComplete n eng) s = .next t ∧ (t.spring n).queue = x.queue.filter (fun y => y.no ≠ c.no) ∧
         (t.spring n).trapped = (x.trapped || c.nan) ∧
         t.regFld (.sprgDone n) 0 48 = min (s.regFld (.sprgDone n) 0 48 + 1) (2 ^ 48 - 1) ∧
         (t.ring c.ring).job c.idx = some { j with stage := .done, nan := c.nan } ∧ t.mem = s.mem)) ∧
  (∀ (who : Half) (n : Nat) (s : State) (x : Spring), clusterRuns s who = true → n < 16 → s.spring n = x →
     (s.faults.inFrost = false → exec (.springResume who n) s = .next (s.setSpring n { x with trapped := false })) ∧
     (s.faults.inFrost = true → exec (.springResume who n) s = .next (s.setBit .sprgSummary 32)) ∧
     (∀ c k, x.failC = some (c, k) →
       exec (.dropC who n) s =
         .next (s.setSpring n { x with queue := x.queue.filter (fun y => y.no ≠ c.no), failC := none })) ∧
     (∀ c k, x.failM = some (c, k) →
       exec (.dropM who n) s =
         .next (s.setSpring n { x with queue := x.queue.filter (fun y => y.no ≠ c.no), failM := none })))
/-! ### Links (R310 to R329) -/

/-- R311, R314, R318 and R319: a link that trains sends INIT flits; one trained sends, while the replay buffer has room, the next
codeword, ten flits under the next number, slot 0 of every fourth a control flit, and during a replay the codewords of the buffer again.
A trained link takes its partner's device and link number from an INIT flit. A codeword that cannot be decoded is asked for again and
counted, one with corrected symbols is counted; one out of turn is discarded; one in turn whose control and synchronisation flits check
is taken in, and where one of these does not check the whole codeword is asked for again. R314, R319, R320, R322 and R329: a control flit
returns credits, none beyond a share, and acknowledges codewords; with NAK it starts a replay, the sixteenth of one codeword in
succession taking the link out of service; with FROST it takes the link out of service with cause 4, trained as it was. -/
def Obligations.LinkCodewordsAndControl : Prop :=
  (∀ (l : Nat) (s : State) (x : Link), s.live = true → l < 36 → s.link l = x →
     (linkTrains x = true →
       exec (.codewordTransmit l) s = .next (s.setLink l { x with wire := List.replicate 10 ⟨0, initFlit s l⟩ })) ∧
     (linkTrained s l = true → linkTrains x = false →
       (∀ n c, x.replayAt = some n → (x.replay.find? fun c => c.num = n) = some c →
         exec (.codewordTransmit l) s = .next (s.setLink l { x with replayAt := afterReplay x n, wire := c.flits })) ∧
       (x.replayAt = none → x.replay.length < 1024 →
         ∃ t c, exec (.codewordTransmit l) s = .next t ∧ (t.link l).txNum = (x.txNum + 1) % 65536 ∧
           (t.link l).replay = x.replay ++ [c] ∧ (t.link l).wire = c.flits ∧ c.num = x.txNum ∧ c.flits.length = 10 ∧ t.mem = s.mem ∧
           (x.txNum % 4 = 0 → c.flits.head? = some ⟨0, controlFlit s l⟩)) ∧
       (x.replayAt = none → 1024 ≤ x.replay.length → exec (.codewordTransmit l) s = .next s))) ∧
  (∀ (l : Nat) (s : State) (x : Link) (cw : Codeword), s.live = true → l < 36 → s.link l = x →
     (∀ fec p, x.state = .training → fec ≠ .uncorrectable → initOf cw = some p →
       exec (.codewordReceive l cw fec) s = .next (s.setLink l { x with init := some p })) ∧
     (x.state = .up → recalRuns s (.link l) = true →
       ∀ fec, ∃ t, exec (.codewordReceive l cw fec) s = .next t ∧ (t.link l).nak = some x.rxNum ∧ (t.link l).rxNum = x.rxNum ∧
         (t.link l).received = x.received) ∧
     (x.state = .up → recalRuns s (.link l) = false →
       (∀ fec, ∃ t, exec (.codewordReceive l cw fec) s = .next t ∧ (cw.num % 65536 ≠ x.rxNum → t.link l = x) ∧ t.regFld (.linkFec l) 0 32 =
         if fec = .corrected then min (s.regFld (.linkFec l) 0 32 + 1) 0xFFFFFFFF else s.regFld (.linkFec l) 0 32) ∧
       (cw.num % 65536 = x.rxNum →
         ∃ t, exec (.codewordReceive l cw .uncorrectable) s = .next t ∧ (t.link l).nak = some x.rxNum ∧ (t.link l).rxNum = x.rxNum ∧
           (t.link l).received = x.received ∧
           t.regFld (.linkFec l) 48 16 = min (s.regFld (.linkFec l) 48 16 + 1) 0xFFFF) ∧
       (∀ fec, fec ≠ .uncorrectable → cw.num % 65536 = x.rxNum → x.taking = none → x.unchecked = [] → (∀ f ∈ cw.flits, f.kind = 0 ∨ f.kind = 3) →
         ((∀ f ∈ cw.flits, flitGood f.bits [] = true) →
           ∃ t, exec (.codewordReceive l cw fec) s = .next t ∧ (t.link l).rxNum = (x.rxNum + 1) % 65536 ∧
             (t.link l).control = x.control ++ (cw.flits.filter fun f => f.kind = 0).map (·.bits) ∧
             (t.link l).received = x.received ++ (cw.flits.filter fun f => f.kind = 3).map fun f => .sync f.bits) ∧
         ((∃ f ∈ cw.flits, flitGood f.bits [] = false) →
           ∃ t, exec (.codewordReceive l cw fec) s = .next t ∧ (t.link l).nak = some x.rxNum ∧ (t.link l).rxNum = x.rxNum ∧
             (t.link l).control = x.control ∧ (t.link l).received = x.received)))) ∧
  (∀ (l : Nat) (s : State) (x : Link) (f : BitVec 512) (fs : List (BitVec 512)), s.live = true → linkTrained s l = true →
     s.link l = x → x.control = f :: fs → ffld f 0 1 ≠ 1 →
       let kept := x.replay.filter fun c => (c.num + 65535 - ffld f 2 2) % 65536 < 32768
       let n := ffld f 4 2
       (ffld f 1 1 % 4 = 0 → ∃ t, exec (.controlFlitReceive l) s = .next t ∧ (t.link l).control = fs ∧ (t.link l).replay = kept ∧
         (∀ v, v < 16 → linkCredit t l v = min (linkCredit s l v + ffld f (0x0C + 2 * v) 2) (vcShare s l v))) ∧
       (ffld f 1 1 % 4 = 2 → (x.lastNak ≠ some n ∨ x.replays < 15) →
         ∃ t, exec (.controlFlitReceive l) s = .next t ∧ (t.link l).replayAt = some n ∧ (t.link l).replay = kept ∧
           t.regBit .linkStatus 0 = true ∧
           t.regFld (.linkFec l) 32 16 = min (s.regFld (.linkFec l) 32 16 + 1) 0xFFFF) ∧
       (ffld f 1 1 % 4 = 2 → x.state = .up → x.lastNak = some n → 15 ≤ x.replays → (∃ c ∈ kept, c.num = n) →
         ∃ t, exec (.controlFlitReceive l) s = .next t ∧ (t.link l).state = .down ∧ (t.link l).cause = 1 ∧
           t.ready (.link l) = false) ∧
       (ffld f 1 1 % 2 = 1 → x.state = .up → ∃ t, exec (.controlFlitReceive l) s = .next t ∧ (t.link l).state = .partnerFrost ∧
         (t.link l).cause = 4 ∧ t.ready (.link l) = false ∧ (t.link l).txNum = x.txNum ∧ (t.link l).rxNum = x.rxNum ∧
         (t.link l).replay = kept))

/-- R25, R245, R315, R323, R326 and R364: a WRITE for this device that its port takes stores its bytes, and nothing else of memory
changes, and an ACK for it goes to the egress that the switch's table gives; a READ for it that its port takes, with staging held for the
answer, is answered there with the bytes read; one whose address is refused is not performed, and a record names its sender; a packet
for another device goes to its egress, its hop counted. That the port serves it within the step is the model's choice (log entry 22). -/
def Obligations.LinkPackets : Prop :=
  ∀ (l : Nat) (s : State) (type : Nat) (i : Instr) (hd : BitVec 512) (body : List (BitVec 512)) (p : Packet), s.live = true →
    s.faults.inFrost = false → s.faults.batch = none → l < 36 → pickUnit type (s.link l).received = some (.packet hd body) →
    packetOf hd body = p → .bridge (linkHalf l) ∉ s.broken → .routes (linkHalf l) ∉ s.broken →
    (type, i) ∈ [(1, (.write l : Instr)), (2, .read l), (3, .resp l)] →
    let s' := gathering (freeUnit s l (.packet hd body))
    let k := bridgeRequester (linkHalf l) p.frame
    let bs := p.body.flatMap flitBytes
    (type = 1 → p.dst = s.dev → packetMay l true (fun _ _ => true) s (.packet hd body) = true →
      memDenied s' p.addr (p.body.length * 64) true = none →
      ∀ w, portWrite (passPort s' p.addr (p.body.length * 64) k) p.addr bs = (true, w) →
        ∃ t, exec i s = .next t ∧
          (∀ a, Memory.read t.mem a = if p.addr ≤ a ∧ a < p.addr + bs.length then bs.getD (a - p.addr) 0 else Memory.read s.mem a) ∧
          (∀ e, egress w (linkHalf l) p.src s.dev (noticeVc p.frame) = some e →
            (switchRequester (noticeVc p.frame = 0),
              LinkUnit.sync (SyncFlit.flit ⟨2, noticeVc p.frame, p.src, s.dev, 1, p.tag, 0, 0⟩)) ∈ (t.link e).queue)) ∧
    (type = 2 → p.dst = s.dev → packetMay l false (respRoom (linkHalf l)) s (.packet hd body) = true →
      memDenied s' p.addr p.len false = none →
      ∀ b w, portRead (passPort s' p.addr p.len k) p.addr p.len = (some b, w) →
        ∃ t, exec i s = .next t ∧ t.mem = s.mem ∧
          (∀ e, egress w (linkHalf l) p.src s.dev p.vc = some e →
            (k, { p with ptype := 3, dst := p.src, src := s.dev, addr := 0, hops := 1,
                         body := bodyFlits (s.memBytes p.addr p.len) }.unit) ∈ (t.link e).queue)) ∧
    (∀ y, type ≠ 3 → p.dst = s.dev →
      memDenied s' p.addr (if type = 1 then p.body.length * 64 else p.len) (type == 1) = some y →
        ∃ t, exec i s = .next t ∧ t.mem = s.mem ∧ t.regBit .fltStatus 3 = true ∧
          (s.far = [] → t.faults.seq = s.faults.seq + 1)) ∧
    (∀ e, p.dst ≠ s.dev → p.hops < 8 → egress s' (linkHalf l) p.dst p.src p.vc = some e →
      ∃ t more, exec i s = .next t ∧ t.mem = s.mem ∧
        (t.link e).queue = (s.link e).queue ++ [(switchRequester p.frame, { p with hops := p.hops + 1 }.unit)] ++ more)

/-- R208, R210, R315, R316, R323 and R327: what comes back over a link: the data of a RESP to the place of its request, the last to
complete it; an INC to the increment plane; an ACK ends its write; an UNREACH fails its request, or for an increment is a
synchronisation error. Each is then followed by what settlePorts does: requests that can now go out. -/
def Obligations.LinkReturns : Prop :=
  ∀ (l : Nat) (s : State), s.live = true → s.faults.inFrost = false → s.faults.batch = none → l < 36 →
    (∀ hd body, pickUnit 3 (s.link l).received = some (.packet hd body) → (packetOf hd body).dst = s.dev →
      let bs := body.flatMap flitBytes
      ∀ t0 j, (s.tags.find? fun t => t.tag = (packetOf hd body).tag && !t.isWrite) = some t0 → t0.spring = false →
        (s.ring t0.ring).job t0.idx = some j → jobAlive s t0.ring t0.idx = true →
        (bs.length < t0.due → ∃ u, exec (.resp l) s = .next (settlePorts u) ∧
          (u.ring t0.ring).job t0.idx = some { j with buf := Memory.writeN j.buf t0.addr bs } ∧
          u.tags = s.tags.map fun u => if u.tag = t0.tag then { u with addr := u.addr + bs.length, due := u.due - bs.length } else u) ∧
        (t0.due ≤ bs.length → ∃ u, exec (.resp l) s = .next (settlePorts (byClass (fun u => settle u t0.ring) u)) ∧
          (u.ring t0.ring).job t0.idx = some { j with buf := Memory.writeN j.buf t0.addr bs, out := j.out - 1 } ∧
          u.tags = s.tags.filter fun y => y.tag ≠ t0.tag)) ∧
    (∀ f y, pickUnit 17 (s.link l).received = some (.sync f) → syncFlitOf f = y → y.dst = s.dev → y.object % 2 ^ 16 / 64 < 768 →
      y.object % 64 < 48 →
      ∃ u, exec (.inc l) s = .next (settlePorts u) ∧ u.counters = s.counters ∧
        u.incs = s.incs ++ [⟨y.object % 2 ^ 16 / 64, y.object % 64, BitVec.ofNat 32 y.amount, sourceOf y.src y.source⟩]) ∧
    (∀ f y t0, pickUnit 18 (s.link l).received = some (.sync f) → syncFlitOf f = y → y.dst = s.dev →
      (s.tags.find? fun t => t.tag = y.object && t.isWrite) = some t0 →
      (t0.spring = true → ∃ u, exec (.ack l) s = .next (settlePorts u) ∧ u.tags = s.tags.filter fun z => z.tag ≠ y.object) ∧
      (∀ j, t0.spring = false → (s.ring t0.ring).job t0.idx = some j →
        ∃ u, exec (.ack l) s = .next (settlePorts (byClass (fun u => settle u t0.ring) u)) ∧
          (u.ring t0.ring).job t0.idx = some { j with out := j.out - 1 } ∧ u.tags = s.tags.filter fun z => z.tag ≠ y.object)) ∧
    (∀ f y, pickUnit 19 (s.link l).received = some (.sync f) → syncFlitOf f = y → y.dst = s.dev →
      (y.object < 2 ^ 16 → ∃ u, exec (.unreach l) s = .next (settlePorts u) ∧ u.regBit .syncStatus 3 = true ∧
        u.faults.seq = s.faults.seq + 1 ∧ u.tags = s.tags) ∧
      (∀ t0 j, 2 ^ 16 ≤ y.object → (s.tags.find? fun t => t.tag = y.object) = some t0 → t0.spring = false →
        (s.ring t0.ring).job t0.idx = some j → jobAlive s t0.ring t0.idx = true →
          ∃ t j', exec (.unreach l) s = .next t ∧ (t.ring t0.ring).job t0.idx = some j' ∧ j'.stage = .failed 11 ∧ j'.desc = j.desc))

/-- R312, R314, R320, R322, R327, R329 and R337: a link that loses block lock leaves service with cause 2, its ready bit down; one enabled
trains, and once it has its partner's INIT and nothing stands in its input buffer it is, within 5,000 ns of round trip, UP with the
credits of its shares and ready, and beyond that TRAINING with cause 5; one with a frosted partner has then trained again and stays out
of service; one disabled while UP leaves service with cause 3; RETRAIN trains again. A request out for LINK_RTO fails with cause 11. That
training waits for the input buffer is the model's choice (log entry 103). -/
def Obligations.LinkStates : Prop :=
  ∀ (who : Half) (l rtt pdev plink : Nat) (s : State) (x : Link), s.link l = x → l < 36 →
    (s.live = true → x.state = .up → ∃ t, exec (.blockLockTimeout l) s = .next t ∧ (t.link l).state = .down ∧
      (t.link l).cause = 2 ∧ t.ready (.link l) = false ∧ t.regBit .linkStatus 1 = true) ∧
    (s.live = true → x.enable = true → x.init = some (pdev, plink) → x.received = [] →
      (x.state = .training → rtt ≤ 5000000 → ∃ t, exec (.linkTrainingComplete l rtt pdev plink) s = .next t ∧ (t.link l).state = .up ∧
        t.ready (.link l) = true ∧ (t.link l).pdev = pdev ∧ (t.link l).plink = plink ∧ (t.link l).txNum = 0 ∧ (t.link l).rxNum = 0 ∧
        t.reg (.linkRtt l) = BitVec.ofNat 64 rtt ∧
        ∀ v, v < 16 → linkCredit t l v = s.regFld (.linkCred l (v / 4)) (16 * (v % 4)) 16) ∧
      (x.state = .partnerFrost → rtt ≤ 5000000 → ∃ t, exec (.linkTrainingComplete l rtt pdev plink) s = .next t ∧
        (t.link l).state = .partnerFrost ∧ (t.link l).retrained = true ∧ t.ready (.link l) = s.ready (.link l)) ∧
      (x.state = .training → 5000000 < rtt → ∃ t, exec (.linkTrainingComplete l rtt pdev plink) s = .next t ∧
        t.link l = { x with cause := 5 } ∧ t.reg (.linkRtt l) = BitVec.ofNat 64 (rtt % 2 ^ 32) ∧
        t.ready (.link l) = s.ready (.link l))) ∧
    (clusterRuns s who = true →
      (x.state = .disabled → ∃ t, exec (.linkCtlEnable who l true) s = .next t ∧ (t.link l).state = .training ∧
        (t.link l).enable = true) ∧
      (x.state = .up → ∃ t, exec (.linkCtlEnable who l false) s = .next t ∧ (t.link l).state = .disabled ∧
        (t.link l).enable = false ∧ (t.link l).cause = 3 ∧ t.ready (.link l) = false) ∧
      (x.enable = true → ∃ t, exec (.retrain who l) s = .next t ∧ (t.link l).state = .training ∧ (t.link l).enable = true ∧
        (x.state = .up → t.ready (.link l) = false))) ∧
    (∀ tag t0 j, (s.tags.find? fun t => t.tag = tag) = some t0 → s.working = true → t0.failed = false → t0.spring = false →
      t0.since + s.regFld .linkRto 0 20 * 1000 ≤ s.time.elapsed → (s.ring t0.ring).job t0.idx = some j →
      jobAlive s t0.ring t0.idx = true →
        ∃ t j', exec (.linkRtoExpiry tag) s = .next t ∧ (t.ring t0.ring).job t0.idx = some j' ∧ j'.stage = .failed 11 ∧
          j'.desc = j.desc)

/-! ### The timing chain (R330 to R338) -/

/-- R331, R332, R334, R336 and R341: what a message that arrives does. One whose CRC fails, of whatever type, is counted and discarded, and so is one
that has travelled 64 hops. A follower notes the position that a TIME gives it and, under SRC 3 in the direction it follows,
measures its phase and takes the leader's frequency; takes a FRAME's instant there; records an ALARM, which with code 1 and FROST_FOLLOW brings frost; and sends
each on at the other port, a hop further, TIME and FRAME with the delay of the segment and the residence added. A leader's own
TIME tells it the ring's size; another leader's is a conflict in which the higher ID gives way. Which HOPS a message is discarded
at, and which of two leaders forwards, are the model's readings (log entry 67). -/
def Obligations.ChainMessages : Prop :=
  ∀ (x : ChainSide) (msg : BitVec 256) (residence stamp : Nat) (freq : Int) (s : State) (m : ChainMsg) (p : ChainPort),
    chainUp s x = true → chainMsgOf msg = m → s.chain.port x = p →
    (chainGood msg = false →
      ∀ i ∈ [(.time x msg ⟨residence, freq⟩ : Instr), .frame x msg residence, .alarm x msg, .probe x msg residence, .echo x msg stamp],
        exec i s = .next (s.countReg .chainErr 16 16 1)) ∧
    (chainGood msg = true → p.valid = true →
      let on : ChainMsg := { m with hops := m.hops + 1, corr := m.corr + (p.delay : Int) + (residence : Int) }
      (m.mtype = 1 → m.origin ≠ s.dev → 64 ≤ m.hops → exec (.time x msg ⟨residence, freq⟩) s = .next (s.countReg .chainErr 0 16 1)) ∧
      (m.mtype = 1 → m.origin = s.dev → leads s = true →
        ∃ t, exec (.time x msg ⟨residence, freq⟩) s = .next t ∧ t.chain.ring = min m.hops 64 ∧ t.chain.tx = s.chain.tx) ∧
      (m.mtype = 1 → m.origin ≠ s.dev → m.hops < 64 → leads s = true →
        ∃ t, exec (.time x msg ⟨residence, freq⟩) s = .next t ∧ t.regBit .chainEvent 3 = true ∧
          (t.chain.gaveWay = true ↔ m.origin < s.dev)) ∧
      (m.origin ≠ s.dev → m.hops < 64 → leads s = false → chainUp s (otherSide x) = true →
        (m.mtype = 1 → ∃ t, exec (.time x msg ⟨residence, freq⟩) s = .next t ∧ t.chain.tx = s.chain.tx ++ [(otherSide x, on.bits)] ∧
          (if arrivesCcw x then t.chain.ccwHops else t.chain.cwHops) = some m.hops ∧
          (timeSrc s ≠ 3 → t.time = s.time) ∧
          (if arrivesCcw x then t.chain.ccwSeen else t.chain.cwSeen) = s.time.elapsed ∧
          (timeSrc s = 3 → t.chain.usingCcw = arrivesCcw x → t.time.rate = freq ∧
            t.reg .timeErr = BitVec.ofNat 64 (((leaderTime s x m - (discAt t : Int)) / (oneNs : Int)) % (2 ^ 32 : Int)).toNat)) ∧
        (m.mtype = 2 → ∃ t, exec (.frame x msg residence) s = .next t ∧ t.chain.tx = s.chain.tx ++ [(otherSide x, on.bits)] ∧
          (s.chain.usingCcw = arrivesCcw x → timeSrc s = 3 → t.time = { s.time with chainFrame := some (m.value, m.aux) })) ∧
        (m.mtype = 3 → ∃ t, exec (.alarm x msg) s = .next t ∧
          t.chain.tx = s.chain.tx ++ [(otherSide x, { m with hops := m.hops + 1 }.bits)] ∧ t.regBit .chainEvent 0 = true ∧
          (s.regBit .chainAlarm 63 = false →
            t.reg .chainAlarm = BitVec.ofNat 64 (2 ^ 63 + m.origin * 2 ^ 48 + m.value % 65536) ∧ t.reg .chainAlarmTime = s.time.ns) ∧
          (m.value % 65536 = 1 → s.regBit .chainCfg 1 = true → s.faults.batch = none → t.faults.signal.isSome = true))))

/-- R330, R332, R333, R335 and R336: a leader sends TIME both ways every 1,024 ns, and software an alarm of a code from 0x100 up; a
port probes its segment, answers a PROBE with its residence, and makes of an ECHO a measurement of the one-way delay, by which a valid
segment that has moved by more than 2 ns is lost; a port that loses lock has no valid segment, and one that regains it measures anew;
the bypass opens once both ports
are ready. -/
def Obligations.ChainPorts : Prop :=
  ∀ (who : Half) (x : ChainSide) (msg : BitVec 256) (residence stamp code : Nat) (v : Word) (s : State) (p : ChainPort),
    s.chain.port x = p →
    (chainUp s .cin = true → chainUp s .cout = true →
      (leads s = true → s.chain.timeDue ≤ s.time.elapsed →
        let m : ChainMsg := ⟨1, 1, s.dev, false, SMap.getD s.chain.seqs 1 0, s.time.ns.toNat, 0, s.time.frac.toNat⟩
        ∃ t, exec .chainTimeSend s = .next t ∧ t.chain.timeDue = s.time.elapsed + 1024 ∧
          t.chain.tx = s.chain.tx ++ [(.cout, m.bits), (.cin, { m with ccw := true }.bits)]) ∧
      (clusterRuns s who = true → v &&& Reg.reserved .chainAlarmTx = 0 → Word.fld v 0 16 = code →
        (0x100 ≤ code →
          let m : ChainMsg := ⟨3, 1, s.dev, false, SMap.getD s.chain.seqs 3 0, code, 0, 0⟩
          ∃ t, exec (.chainAlarmTx who v) s = .next t ∧
            t.chain.tx = s.chain.tx ++ [(.cout, m.bits), (.cin, { m with ccw := true }.bits)]) ∧
        (code < 0x100 → exec (.chainAlarmTx who v) s = .next s))) ∧
    (chainUp s x = true →
      (p.probeDue ≤ s.time.elapsed → ∃ t, exec (.probeSend x stamp) s = .next t ∧
        t.chain.port x = { p with probe := some stamp, probeDue := s.time.elapsed + 16000 } ∧
        t.chain.tx = s.chain.tx ++ [(x, (⟨4, 1, s.dev, x == .cin, SMap.getD s.chain.seqs 4 0, 0, 0, 0⟩ : ChainMsg).bits)]) ∧
      (chainGood msg = true → (chainMsgOf msg).mtype = 4 → ∃ t, exec (.probe x msg residence) s = .next t ∧
        t.chain.tx = s.chain.tx ++ [(x, (⟨5, 1, s.dev, x == .cin, SMap.getD s.chain.seqs 5 0, residence, 0, 0⟩ : ChainMsg).bits)]) ∧
      (∀ t0, chainGood msg = true → (chainMsgOf msg).mtype = 5 → p.probe = some t0 →
        let d := (stamp - t0 - (chainMsgOf msg).value) / 2
        let meas := (d :: p.meas).take 8
        (p.valid = false ∨ apart d p.delay ≤ 2 * 65536 → ∃ t, exec (.echo x msg stamp) s = .next t ∧
          t.chain.port x = { p with
            meas := meas, delay := if meas.length = 8 then meas.sum / 8 else p.delay, valid := p.valid || agree meas,
            probe := none }) ∧
        (p.valid = true → 2 * 65536 < apart d p.delay → ∃ t, exec (.echo x msg stamp) s = .next t ∧
          t.chain.port x = { p with valid := false, meas := [], probe := none } ∧ t.regBit .chainEvent 1 = true ∧
          (if arrivesCcw x then t.chain.ccwHops else t.chain.cwHops) = none)) ∧
      (∃ t, exec (.chainLockLoss x) s = .next t ∧
        t.chain.port x = { p with lock := false, valid := false, meas := [], probe := none } ∧ t.regBit .chainEvent 2 = true)) ∧
    (s.live = true → s.chain.bypassOpen = true → p.lock = false → ∃ t, exec (.chainLockRegained x) s = .next t ∧
      t.chain.port x = { p with lock := true, probe := none, meas := [] } ∧ t.time = s.time) ∧
    (s.live = true → s.chain.bypassOpen = false →
      (chainPortReady s .cin = true → chainPortReady s .cout = true →
        exec .bypassOpen s = .next { s with chain := { s.chain with bypassOpen := true } }) ∧
      (chainPortReady s .cin = false ∨ chainPortReady s .cout = false → exec .bypassOpen s = .next s))

/-! ### Reference time and the service controls (R306 to R308, R339 to R361) -/

/-- R332, R340, R341, R343, R345, R347, R356 and R360: a frame starts. Its instant comes from the timebase, or from REF_SYNC or a FRAME
message; its count is of that instant under the format now in force, or the next, or the message's; the formats, line events and
SVC controls written take effect; frame start goes out to the cores unless in frost, after the line events of earlier cycles and before
those of its own. A TIME_SET, or a step that has waited for the reference's frame start, steps the timebase there, counted and announced;
a new senior half's unit takes over there without a step. When SRC 1 and SRC 3 start a frame, and the rounding of instants, are the
model's readings (log entries 55 to 57). -/
def Obligations.FrameStarts : Prop :=
  ∀ (s : State) (at_ : Nat), s.live = true → frameDue s = true → frameStartAt s = at_ → .timeUnit s.time.active ∉ s.broken →
    let stays := s.config.elected = false ∨ s.time.active = s.config.senior
    (s.time.setPending = none → stepDue s = false → ∃ t pre post, exec .frameStart s = .next t ∧ t.time.frameAt = at_ ∧
      (stays → t.time.ns = s.time.ns ∧ t.time.frac = s.time.frac ∧ t.time.active = s.time.active) ∧
      (¬stays → t.time.ns = s.time.other.ns ∧ t.time.frac = s.time.other.frac ∧ t.time.active = s.config.senior ∧
        t.regBit .timeEvent 4 = true) ∧
      t.time.line = 0 ∧ t.time.fmt = s.reg .timeFmt ∧ t.time.delivered = [] ∧
      t.time.lev = (List.range 16).map (fun k => s.reg (.timeLev k)) ∧
      (timeSrc s ≠ 1 → timeSrc s ≠ 3 → at_ = nextInstant s.time.fmt s.time.frameAt ∧
        t.time.frame = BitVec.ofNat 48 (framesAt (s.reg .timeFmt) at_)) ∧
      (timeSrc s = 1 → at_ = s.time.at ∧ t.time.frame = s.time.frame + 1) ∧
      (∀ v c, timeSrc s = 3 → s.time.chainFrame = some (v, c) → at_ = v * oneNs ∧ t.time.frame = frameNear s.time.frame c) ∧
      t.svc.shareCfg = s.reg .svcShareCfg ∧ t.svc.deadline = s.reg .svcDeadline ∧ t.svc.qw = s.reg .svcQw ∧ t.svc.slice = 0 ∧
      t.svc.held = decide (t.svc.share ≤ 0) ∧ t.svc.margin = none ∧ t.svc.count = 0 ∧
      (shareAdapt (s.reg .svcShareCfg) = false → t.svc.share = shareMax (s.reg .svcShareCfg)) ∧
      (s.faults.inFrost = false → t.time.out = s.time.out ++ pre ++ [(0, [])] ++ post ∧ ∀ p ∈ pre ++ post, 0 < p.1 ∧ p.1 ≤ 16) ∧
      (s.faults.inFrost = true → t.time.out = s.time.out) ∧ t.mem = s.mem) ∧
    (∀ v, s.time.setPending = some v → stays → ∃ t, exec .frameStart s = .next t ∧ t.time.frameAt = v.toNat * oneNs ∧
      t.time.at = (v.toNat * oneNs + (s.time.at - at_)) % 2 ^ 96 ∧ t.time.setPending = none ∧ t.time.steps = s.time.steps + 1 ∧
      t.regBit .timeEvent 3 = true ∧
      t.regFld .timeStatus 48 16 = min (s.regFld .timeStatus 48 16 + 1) 0xFFFF) ∧
    (∀ p, s.time.setPending = none → stepDue s = true → s.time.stepPending = some p → stays →
      ∃ t, exec .frameStart s = .next t ∧ t.time.frameAt = ((at_ : Int) + p.1).toNat ∧
        t.time.at = (((at_ : Int) + p.1).toNat + (s.time.at - at_)) % 2 ^ 96 ∧ t.time.stepPending = none ∧ t.time.slew = 0 ∧
        t.time.steps = s.time.steps + 1 ∧ t.regBit .timeEvent 3 = true)

/-- R334, R340, R341, R344, R345 and R346: a measurement of the disciplined unit within LOCK_NS counts toward LOCKED, which the sixteenth
in succession reaches, and is slewed out; one beyond LOCK_NS but within STEP_US is slewed out and leaves a LOCKED unit so; one beyond
both leaves ACQUIRING and waits to be stepped out at the reference's next frame start. Each brings the reference's frequency. A reference
that has been missing for its limit is held over, and with HOLD_S 0 the unit is FREE at once; HOLDOVER ends FREE after HOLD_S. A follower
of the chain one of whose directions has stopped moves to the other. A message at the port of PTP_PORT is stamped. The model's elapsed
time, its slews and the limit of a direction are log entries 58, 59, 64, 89 and 104. -/
def Obligations.TimeReferences : Prop :=
  ∀ (h : Half) (err freq : Int) (frame : List Byte) (s : State), s.live = true →
    let e : Int := err * oneNs
    let closes (t : State) (slew : Int) (step : Option (Int × Nat)) : Prop :=
      (discUnit s = s.time.active → t.time.slew = slew ∧ t.time.stepPending = step) ∧
        (discUnit s ≠ s.time.active → t.time.other.slew = slew ∧ t.time.other.stepPending = step)
    (∀ i, (i = .referenceMeasurement ⟨err, freq⟩ ∧ (timeSrc s = 1 ∨ timeSrc s = 2)) ∨
        (i = .ppsEdge h ⟨err, freq⟩ ∧ timeSrc s = 4 ∧ h = s.time.active) →
      ∃ t, exec i s = .next t ∧ t.time.rate = freq ∧ t.time.lastRef = s.time.elapsed ∧ t.time.ns = s.time.ns ∧
        (errSize e ≤ lockNs s * oneNs → errSize e ≤ stepLimit s → t.time.good = s.time.good + 1 ∧ closes t e none ∧
          t.time.state = (if s.time.state = .locked ∨ 16 ≤ s.time.good + 1 then .locked else .acquiring) ∧
          (s.time.state ≠ .locked → 16 ≤ s.time.good + 1 → t.regBit .timeEvent 0 = true)) ∧
        (lockNs s * oneNs < errSize e → errSize e ≤ stepLimit s → t.time.good = 0 ∧ closes t e none ∧
          t.time.state = (if s.time.state = .locked then .locked else .acquiring)) ∧
        (lockNs s * oneNs < errSize e → stepLimit s < errSize e → t.time.good = 0 ∧ t.time.state = .acquiring ∧
          closes t 0 (some (stepAt s.time.fmt (pendingStep s) e ((discAt s : Int) + e))))) ∧
    (referenceGone s = true → ∃ t, exec .referenceLoss s = .next t ∧
      t.time.state = (if holdS s = 0 then .free else .holdover) ∧ t.time.good = 0 ∧ closes t 0 none ∧
      t.time.holdSince = s.time.elapsed ∧ t.regBit .timeEvent 1 = true ∧ (holdS s = 0 → t.regBit .timeEvent 2 = true)) ∧
    (timeSrc s = 3 → leads s = false → dirSilent s false = true →
      (dirSilent s true = false → s.chain.ccwHops.isSome = true → ∃ t, exec .referenceLoss s = .next t ∧
        t.chain.usingCcw = true ∧ t.chain.cwHops = none ∧ t.time = s.time) ∧
      (dirSilent s true = true → (s.time.state = .locked ∨ s.time.state = .acquiring) → ∃ t, exec .referenceLoss s = .next t ∧
        t.time.state = (if holdS s = 0 then .free else .holdover) ∧ t.regBit .chainEvent 4 = true)) ∧
    (s.time.state = .holdover → holdS s ≠ 255 → s.time.holdSince + holdS s * 1000000000 ≤ s.time.elapsed →
      ∃ t, exec .holdoverExpiry s = .next t ∧ t.time = { s.time with state := .free, rate := 0 } ∧ t.regBit .timeEvent 2 = true) ∧
    (s.ready (.mgmt h) = true → h = (if s.regBit .timeCfg 3 then .E else .W) →
      exec (.ptpEventMessage h frame) s =
        .next { s with time := { s.time with ptp := s.time.ptp ++ [(h, s.time.ns, frame)] } })

/-- R339, R341, R342, R344, R345, R360 and R306: the TIME registers. TIME_SET steps at the next frame start under SRC 0, 1 and 4 and is
otherwise ignored; TIME_CFG and TIME_FMT take what is supported and ignore the rest; a read of TIME_NOW answers the nanoseconds and
latches frame and line; TIME_PLOG_BASE keeps its BASE while armed, and arming starts at entry 0. -/
def Obligations.TimeRegisters : Prop :=
  ∀ (who : Half) (v : Word) (s : State), clusterRuns s who = true →
    (v &&& Reg.reserved .timeSet = 0 →
      (timeSrc s = 0 ∨ timeSrc s = 1 ∨ timeSrc s = 4 →
        exec (.timeSet who v) s = .next { s with time := { s.time with setPending := some v } }) ∧
      (timeSrc s = 2 ∨ timeSrc s = 3 → exec (.timeSet who v) s = .next (s.setBit .timeEvent 5))) ∧
    (v &&& Reg.reserved .timeCfg = 0 →
      (5 ≤ Word.fld v 0 3 ∨ (Word.fld v 0 3 = 1 ∧ fmtRefSync (s.reg .timeFmt) = false) →
        exec (.timeCfg who v) s = .next (s.setBit .timeEvent 5)) ∧
      (Word.fld v 0 3 < 5 → (Word.fld v 0 3 = 1 → fmtRefSync (s.reg .timeFmt) = true) → ∃ t, exec (.timeCfg who v) s = .next t ∧ t.reg .timeCfg = v ∧
        t.time.ns = s.time.ns ∧ t.time.state = (if Word.fld v 0 3 = 0 then .free else s.time.state))) ∧
    (v &&& Reg.reserved .timeFmt = 0 →
      exec (.timeFmt who v) s = .next (if fmtSupported (timeSrc s) v then s.setReg .timeFmt v else s.setBit .timeEvent 5)) ∧
    (s.clusters.length = 2 → .timeUnit s.time.active ∉ s.broken → ∃ t, exec (.timeNow who) s = .next t ∧ (t.cluster who).rdata = s.time.ns ∧
      (t.cluster who).accessFault = false ∧ t.time = s.time ∧
      t.reg .timeLine = (s.time.frame.zeroExtend 64 <<< 16) ||| s.time.line.zeroExtend 64) ∧
    (v &&& Reg.reserved .timePlogBase = 0 →
      (s.regBit .timePlogBase 0 = false →
        (logFits s (Word.fld v 12 31 * 2 ^ 12) = true → ∃ t, exec (.timePlogBase who v) s = .next t ∧
          t.reg .timePlogBase = BitVec.ofNat 64 (Word.fld v 12 31 * 2 ^ 12 + v.toNat % 2) ∧
          (v.toNat % 2 = 1 → t.time.plogNext = 0)) ∧
        (logFits s (Word.fld v 12 31 * 2 ^ 12) = false → exec (.timePlogBase who v) s = .next (s.setBit .timeEvent 5))) ∧
      (s.regBit .timePlogBase 0 = true → logFits s (s.regFld .timePlogBase 12 31 * 2 ^ 12) = true →
        ∃ t, exec (.timePlogBase who v) s = .next t ∧ t.time = s.time ∧
          t.regFld .timePlogBase 12 31 = s.regFld .timePlogBase 12 31 ∧ t.regFld .timePlogBase 0 1 = v.toNat % 2))

/-- R306, R307, R347, R354, R355 and R361: a line event that is due next goes out to the cores under its number plus one; a slice
begins, held where its bits reversed reach the share; a deadline line that begins before its frame is done is a miss, its margin 0; the
oldest waiting entry of the phase log is written at its place once its port takes it, nothing else of memory changed; CLR resets the smallest margin. -/
def Obligations.EventsSlicesAndPhases : Prop :=
  ∀ (who : Half) (n : Nat) (k : CtxAt) (v : Word) (s : State),
    (s.live = true → levNext s n = true → yieldsToFrame s n = false → ∃ t, exec (.lineEvent n) s = .next t ∧
      t.time.delivered = s.time.delivered ++ [n] ∧
      t.time.out = s.time.out ++ (if s.faults.inFrost then [] else [(n + 1, [])]) ∧ t.regs = s.regs) ∧
    (s.live = true → s.svc.slice + 1 < 64 → sliceAt s.time (s.svc.slice + 1) ≤ s.time.at → ∃ t, exec .sliceStart s = .next t ∧
      t.svc = { s.svc with slice := s.svc.slice + 1, held := decide (s.svc.share ≤ reverse6 (s.svc.slice + 1)) } ∧ t.mem = s.mem ∧
      t.cores = s.cores) ∧
    (s.live = true → deadEn s.svc.deadline = true → s.svc.margin = none → deadLine s.svc.deadline < fmtLines s.time.fmt →
      lineStart s.time (deadLine s.svc.deadline) ≤ s.time.at → ∃ t, exec .deadlineLineBegin s = .next t ∧
        t.svc = { s.svc with margin := some 0, missed := true } ∧ t.reg .svcMargin = 0x8000000000000000 ∧
        t.regFld .svcMarginMin 32 16 = min (s.regFld .svcMarginMin 32 16 + 1) 0xFFFF ∧ t.regBit .svcEvent 0 = true) ∧
    (∀ e rest, s.working = true → k.core < 768 → (s.ctx k).plog = e :: rest → s.regBit .timePlogBase 0 = true →
      portFree s (plogAddr s) 32 (bridgeRequester s.time.active false) true = true → .bridge s.time.active ∉ s.broken →
      portOut s (plogAddr s / 64 * 64) = false → SMap.get? s.marks (plogAddr s / 64 * 64) = none →
      SMap.get? s.glitches (plogAddr s / 64 * 64) = none →
      let bs := plogBytes k e (e.lost || (s.ctx k).plogLost) s.time.plogNext
      ∃ t, exec (.phaseLogEntryWrite k) s = .next t ∧ (t.ctx k).plog = rest ∧ (t.ctx k).plogLost = false ∧
        t.time.plogNext = s.time.plogNext + 1 ∧
        ∀ a, Memory.read t.mem a =
          if plogAddr s ≤ a ∧ a < plogAddr s + 32 then bs.getD (a - plogAddr s) 0 else Memory.read s.mem a) ∧
    (clusterRuns s who = true → v &&& Reg.reserved .svcMarginMin = 0 →
      exec (.svcMarginMinClr who v) s = .next (if Word.bit v 63 then s.setReg .svcMarginMin 0xFFFFFFFF else s))

/-- R357, R358, R379 and R407: a unit whose calibration period has passed is listed, to run at once where no quiet window and no
frame context needs the unit; a quiet window starts every listed one that ends within it; a finished one is off the list and dates
the unit's calibration, and one that fails takes a link out of service; one that has waited more than a second is announced. Which
contexts count as enabled, and that a needed unit waits for its window, are the model's readings (log entries 65 and 66). -/
def Obligations.Recalibrations : Prop :=
  ∀ (u : RecalUnit) (ok : Bool) (r : Recal) (s : State),
    (s.working = true → recalFitted s u = true → s.ready (recalFn u) = true → (∀ x ∈ s.svc.recals, x.unit ≠ u) →
      SMap.getD s.svc.calLast (recalKey u) 0 + recalPeriod u ≤ s.time.elapsed →
        exec (.recalibrationDue u) s = .next { s with svc := { s.svc with
          recals := s.svc.recals ++ [⟨u, s.time.elapsed, !Word.bit s.svc.qw 63 && !anyEnabled s .F, false, true⟩] } }) ∧
    (s.live = true → windowOpen s = true → ∃ t, exec .quietWindowStart s = .next t ∧ t.svc.qwDone = true ∧
      t.svc.recals = s.svc.recals.map fun x =>
        if s.time.at + recalNs x.unit * oneNs ≤ lineStart s.time (Word.fld s.svc.qw 32 16) then { x with running := true } else x) ∧
    (s.live = true → s.faults.batch = none → (s.svc.recals.find? fun x => x.unit = u && x.running) = some r →
      ∃ t, exec (.recalibrationComplete u ok) s = .next t ∧ t.svc.recals = s.svc.recals.filter (fun x => x.unit ≠ u) ∧
        SMap.get? t.svc.calLast (recalKey u) = some s.time.elapsed ∧
        (ok = true → (s.far = [] → t.faults.seq = s.faults.seq) ∧ (r.requested = true → t.regFld .ctrlReqStatus 0 3 = 1)) ∧
        (r.requested = true → ok = false → t.regFld .ctrlReqStatus 0 3 = 4 ∧ t.regBit .fltStatus 15 = true) ∧
        (∀ l, u = .link l → l < 36 → ok = false → t.ready (.link l) = false ∧ (t.link l).state = .down)) ∧
    (s.live = true → (s.svc.recals.find? fun x => x.unit = u && !x.running && x.due) = some r → r.since + 1000000000 < s.time.elapsed →
      exec (.qwStarved u) s = .next (s.setBit .svcEvent 2))

/-! ### Reset, thaw, equinox, readiness, clusters, security (R33 to R38, R359, R362 to R387, R407, R415 to R425) -/

/-- R376, R416, R419 and R421 to R426: what the board-control pins, the clock and DEVRESET do. A reset leaves every register, core,
ring, unit and the fault queue as after reset, the flashes and the OTP as they were, and by the model's choice (log entry 34) the
contents of memory unless power was lost; the outputs then stand as R426 says. Power comes up at 40 V, STRAP_RECOVER being sampled there where RESET_N is high already. -/
def Obligations.Resets : Prop :=
  ∀ (who : Half) (strap : Bool) (mv : Nat) (s : State),
    let wiped (t : State) : Prop := t.regs = [] ∧ t.imem = [] ∧ t.cores = [] ∧ t.counters = [] ∧ t.rings = [] ∧ t.springs = [] ∧
      t.links = [] ∧ t.routers = [] ∧ t.faults = Faults.reset ∧ t.config = DevConfig.reset ∧ t.time = Time.reset ∧ t.chain = Chain.reset ∧
      t.part = s.part ∧ t.pending = s.pending ∧ t.boots.map (·.flash) = s.boots.map (·.flash) ∧
      t.secs.map (·.floors) = s.secs.map (·.floors) ∧ t.secs.map (·.revoked) = s.secs.map (·.revoked)
    (s.power.pwrGood = false → mv < 40000 → exec (.powerUp ⟨mv, strap⟩) s = .next s) ∧
    (s.power.resetN = false → ∃ t, exec (.resetNRise strap) s = .next t ∧ t.power = { s.power with resetN := true, strap := strap } ∧
      t.regs = s.regs ∧ t.mem = s.mem ∧ t.live = (s.power.pwrGood && s.power.sysclkGood)) ∧
    (s.power.resetN = true → ∃ t, exec .resetNFall s = .next t ∧ wiped t ∧ t.mem = s.mem ∧ t.power.resetN = false ∧
      outputs t = ⟨s.power.pwrGood, none, false, if s.power.pwrGood then .idle else .off, true, if s.power.pwrGood then some false else none, false,
        if s.power.pwrGood then s.scan.tdo else none⟩) ∧
    (s.power.pwrGood = true → ∃ t, exec .inputPowerFail s = .next t ∧ wiped t ∧ t.mem = [] ∧ t.power.pwrGood = false ∧
      outputs t = ⟨false, none, false, .off, true, none, false, none⟩) ∧
    (s.power.pwrGood = false → 40000 ≤ mv → ∃ t, exec (.powerUp ⟨mv, strap⟩) s = .next t ∧
      t.power = { s.power with pwrGood := true, strap := if s.power.resetN then strap else s.power.strap } ∧
      t.regs = s.regs) ∧
    (s.power.pwrGood = true → s.power.sysclkGood = true → ∃ t, exec .sysclkFault s = .next t ∧ wiped t ∧ t.mem = s.mem ∧
      t.power.sysclkGood = false) ∧
    (s.power.sysclkGood = false → ∃ t, exec .sysclkGood s = .next t ∧ t.power = { s.power with sysclkGood := true } ∧
      t.regs = s.regs) ∧
    (clusterRuns s who = true → ∃ t, exec (.devreset who) s = .next t ∧ wiped t ∧ t.mem = s.mem ∧ t.live = s.live)

/-- R369 to R375, R377 and R425: a half checks its copy and claims its SEQ where it is valid; heartbeats carry claims and roles;
with both claims the half with the larger SEQ, west on a tie, is senior and the configuration is accepted from its copy, each cluster's
firmware going to its SRAM, or with no valid copy frost comes with NO_CONFIG; a pending handover swaps the roles once both halves have taken a heartbeat; two seniors,
a silent peer and a lost one bring frost; a valid recovery image under its name, at
the port of a half whose ROM waits for one, replaces the copy, and any other is rejected. A read of the copy that fails gives reason 8. That the election and acceptance are one step,
and that a heartbeat may go before the check, are the model's choices (log entries 68 and 69). -/
def Obligations.CopiesAndElection : Prop :=
  ∀ (h : Half) (hb : Heartbeat) (name image : List Byte) (fails : Bool) (s : State) (b : Boot), s.live = true → s.boots.length = 2 →
    s.boot h = b → s.faults.batch = none →
    (b.checked = false → ∃ t, exec (.copyCheckComplete ⟨h, fails⟩) s = .next t ∧ (t.boot h).checked = true ∧
      (t.boot h).reason = copyReason s h fails ∧
      (t.boot h).claim = (if copyReason s h fails = 0 ∧ s.power.strap = false then .seq (imSeq (copyRead s h)) else .none)) ∧
    ((s.cluster h).inService = true → b.hbDue ≤ s.time.elapsed → ∃ t, exec (.heartbeatSend h) s = .next t ∧
      (t.boot h).tx = b.tx ++ [⟨b.claim, b.senior⟩] ∧ (t.boot h).hbDue = s.time.elapsed + 1000000) ∧
    (s.config.handover = false → s.config.elected = false → s.config.noConf = false → b.claim ≠ .unchecked → hb.claim ≠ .unchecked →
      let w := if h = .W then b.claim else hb.claim
      let e := if h = .W then hb.claim else b.claim
      (∀ g x, electSenior w e = some g → imFind (copyRead s g) 3 = some x → ∃ t, exec (.heartbeatReceive h hb) s = .next t ∧
        t.config.elected = true ∧ t.config.senior = g ∧ t.config.accepted = true ∧ t.time.active = g ∧
        t.config.devid = (copyRead s g).num x.offset 2 ∧ t.config.interleave = (copyRead s g).num (x.offset + 2) 1 ∧
        (t.boot .W).senior = decide (g = .W) ∧ (t.boot .E).senior = decide (g = .E) ∧ (t.boot h).peer = some hb ∧
        (∀ k y, s.clusters.length = 2 → imFind (copyRead s g) (1 + halfNum k) = some y →
          (t.cluster k).priv = Memory.writeN (s.cluster k).priv sramBase (copyRead s g y.offset (min y.length sramSize)))) ∧
      (electSenior w e = none → ∃ t, exec (.heartbeatReceive h hb) s = .next t ∧ t.config.noConf = true ∧
        t.config.accepted = s.config.accepted ∧ t.faults.signal.isSome = true)) ∧
    (s.config.elected = true → s.config.handover = true → s.config.hoSeen = [otherHalf h] →
      ∃ t, exec (.heartbeatReceive h hb) s = .next t ∧ t.config.senior = otherHalf s.config.senior ∧ t.config.handover = false) ∧
    (∀ p0, s.config.elected = true → s.config.handover = false → 2 ≤ b.sentSenior → b.peer = some p0 → p0.senior = true →
      hb.senior = true → s.faults.inFrost = false → s.config.eqxCause ≠ 3 → ∃ t, exec (.heartbeatReceive h hb) s = .next t ∧
        t.config.eqxCause = 3 ∧ t.faults.signal.isSome = true) ∧
    (s.working = true → b.checked = true → s.config.elected = false → b.checkedAt + 50000000 ≤ s.time.elapsed →
      b.peerAt + 50000000 ≤ s.time.elapsed → ∃ t, exec (.silent h) s = .next t ∧ t.config.eqxCause = 1 ∧
        t.faults.signal.isSome = true) ∧
    (s.working = true → s.config.elected = true → b.peerAt + 3000000 ≤ s.time.elapsed →
      s.config.acceptNs + 3000000 ≤ s.time.elapsed → ∃ t, exec (.lost h) s = .next t ∧ t.config.eqxCause = 2 ∧
        t.faults.signal.isSome = true) ∧
    (clusterRuns s h = true → clusterRuns s (otherHalf h) = true → s.config.senior = h → s.config.elected = true →
      s.config.handover = false →
        exec (.handover h) s = .next { s with config := { s.config with handover := true, hoSeen := [] } }) ∧
    (romWaits s h = true →
      (name = ascii "mezia" → imageReason (fileRead image) true (s.sec h) s.part = 0 →
        ∃ t, exec (.recoveryImageWrite h ⟨name, image⟩) s = .next t ∧ t.regs = [] ∧ t.faults = Faults.reset ∧ t.mem = s.mem ∧
          (t.boot h).flash = flashWrite b.flash 0 (image.take (imBytes (fileRead image)))) ∧
      (name ≠ ascii "mezia" ∨ imageReason (fileRead image) true (s.sec h) s.part ≠ 0 →
        exec (.recoveryImageWrite h ⟨name, image⟩) s = .next s))

/-- R33 to R38, R406 and R407: a function that may rise sets its ready bit and its event; one that is late raises an incident of class
THAW that brings frost; a management port that loses lock and a cluster that takes a machine check leave service, their ready bits
down, and the senior half's cluster takes the device to frost. -/
def Obligations.Readiness : Prop :=
  ∀ (f : Fn) (h : Half) (sram : Bool) (s : State), s.faults.batch = none →
    (mayRise s f = true → ∃ t, exec (.readyBitRise f) s = .next t ∧ t.ready f = true ∧
      t.regBit .ctrlReadyEvent (fnEvent f) = true ∧ riseTime t f = some s.time.elapsed ∧ t.mem = s.mem) ∧
    (s.working = true → late s f = true → ∃ t, exec (.thawDeadlineExpiry f) s = .next t ∧ t.regBit .fltStatus 11 = true ∧
      t.faults.signal.isSome = true ∧ t.faults.seq = s.faults.seq + 1) ∧
    (s.live = true → s.ready (.mgmt h) = true → ∃ t, exec (.mgmtBlockLockTimeout h) s = .next t ∧ t.ready (.mgmt h) = false ∧
      t.regBit .ctrlReadyEvent 5 = true ∧ t.regBit .fltStatus 10 = true) ∧
    (s.live = true → s.clusters.length = 2 → (s.cluster h).inService = true → s.ready (.cluster h) = true →
      ∃ t, exec (.clusterMachineCheck h sram) s = .next t ∧ (t.cluster h).inService = false ∧ t.ready (.cluster h) = false ∧
        t.regBit .fltStatus 10 = true ∧ (sram = true → t.regBit .fltStatus 4 = true) ∧
        (s.config.elected = true → s.config.senior = h → t.faults.signal.isSome = true))

/-- R25, R31, R362 to R366, R377 and R415: an access of a cluster to its private space (the ROM, which takes no store, the SRAM, the flash,
and the word that has its management port send a frame), to HBM and to a core store, loads and stores; one that is refused changes
nothing, takes an access fault and is recorded. A management frame is stored where the cluster has it put, and counted; a ROM that waits
for a recovery image answers ARP in its place. The layout of the private space, service within the step, and which address a refused
range names are the model's choices (log entries 108, 22, 83 and 110). -/
def Obligations.ClusterAccesses : Prop :=
  ∀ (who : Half) (addr size : Nat) (v : Word) (frame : List Byte) (s : State), s.clusters.length = 2 →
    (clusterRuns s who = true → size ∈ [1, 2, 4, 8] → .bridge who ∉ s.broken →
      let bs := toBytes size v.toNat
      let a0 := addr % 2 ^ 43
      let k := bridgeRequester who false
      (addr / 2 ^ 43 % 2 ^ 21 = 16 →
        (within sramBase sramSize a0 size = true →
          (∃ t, exec (.clusterAccess who true addr size v) s = .next t ∧ t.mem = s.mem ∧ (t.cluster who).accessFault = false ∧
            ∀ a, Memory.read (t.cluster who).priv a =
              if a0 ≤ a ∧ a < a0 + size then bs.getD (a - a0) 0 else Memory.read (s.cluster who).priv a) ∧
          (∃ t, exec (.clusterAccess who false addr size v) s = .next t ∧ t.mem = s.mem ∧
            (t.cluster who).rdata = BitVec.ofNat 64 (ofBytes (Memory.readN (s.cluster who).priv a0 size)))) ∧
        (within 0 romSize a0 size = true →
          (∃ t, exec (.clusterAccess who true addr size v) s = .next t ∧ t.mem = s.mem ∧ (t.cluster who).priv = (s.cluster who).priv) ∧
          (∃ t, exec (.clusterAccess who false addr size v) s = .next t ∧ (t.cluster who).rdata =
            BitVec.ofNat 64 (ofBytes ((List.range size).map fun i => Config.romByte (halfNum who) (a0 + i))))) ∧
        (within flashBase flashSize a0 size = true → s.boots.length = 2 → (s.boot who).fitted = true →
          (∃ t, exec (.clusterAccess who true addr size v) s = .next t ∧
            (t.boot who).flash = flashWrite (s.boot who).flash (a0 - flashBase) bs) ∧
          (∃ t, exec (.clusterAccess who false addr size v) s = .next t ∧ t.boots = s.boots ∧
            (t.cluster who).rdata = BitVec.ofNat 64 (ofBytes (flashRead (s.boot who).flash (a0 - flashBase) size)))) ∧
        (a0 = macSend → size = 8 → s.ready (.mgmt who) = true → 1 ≤ Word.fld v 48 16 → Word.fld v 48 16 ≤ 9216 →
          Word.fld v 0 48 / 2 ^ 47 = 1 → within sramBase sramSize (Word.fld v 0 48 % 2 ^ 47) (Word.fld v 48 16) = true →
          ∃ t, exec (.clusterAccess who true addr size v) s = .next t ∧ (t.cluster who).sent = (s.cluster who).sent ++
            [Memory.readN (s.cluster who).priv (Word.fld v 0 48 % 2 ^ 47) (Word.fld v 48 16)])) ∧
      (addr / 2 ^ 43 % 2 ^ 21 ≠ 0 → addr / 2 ^ 43 % 2 ^ 21 ≠ 16 → ∀ store, ∃ t,
        exec (.clusterAccess who store addr size v) s = .next t ∧ t.mem = s.mem ∧ (t.cluster who).accessFault = true ∧
          (s.faults.batch = none → t.regBit .fltStatus 3 = true ∧ t.faults.seq = s.faults.seq + 1)) ∧
      (addr < 2 ^ 43 → inRegs s addr = false →
        (∀ store x, accessDenied s who addr size store = some x → ∃ t, exec (.clusterAccess who store addr size v) s = .next t ∧
          t.mem = s.mem ∧ (t.cluster who).accessFault = true ∧ (s.faults.batch = none → t.regBit .fltStatus 3 = true)) ∧
        (∀ w, s.region addr = .hbm → accessDenied s who addr size true = none → s.faults.inFrost = false →
          memoryFree s who addr size true = true → portWrite (passPort s addr bs.length k) addr bs = (true, w) →
            ∃ t, exec (.clusterAccess who true addr size v) s = .next t ∧ ∀ a, Memory.read t.mem a =
              if addr ≤ a ∧ a < addr + size then bs.getD (a - addr) 0 else Memory.read s.mem a) ∧
        (∀ b w, s.region addr = .hbm → accessDenied s who addr size false = none → memoryFree s who addr size false = true →
          portRead (passPort s addr size k) addr size = (some b, w) →
            ∃ t, exec (.clusterAccess who false addr size v) s = .next t ∧ t.mem = s.mem ∧
              (t.cluster who).rdata = BitVec.ofNat 64 (ofBytes (s.memBytes addr size))) ∧
        (∀ c off, s.region addr = .store c off → accessDenied s who addr size true = none → s.faults.inFrost = false →
          ∃ t, exec (.clusterAccess who true addr size v) s = .next t ∧ ∀ a, Memory.read t.mem a =
            if addr ≤ a ∧ a < addr + size then bs.getD (a - addr) 0 else Memory.read s.mem a))) ∧
    (romWaits s who = false → s.live = true → s.ready (.mgmt who) = true → (s.cluster who).inService = true → 1 ≤ frame.length →
      frame.length ≤ 9216 → .bridge who ∉ s.broken →
      (addr / 2 ^ 47 = 1 → within sramBase sramSize (addr % 2 ^ 47) frame.length = true →
        ∃ t, exec (.mgmtFrameReceive who frame addr) s = .next t ∧ t.mem = s.mem ∧
          (t.cluster who).frames = (s.cluster who).frames + 1 ∧ ∀ a, Memory.read (t.cluster who).priv a =
            if addr % 2 ^ 47 ≤ a ∧ a < addr % 2 ^ 47 + frame.length then frame.getD (a - addr % 2 ^ 47) 0
            else Memory.read (s.cluster who).priv a) ∧
      (∀ w, addr / 2 ^ 47 ≠ 1 → frameFree s who addr frame.length true = true →
        portWrite (passPort s addr frame.length (bridgeRequester who false)) addr frame = (true, w) →
        ∃ t, exec (.mgmtFrameReceive who frame addr) s = .next t ∧ (t.cluster who).frames = (s.cluster who).frames + 1 ∧
          ∀ a, Memory.read t.mem a =
            if addr ≤ a ∧ a < addr + frame.length then frame.getD (a - addr) 0 else Memory.read s.mem a)) ∧
    (romWaits s who = true → ∃ t, exec (.mgmtFrameReceive who frame addr) s = .next t ∧ t.mem = s.mem ∧
      (t.cluster who).sent = (s.cluster who).sent ++ (arpReply who frame).toList)

/-- R359, R364, R379, R385 and R415: the requests of CTRL_REQ are taken, pending while a context is enabled, refused for a unit that
is not there, ignored with WIGN in frost; a recalibration that waits already is asked for as well; a finished self-test answers LAST, a failed field leaving
service with its stitches; CTRL_PART takes the
writer's own field. -/
def Obligations.ControlRequests : Prop :=
  ∀ (who : Half) (n : Nat) (v : Word) (ok : Bool) (s : State),
    (clusterRuns s who = true → n < 64 →
      (s.faults.inFrost = true → exec (.fieldSelfTest who n) s = .next (s.setBit .ctrlEqx 8)) ∧
      (s.faults.inFrost = false →
        (4 ≤ n → exec (.fieldSelfTest who n) s = .next (s.putFld .ctrlReqStatus 0 3 5)) ∧
        (n < 4 → (∀ x ∈ s.svc.tests, x.1 ≠ n) → ∃ t, exec (.fieldSelfTest who n) s = .next t ∧
          t.svc = { s.svc with tests := s.svc.tests ++ [(n, !someEnabled s)] } ∧
          t.regFld .ctrlReqStatus 0 3 = if someEnabled s then 2 else 3) ∧
        (∀ u i, (u, i) ∈ [(.stack n, (.stackRecalibration who n : Instr)), (.lake n, .lakeChannelRecalibration who n),
            (.link n, .linkRecalibration who n)] →
          (recalFitted s u = false → exec i s = .next (s.putFld .ctrlReqStatus 0 3 5)) ∧
          (recalFitted s u = true → (∀ x ∈ s.svc.recals, x.unit ≠ u) → ∃ t, exec i s = .next t ∧
            t.svc = { s.svc with recals := s.svc.recals ++ [⟨u, s.time.elapsed, !someEnabled s, true, false⟩] } ∧
            t.regFld .ctrlReqStatus 0 3 = if someEnabled s then 2 else 3) ∧
          (∀ r, recalFitted s u = true → recalOf s u = some r → r.requested = false → ∃ t, exec i s = .next t ∧
            t.svc = { s.svc with recals := s.svc.recals.map fun x =>
              if x.unit = u then { r with requested := true, running := r.running || !someEnabled s } else x } ∧
            t.regFld .ctrlReqStatus 0 3 = if someEnabled s then 2 else 3)))) ∧
    (s.live = true → s.faults.batch = none → (n, true) ∈ s.svc.tests → ∃ t, exec (.selfTestComplete n ok) s = .next t ∧
      t.svc.tests = s.svc.tests.filter (fun x => x.1 ≠ n) ∧
      (ok = true → t.regFld .ctrlReqStatus 0 3 = 1 ∧ t.faults = s.faults) ∧
      (ok = false → t.regFld .ctrlReqStatus 0 3 = 4 ∧ t.ready (.field n) = false ∧ t.regBit .fltStatus 15 = true ∧
        ∀ m, m < 4 → ((stitchFields m).1 = n ∨ (stitchFields m).2 = n) → t.ready (.stitch m) = false)) ∧
    (clusterRuns s who = true → v &&& Reg.reserved .ctrlPart = 0 → ∃ t, exec (.ctrlPart who v) s = .next t ∧
      t.regFld .ctrlPart (4 * halfNum who) 4 = Word.fld v (4 * halfNum who) 4 ∧
      t.regFld .ctrlPart (4 * halfNum (otherHalf who)) 4 = s.regFld .ctrlPart (4 * halfNum (otherHalf who)) 4 ∧
      (Word.fld v (4 * halfNum (otherHalf who)) 4 ≠ s.regFld .ctrlPart (4 * halfNum (otherHalf who)) 4 →
        t.regBit .ctrlEqx 8 = true))

/-- R380 to R384: a sequence floor is appended where it is allowed and ignored with WIGN where not; a key slot is revoked unless
it is in use; a measurement register is extended unless it is locked; an attestation captures its nonce, and its report is written
at its address, nothing else of memory changed, or is not where the address is refused. That the report is written within the step is the model's choice (log entry 22).
-/
def Obligations.SecurityEngines : Prop :=
  ∀ (who : Half) (v : Word) (s : State) (x : Sec), s.secs.length = 2 → s.sec who = x →
    (∀ y ∈ x.floors, y.toNat ≤ x.floor) ∧ (x.floors ≠ [] → ∃ y ∈ x.floors, y.toNat = x.floor) ∧
    (clusterRuns s who = true →
      (v &&& Reg.reserved .secFloor = 0 →
        (x.floor ≤ v.toNat → v.toNat ≤ s.config.seq → x.floors.length < 16 → ∃ t, exec (.secFloor who v) s = .next t ∧
          t.sec who = { x with floors := x.floors ++ [v] } ∧ t.sec (otherHalf who) = s.sec (otherHalf who)) ∧
        (v.toNat < x.floor ∨ s.config.seq < v.toNat ∨ 16 ≤ x.floors.length → ∃ t, exec (.secFloor who v) s = .next t ∧
          t.sec who = { x with wign := true })) ∧
      (∀ k, k < 4 → (s.config.accepted = true → s.config.slot ≠ k) → ∃ t, exec (.revoke who (BitVec.ofNat 64 (2 ^ k))) s = .next t ∧
        t.sec who = { x with revoked := x.revoked ||| BitVec.ofNat 4 (2 ^ k) }) ∧
      (v &&& Reg.reserved .secExtCmd = 0 →
        (Word.fld v 0 3 < 3 → x.mrLock = true → ∃ t, exec (.extend who v) s = .next t ∧ t.sec who = { x with wign := true }) ∧
        (3 ≤ Word.fld v 0 3 → ∃ t, exec (.extend who v) s = .next t ∧ t.sec who = { x with mrs := setAt x.mrs (Word.fld v 0 3) (extendMr
          (x.mrs.getD (Word.fld v 0 3) 0) (x.extData.flatMap fun w => toBytes 8 w.toNat)) })) ∧
      (v &&& Reg.reserved .secAtt = 0 → Word.bit v 63 = true → x.attNonce = none → ∃ t, exec (.attestationStart who v) s = .next t ∧
        t.sec who = { x with attAddr := Word.fld v 6 37 * 64, attNonce := some x.nonce })) ∧
    (∀ nonce w, s.live = true → x.attNonce = some nonce →
      let bs := attestation s who nonce
      (∀ y, accessDenied s who x.attAddr bs.length true = some y → reportFree s who x.attAddr 1248 = true →
        ∃ t, exec (.attestationComplete who) s = .next t ∧ t.sec who = { x with attNonce := none } ∧ t.mem = s.mem ∧
          (s.faults.batch = none → t.regBit .fltStatus 3 = true)) ∧
      (s.region x.attAddr = .hbm → s.region (x.attAddr + bs.length - 1) = .hbm → reportFree s who x.attAddr 1248 = true →
      portWrite (passPort s x.attAddr bs.length (bridgeRequester who false)) x.attAddr bs = (true, w) →
        ∃ t, exec (.attestationComplete who) s = .next t ∧ t.sec who = { x with attNonce := none, attDone := true } ∧
          ∀ a, Memory.read t.mem a =
            if x.attAddr ≤ a ∧ a < x.attAddr + bs.length then bs.getD (a - x.attAddr) 0 else Memory.read s.mem a))

/-! ### Check units (R388 to R400) -/

/-- R390 and R394 to R398: a check unit runs the bytes of its oldest descriptor through its session, as the descriptor begins it;
one whose bytes stayed uncorrectable breaks its session and fails, its RING record raised. Its result ends the descriptor: a compare
is counted, the first mismatch of a unit recorded, a gated mismatch keeps the completion increment back, and FINAL writes the result
at DST, nothing else of memory changed, or fails where DST cannot be written. Other check descriptors are taken to wait for their
own data once the result has passed its port, and the ports settle after. Reads and the write of DST within the step are the
model's choice (log entry 22). -/
def Obligations.CheckUnits : Prop :=
  ∀ (u : Nat) (s : State) (j : ChkJob) (rest : List ChkJob), chkWorks s u = true → (s.chkUnit u).queue = j :: rest →
    s.faults.batch = none →
    let n := chkSession j.desc
    (j.ran = false → j.bad = false → ∃ t, exec (.chkDescriptorRun u) s = .next t ∧
      t.session u n = { beginSession s u j.ring j.desc with
        crc := crcRun (beginSession s u j.ring j.desc).params (beginSession s u j.ring j.desc).crc j.bytes } ∧
      (t.chkUnit u).queue = { j with ran := true, bytes := [] } :: rest ∧
      (∀ m, m ≠ n → t.session u m = s.session u m) ∧ t.mem = s.mem ∧ t.rings = s.rings) ∧
    (j.ran = false → j.bad = true → ∃ t, exec (.chkDescriptorRun u) s = .next t ∧ (t.session u n).broken = true ∧
      ∀ y, (s.ring j.ring).job j.idx = some y → (∀ c, y.stage ≠ .failed c) → t.regBit .fltStatus 7 = true) ∧
    (j.ran = true → resultFree s u j = true →
      let x := s.session u n
      let result := crcFinal x.params x.crc
      let expect := lowBits (psWidth x.params) (BitVec.ofNat 64 (dSeed j.desc))
      let good := !x.broken && decide (result = expect)
      let v := (gathering s).setChkUnit u { s.chkUnit u with queue := rest }
      let a := addrLocal (dDst j.desc)
      let passed := passPort v a 8 (ringRequester s j.ring)
      let quiet (w : State) : Prop :=
        ∀ p ∈ w.rings, ∀ z ∈ (w.ring p.1).jobs, dKind z.desc = 11 → z.stage = .reading → z.out ≠ 0
      let ended (t : State) : Prop := (t.chkUnit u).queue = rest ∧
        (∀ y, (s.ring j.ring).job j.idx = some y → (passed.ring j.ring).job j.idx = some y →
          (t.ring j.ring).job j.idx = some { y with stage := .done, moved := if chkGate j.desc && !good then 1 else 0 }) ∧
        (chkCompare j.desc = true → good = true →
          t.regFld (.chkCnt u) 32 32 = min (s.regFld (.chkCnt u) 32 32 + 1) (2 ^ 32 - 1)) ∧
        (chkCompare j.desc = true → good = false →
          t.regFld (.chkCnt u) 16 16 = min (s.regFld (.chkCnt u) 16 16 + 1) 0xFFFF ∧ t.regBit .chkStatus u = true ∧
          (s.regBit (.chkMisrec0 u) 63 = false →
            t.reg (.chkMisrec0 u) = BitVec.ofNat 64 (2 ^ 63 + n * 2 ^ 20 + j.ring) ∧ t.reg (.chkMisrec u 0) = result ∧
            t.reg (.chkMisrec u 1) = expect ∧ t.reg (.chkMisrec u 2) = s.time.ns) ∧
          (s.regBit (.chkMisrec0 u) 63 = true → t.reg (.chkMisrec0 u) = s.reg (.chkMisrec0 u) ∧
            t.reg (.chkMisrec u 0) = s.reg (.chkMisrec u 0))) ∧
        (chkCompare j.desc = false → t.regBit .chkStatus u = s.regBit .chkStatus u)
      (writesResult j.desc x.broken = false → quiet s →
        ∃ t, exec (.chkResult u) s = .next (settlePorts t) ∧ ended t ∧ t.mem = s.mem) ∧
      (writesResult j.desc x.broken = true → (portWrite passed a (toBytes 8 result.toNat)).1 = true → quiet passed →
        ∃ t, exec (.chkResult u) s = .next (settlePorts t) ∧ ended t ∧ ∀ b, Memory.read t.mem b =
          if a ≤ b ∧ b < a + 8 then (toBytes 8 result.toNat).getD (b - a) 0 else Memory.read s.mem b) ∧
      (writesResult j.desc x.broken = true → (portWrite passed a (toBytes 8 result.toNat)).1 = false →
        ∃ t, exec (.chkResult u) s = .next (settlePorts t) ∧ (t.session u n).broken = true))

/-! ### Faults, frost and power (R401 to R418, R421) -/

/-- R401, R402, R405, R412, R415 and R417: a record raised takes the next number and stands at TAIL with its class, cause, source and
time, unless the queue is full, when it is lost and counted; a class that brings frost sends the frost signal, the first of which stays
the cause. FLT_QIDX moves HEAD within the queue, else WIGN; FLT_CTL.ENTER raises class 18, cause 1. R406: stored state that is
used with an uncorrectable error raises class 19, which brings frost, and is not used. -/
def Obligations.FaultQueue : Prop :=
  ∀ (who : Half) (v : Word) (r : Rec) (s : State) (f : Faults), s.faults = f → f.batch = none →
    (∃ t, raiseRec s r = t ∧ t.faults.seq = f.seq + 1 ∧ t.faults.head = f.head ∧ t.mem = s.mem ∧ t.cores = s.cores ∧
      t.rings = s.rings ∧
      (r.cls - 1 < 64 → t.regBit .fltStatus (r.cls - 1) = true) ∧
      (f.tail - f.head = 512 → t.faults.tail = f.tail ∧ t.faults.recs = f.recs ∧ t.faults.lostDue = true ∧
        t.regFld .fltQlost 0 32 = min (s.regFld .fltQlost 0 32 + 1) (2 ^ 32 - 1)) ∧
      (f.tail - f.head ≠ 512 → r.cls < 256 → r.cause < 256 → t.faults.tail = f.tail + 1 ∧ t.faults.lostDue = false ∧
        let b := (SMap.getD t.faults.recs (f.tail.toNat % 512) 0).toNat
        fld b 0 32 = f.seq.toNat ∧ fld b 32 8 = r.cls ∧ fld b 40 8 = r.cause ∧ fld b 56 1 = (if f.lostDue then 1 else 0) ∧
        fld b 64 64 = s.time.ns.toNat ∧ fld b 128 8 = r.kind % 256 ∧ fld b 144 16 = r.num % 65536 ∧ fld b 192 64 = r.addr % 2 ^ 64 ∧
        fld b 320 64 = r.d0.toNat) ∧
      t.faults.signal = (if bringsFrost s r.cls r.cause && f.signal.isNone then some (r.cls, r.cause, f.seq) else f.signal)) ∧
    (clusterRuns s who = true →
      ((f.tail - v.truncate 32).toNat ≤ 512 →
        exec (.fltQidx who v) s = .next { s with faults := { f with head := v.truncate 32 } }) ∧
      (512 < (f.tail - v.truncate 32).toNat → exec (.fltQidx who v) s = .next (s.setBit .fltStatus 19)) ∧
      (∃ t, exec (.fltCtlEnter who) s = .next t ∧ t.faults.seq = f.seq + 1 ∧ t.regBit .fltStatus 17 = true ∧
        t.faults.signal = (if f.signal.isNone then some (18, 1, f.seq) else f.signal))) ∧
    (∀ (u : Stored) (used : State), (u ∉ s.broken → useStored u s used = used) ∧
      (u ∈ s.broken → ∃ t, useStored u s used = t ∧ t.regBit .fltStatus 18 = true ∧ t.faults.seq = f.seq + 1 ∧
        t.faults.signal.isSome = true ∧ t.mem = s.mem ∧ t.rings = s.rings ∧ t.grid = s.grid))

/-- R329, R336, R409 and R412 to R415: the frost signal takes the device to frost: FROST_N falls and COOL_REQ rises, requests not
accepted, remote ones too, are discarded, every link announces it, and nothing issues any more; once every pipe, stream and accepted write has finished
frost is quiet, and field self-tests that wait run. -/
def Obligations.Frost : Prop :=
  ∀ (s : State), s.live = true →
    (s.faults.signal.isSome = true → s.faults.inFrost = false → ∃ t, exec .frostEntry s = .next t ∧ t.faults.inFrost = true ∧
      t.power.frostN = false ∧ t.power.coolReq = true ∧ t.reqs = s.reqs.filter (·.accepted) ∧ t.far = [] ∧ t.mem = s.mem ∧
      (∀ l ∈ t.links, l.2.lfrost = true) ∧ (s.power.coolReq = false → t.regBit .pwrEvent 0 = true) ∧
      ∀ k, canIssue t k = false) ∧
    (s.faults.inFrost = true → s.faults.quiet = false → frostDone s = true → ∃ t, exec .frostQuiet s = .next t ∧
      t.faults = { s.faults with quiet := true } ∧ ∀ x ∈ t.svc.tests, x.2 = true)

/-- R409 and R411: a sample stands in the registers; a die that reaches its critical level, and adjacent measured rails more than
75 mV apart, bring frost; fields more than 20 °C apart and an input outside 40 to 60 V are announced; COOL_REQ follows the dies.
R23, R410, R411 and R421: a rail step moves each field's set-point toward its goal by at most 5 mV, at most once in 10 µs, and counts those that move; a
goal above 860 mV brings frost with the rails as they were; a SPREAD lifts the coldest field by 5 mV to at most 30, at most once
in 1 ms, and without one every lift falls; what lasts beyond its limit, and a fixed rail off its setting, brings frost. How lifts fall back and timers
restart is the model's reading (log entry 77). -/
def Obligations.PowerAndRails : Prop :=
  (∀ (p q : PowerSample) (s : State), s.live = true → s.faults.inFrost = false → s.faults.batch = none → cleanSample s.part.l1t p = q →
     ∃ t, exec (.thermalSample p) s = .next t ∧ t.power.sample = q ∧ t.mem = s.mem ∧ t.power.vset = s.power.vset ∧
       t.power.warned = watchedDies.filter (fun i => decide (warnLevel s i < tempOf q i)) ∧
       ((∃ i, i < 38 ∧ critLevel i ≤ tempOf q i ∧ tempOf s.power.sample i < critLevel i) → t.faults.signal.isSome = true) ∧
       ((∃ i, i < 38 ∧ warnLevel s i < tempOf q i) → t.power.coolReq = true) ∧
       ((∀ i, i < 38 → tempOf q i + 5 ≤ warnLevel s i) → t.power.coolReq = false) ∧
       t.power.spread = decide (20 < fieldSpread q) ∧ (20 < fieldSpread q → t.regBit .pwrEvent 2 = true) ∧
       ((q.inputMv < 40000 ∨ 60000 < q.inputMv) → t.regBit .pwrEvent 3 = true ∧
         t.power.inputSince = some (s.power.inputSince.getD s.time.elapsed)) ∧
       (75 < railSpread { s.power with sample := q } → t.faults.signal.isSome = true)) ∧
  (∀ (f rail : Nat) (s : State), s.live = true → s.faults.batch = none →
     (spaced s s.power.railAt 10000 = true → (∀ g ∈ railGoals s, g ≤ 860) → ∃ t, exec .railStep s = .next t ∧
       t.power.vset = (List.range 4).map (fun i => railMove (fieldSet s.power i) ((railGoals s).getD i 0)) ∧
       (∀ i, i < 4 → apart (fieldSet s.power i) (fieldSet t.power i) ≤ 5) ∧
       t.power.railAt = some s.time.elapsed ∧ t.faults = s.faults) ∧
     (spaced s s.power.railAt 10000 = true → (∃ g ∈ railGoals s, 860 < g) → s.faults.inFrost = false →
       ∃ t, exec .railStep s = .next t ∧ t.power = { s.power with ceiling := true, railAt := some s.time.elapsed } ∧
         t.faults.signal.isSome = true) ∧
     (spaced s s.power.railAt 10000 = false → exec .railStep s = .next s) ∧
     (spaced s s.power.liftAt 1000000 = true → exec .spreadLiftStep s = .next { s with power := { s.power with
       liftAt := some s.time.elapsed
       lift := if s.power.spread then setAt s.power.lift (coldest s.power) (min 30 (s.power.lift.getD (coldest s.power) 0 + 5))
         else s.power.lift.map fun v => v - 5 } }) ∧
     (∀ c i, (c, i) ∈ [(lasted s s.power.spreadSince 10000000, (.spreadTimeout : Instr)),
         (lasted s s.power.adjSince 200000, .adjacentRailTimeout),
         (lasted s (SMap.get? s.power.offSince f) 100000, .railOffSetpointTimeout f),
         (lasted s (SMap.get? s.power.fixedSince rail) 100000, .fixedRailTimeout rail),
         (lasted s s.power.inputSince 1000000, .inputRangeTimeout)] → c = true →
       ∃ t, exec i s = .next t ∧ t.faults.seq = s.faults.seq + 1 ∧ t.faults.signal.isSome = true ∧ t.mem = s.mem))

/-! ### Registers, scan, the queue, reset -/

/-- R10, R25, R30, R31, R365 and R415: a register reads as its value stands, one that no map lists reads 0 and ignores writes; an
access that is not 8 aligned bytes, and one to a window with no block, takes an access fault and is recorded with its address; a
status bit clears where 1 is written, an interrupt enable takes what is written; setting a reserved bit, whose effect R10 leaves
undefined, stops the model. -/
def Obligations.RegisterAccesses : Prop :=
  ∀ (who : Half) (r : Reg) (addr size : Nat) (v : Word) (s : State), clusterRuns s who = true → s.clusters.length = 2 →
    inWindows addr = true → s.faults.batch = none →
    (inRegs s addr = true → addr % 8 = 0 →
      (Reg.ofAddr addr = some r → regFitted s r = true → ∃ t, exec (.registerRead who addr 8) s = .next t ∧
        (t.cluster who).rdata = regValue who r s ∧ (t.cluster who).accessFault = false ∧ t.mem = s.mem) ∧
      (Reg.ofAddr addr = none → ∃ t, exec (.registerRead who addr 8) s = .next t ∧ (t.cluster who).rdata = 0 ∧
        t.regs = s.regs ∧ t.mem = s.mem) ∧
      (Reg.ofAddr addr = none → ∃ t, exec (.registerWrite who addr 8 v) s = .next t ∧ t.regs = s.regs ∧ t.mem = s.mem ∧
        t.cores = s.cores ∧ t.rings = s.rings) ∧
      (Reg.ofAddr addr = some r → regFitted s r = true → v &&& r.reserved ≠ 0 →
        exec (.registerWrite who addr 8 v) s = .fault (.reservedBitWritten addr)) ∧
      (∀ p ∈ interruptRegs,
        (Reg.ofAddr addr = some p.1 → v &&& p.1.reserved = 0 → ∃ t, exec (.registerWrite who addr 8 v) s = .next t ∧
          t.reg p.1 = s.reg p.1 &&& ~~~v ∧ t.mem = s.mem) ∧
        (Reg.ofAddr addr = some p.2 → v &&& p.2.reserved = 0 → ∃ t, exec (.registerWrite who addr 8 v) s = .next t ∧
          t.reg p.2 = (s.reg p.2 &&& p.2.reserved) ||| v ∧ t.mem = s.mem))) ∧
    r.addr % 8 = 0 ∧
    ((inRegs s addr = false ∨ size ≠ 8 ∨ addr % 8 ≠ 0) →
      ∀ i ∈ [(.registerRead who addr size : Instr), .registerWrite who addr size v],
        exec i s = .next (refuseAccess s who addr (if inRegs s addr then 3 else 1))) ∧
    ∃ t, refuseAccess s who addr (if inRegs s addr then 3 else 1) = t ∧ (t.cluster who).accessFault = true ∧
      t.regBit .fltStatus 3 = true ∧ t.faults.seq = s.faults.seq + 1 ∧ t.mem = s.mem ∧
      (s.faults.tail - s.faults.head ≠ 512 → (SMap.getD t.faults.recs (s.faults.tail.toNat % 512) 0).toNat / 2 ^ 192 % 2 ^ 64 =
        addr % 2 ^ 64)

/-- R433 and IEEE 1149.1: a cycle of TCK moves the controllers, and five with TMS high reset them from any state; in Shift-DR with
BYPASS in every instruction register the three one-bit registers shift toward TDO. Nothing else of the module changes. -/
def Obligations.BoundaryScan : Prop :=
  ∀ (tms tdi a b c : Bool) (s : State), s.power.pwrGood = true →
    (∃ t, exec (.boundaryScan tms tdi) s = .next t ∧ t.scan.tap = s.scan.tap.next tms ∧ { t with scan := s.scan, free := s.free } = s) ∧
    ((((s.scan.tap.next true).next true).next true).next true).next true = .reset ∧
    (s.scan.tap = .shDr → s.scan.shift = [[a], [b], [c]] → (∀ x ∈ s.scan.ir, isBypass x = true) → s.scan.ir.length = 3 →
      ∃ t, exec (.boundaryScan tms tdi) s = .next t ∧ t.scan.shift = [[tdi], [a], [b]] ∧
        (tms = false → t.scan.tdo = some b))

/-- The queue of the model: a step with a command at the front is that command's effect with the rest, and with none waiting a cycle of
the grid clock passes (log entry 36). -/
def Obligations.StepTakesTheFrontCommand : Prop :=
  (∀ (c : Instr) (rest : List Instr) (s : State), step { s with pending := c :: rest } = exec c { s with pending := rest }) ∧
    ∀ (s : State), s.pending = [] → step s = .next (tick s)

/-- R78, R100, R202, R203, R225, R335, R337, R344, R354, R360, R361, R401 and R422: what reset leaves, the values that the spec
gives: contexts DISABLED, counters 0, rings and links DISABLED, the fabric stopped at 1,024 cycles a round, reference time FREE
from 0, the share 64, no fault recorded; the module held in reset, so that no context issues; and memory in its canonical form.
That reference time starts at 0 is the model's reading (log entry 75). -/
def Obligations.ResetState : Prop :=
  (∀ k, (State.reset.ctx k).state = .disabled ∧ (State.reset.ctx k).tinuse = 0 ∧ (State.reset.ctx k).accinuse = 0 ∧
    (State.reset.ctx k).fc = FeederCfg.reset ∧ canIssue State.reset k = false) ∧
  (∀ c n, State.reset.counter c n = ⟨0, false⟩) ∧
  (∀ r, (State.reset.ring r).state = .disabled ∧ (State.reset.ring r).enable = false ∧ (State.reset.ring r).counter = 0) ∧
  (∀ l, (State.reset.link l).state = .disabled ∧ (State.reset.link l).enable = false) ∧
  State.reset.grid.running = false ∧ State.reset.grid.round = 0 ∧ State.reset.grid.len = 1024 ∧
  State.reset.time.state = .free ∧ State.reset.time.ns = 0 ∧ State.reset.time.frame = 0 ∧ State.reset.svc.share = 64 ∧
  State.reset.chain.bypassOpen = false ∧ State.reset.faults.head = 0 ∧ State.reset.faults.tail = 0 ∧
  State.reset.faults.inFrost = false ∧ State.reset.power.resetN = false ∧ State.reset.power.frostN = true ∧
  State.reset.faults.batch = none ∧ State.reset.broken = [] ∧ State.reset.far = [] ∧
  State.reset.pending = [] ∧ State.reset.memOk = true ∧
  (State.reset.faults.tail - State.reset.faults.head).toNat ≤ 512 ∧ (∀ r, State.reset.reg r = r.reset)

/-! ### What every step keeps -/

/-- Memory keeps its canonical form: HBM, the lake and the core stores, and the private space of each cluster, so that equal memories
are equal data. -/
def Obligations.MemoryKeepsItsForm : Prop :=
  ∀ (s t : State), s.memOk = true → step s = .next t → t.memOk = true

/-- R401, R405 and R417: the fault queue never holds more than its 512 records, whatever raises them and wherever software moves
HEAD; and every record raised in a step has entered it at the end of the step. -/
def Obligations.FaultQueueKeepsItsSize : Prop :=
  ∀ (s t : State), (s.faults.tail - s.faults.head).toNat ≤ 512 → step s = .next t →
    (t.faults.tail - t.faults.head).toNat ≤ 512 ∧ (s.faults.batch = none → t.faults.batch = none)

/-- R380, R381, R412, R413 and R416: what goes one way only. Frost ends by a reset alone, which leaves the fault queue as after
reset; a key slot revoked and a sequence floor written stay so in every half's OTP; and a step takes one command from the queue and
leaves the rest. -/
def Obligations.OneWayState : Prop :=
  ∀ (s t : State), step s = .next t →
    (s.faults.inFrost = true → t.faults.inFrost = true ∨ t.faults = Faults.reset) ∧
    (∀ h, (s.sec h).floors <+: (t.sec h).floors ∧ (s.sec h).revoked &&& (t.sec h).revoked = (s.sec h).revoked) ∧
    t.pending = s.pending.tail ∧ t.part = s.part
end

