-- ==== Sys2Proof/Laws/Maps.lean ====
section
/-! SUPPORT. Laws of sparse maps and of memory: what a read finds after a write, and that every operation keeps the canonical
form. -/

namespace Sys2Proof.Machine

open Sys2Proof

/-! ### Reads after writes -/

@[simp] theorem SMap.get?_nil {α : Type} (i : Nat) : SMap.get? ([] : SMap α) i = none := rfl

theorem SMap.get?_insert {α : Type} (m : SMap α) (i j : Nat) (x : α) :
    SMap.get? (SMap.insert m i x) j = if i = j then some x else SMap.get? m j := by
  induction m with
  | nil => simp [SMap.insert, SMap.get?]
  | cons p m ih =>
    obtain ⟨k, v⟩ := p
    simp only [SMap.insert]
    split
    · simp [SMap.get?]
    · split
      · subst_vars
        by_cases h : k = j <;> simp [SMap.get?, h]
      · by_cases h : k = j
        · subst h
          have : i ≠ k := by omega
          simp [SMap.get?, this]
        · simp [SMap.get?, h, ih]

theorem SMap.get?_erase {α : Type} (m : SMap α) (i j : Nat) :
    SMap.get? (SMap.erase m i) j = if i = j then none else SMap.get? m j := by
  induction m with
  | nil => simp [SMap.erase]
  | cons p m ih =>
    obtain ⟨k, v⟩ := p
    simp only [SMap.erase, SMap.get?]
    split
    · subst_vars
      rw [ih]
      by_cases h : k = j <;> simp [h]
    · by_cases h : k = j
      · subst h
        have : i ≠ k := by omega
        simp [SMap.get?, this]
      · simp [SMap.get?, h, ih]

/-- Every map, canonical or not: an entry set reads back at its place, and nothing else changes. -/
theorem SMap.getD_set {α : Type} [DecidableEq α] (m : SMap α) (i j : Nat) (x d : α) :
    SMap.getD (SMap.set m i x d) j d = if i = j then x else SMap.getD m j d := by
  unfold SMap.set SMap.getD
  split
  · subst_vars
    rw [SMap.get?_erase]
    split <;> simp
  · rw [SMap.get?_insert]
    split <;> simp

@[simp] theorem SMap.getD_set_same {α : Type} [DecidableEq α] (m : SMap α) (i : Nat) (x d : α) :
    SMap.getD (SMap.set m i x d) i d = x := by simp [SMap.getD_set]

theorem SMap.getD_set_ne {α : Type} [DecidableEq α] (m : SMap α) {i j : Nat} (x d : α) (h : i ≠ j) :
    SMap.getD (SMap.set m i x d) j d = SMap.getD m j d := by simp [SMap.getD_set, h]

/-- Two writes of one entry, the first not at the default: the second stands. -/
theorem SMap.set_set {α : Type} [DecidableEq α] (m : SMap α) (i : Nat) (x y d : α) (h : x ≠ d) :
    SMap.set (SMap.set m i x d) i y d = SMap.set m i y d := by
  have he (m : SMap α) : SMap.erase (SMap.insert m i x) i = SMap.erase m i := by
    induction m with
    | nil => simp [SMap.insert, SMap.erase]
    | cons p m ih =>
      obtain ⟨k, v⟩ := p
      simp only [SMap.insert]
      split
      · rw [SMap.erase, if_pos rfl]
      · split
        · rename_i e
          rw [SMap.erase, SMap.erase, if_pos rfl, if_pos e.symm]
        · rename_i e
          rw [SMap.erase, SMap.erase, if_neg (fun q => e q.symm), if_neg (fun q => e q.symm), ih]
  have hi (m : SMap α) : SMap.insert (SMap.insert m i x) i y = SMap.insert m i y := by
    induction m with
    | nil => simp [SMap.insert]
    | cons p m ih =>
      obtain ⟨k, v⟩ := p
      simp only [SMap.insert]
      split
      · simp [SMap.insert]
      · split
        · simp [SMap.insert]
        · rename_i h1 h2
          rw [SMap.insert, if_neg h1, if_neg h2, ih]
  unfold SMap.set
  rw [if_neg h]
  split
  · exact he m
  · exact hi m

/-! ### The canonical form -/

/-- Rising above a bound, weakened to a lower one. -/
theorem SMap.rising_mono {α : Type} (m : SMap α) {a b : Nat} (hab : b ≤ a) (h : SMap.rising (some a) m = true) :
    SMap.rising (some b) m = true := by
  cases m with
  | nil => rfl
  | cons p m =>
    simp only [SMap.rising, Bool.and_eq_true, decide_eq_true_eq] at h ⊢
    exact ⟨by omega, h.2⟩

theorem SMap.rising_some_none {α : Type} (m : SMap α) {a : Nat} (h : SMap.rising (some a) m = true) :
    SMap.rising none m = true := by
  cases m with
  | nil => rfl
  | cons p m => simp_all [SMap.rising]

theorem SMap.rising_erase {α : Type} (m : SMap α) (i : Nat) (b : Option Nat) (h : SMap.rising b m = true) :
    SMap.rising b (SMap.erase m i) = true := by
  induction m generalizing b with
  | nil => rfl
  | cons p m ih =>
    obtain ⟨k, v⟩ := p
    simp only [SMap.rising, Bool.and_eq_true] at h
    simp only [SMap.erase]
    split
    · cases b with
      | none => exact ih none (SMap.rising_some_none m h.2)
      | some n =>
        have : n < k := by simpa using h.1
        exact ih (some n) (SMap.rising_mono m (by omega) h.2)
    · simp only [SMap.rising, Bool.and_eq_true]
      exact ⟨h.1, ih (some k) h.2⟩

theorem SMap.rising_insert {α : Type} (m : SMap α) (i : Nat) (x : α) (b : Option Nat)
    (hb : ∀ n, b = some n → n < i) (h : SMap.rising b m = true) : SMap.rising b (SMap.insert m i x) = true := by
  induction m generalizing b with
  | nil =>
    simp only [SMap.insert, SMap.rising, Bool.and_eq_true]
    exact ⟨by cases b <;> simp_all, trivial⟩
  | cons p m ih =>
    obtain ⟨k, v⟩ := p
    simp only [SMap.rising, Bool.and_eq_true] at h
    simp only [SMap.insert]
    split
    · simp only [SMap.rising, Bool.and_eq_true, decide_eq_true_eq]
      exact ⟨by cases b <;> simp_all, by assumption, h.2⟩
    · split
      · subst_vars
        simp only [SMap.rising, Bool.and_eq_true]
        exact ⟨by cases b <;> simp_all, h.2⟩
      · simp only [SMap.rising, Bool.and_eq_true]
        refine ⟨h.1, ih (some k) ?_ h.2⟩
        intro n hn
        cases hn
        omega

theorem SMap.all_erase {α : Type} (m : SMap α) (i : Nat) (q : Nat × α → Bool) (h : m.all q = true) :
    (SMap.erase m i).all q = true := by
  induction m with
  | nil => rfl
  | cons p m ih =>
    obtain ⟨k, v⟩ := p
    simp only [List.all_cons, Bool.and_eq_true] at h
    simp only [SMap.erase]
    split
    · exact ih h.2
    · simp only [List.all_cons, Bool.and_eq_true]
      exact ⟨h.1, ih h.2⟩

theorem SMap.all_insert {α : Type} (m : SMap α) (i : Nat) (x : α) (q : Nat × α → Bool) (hx : q (i, x) = true)
    (h : m.all q = true) : (SMap.insert m i x).all q = true := by
  induction m with
  | nil => simpa [SMap.insert] using hx
  | cons p m ih =>
    obtain ⟨k, v⟩ := p
    simp only [List.all_cons, Bool.and_eq_true] at h
    simp only [SMap.insert]
    split
    · simp only [List.all_cons, Bool.and_eq_true]
      exact ⟨hx, h.1, h.2⟩
    · split
      · simp only [List.all_cons, Bool.and_eq_true]
        exact ⟨hx, h.2⟩
      · simp only [List.all_cons, Bool.and_eq_true]
        exact ⟨h.1, ih h.2⟩

/-- Setting an entry keeps a map canonical. -/
theorem SMap.wf_set {α : Type} [DecidableEq α] (m : SMap α) (i : Nat) (x d : α) (h : SMap.wf d m = true) :
    SMap.wf d (SMap.set m i x d) = true := by
  simp only [SMap.wf, Bool.and_eq_true] at h ⊢
  unfold SMap.set
  split
  · exact ⟨SMap.rising_erase m i none h.1, SMap.all_erase m i _ h.2⟩
  · refine ⟨SMap.rising_insert m i x none (by simp) h.1, SMap.all_insert m i x _ ?_ h.2⟩
    simpa using ‹¬x = d›

/-! ### Memory -/

/-- A byte written reads back, and every other byte reads as before. -/
theorem Memory.read_write (m : List Host.Cell) (a b : Nat) (x : Byte) :
    Memory.read (Memory.write m a x) b = if a = b then x else Memory.read m b := SMap.getD_set m a b x Memory.blank

theorem Memory.write_wf (m : List Host.Cell) (a : Nat) (x : Byte) (h : Memory.wf m = true) :
    Memory.wf (Memory.write m a x) = true := SMap.wf_set m a x Memory.blank h

/-- Bytes stored keep memory canonical. -/
theorem Memory.writeN_wf (bs : List Byte) (m : List Host.Cell) (a : Nat) (h : Memory.wf m = true) :
    Memory.wf (Memory.writeN m a bs) = true := by
  induction bs generalizing m a with
  | nil => exact h
  | cons b bs ih => exact ih _ _ (Memory.write_wf m a b h)

/-- A store leaves every byte outside it as it was. -/
theorem Memory.read_writeN_other (bs : List Byte) (m : List Host.Cell) (a b : Nat) (h : b < a ∨ a + bs.length ≤ b) :
    Memory.read (Memory.writeN m a bs) b = Memory.read m b := by
  induction bs generalizing m a with
  | nil => rfl
  | cons x bs ih =>
    simp only [List.length_cons] at h
    simp only [Memory.writeN]
    rw [ih _ _ (by omega), Memory.read_write]
    have : a ≠ b := by omega
    simp [this]

/-- A store's bytes read back in their places. -/
theorem Memory.read_writeN_same (bs : List Byte) (m : List Host.Cell) (a i : Nat) (h : i < bs.length) :
    Memory.read (Memory.writeN m a bs) (a + i) = bs[i] := by
  induction bs generalizing m a i with
  | nil => simp at h
  | cons x bs ih =>
    simp only [Memory.writeN]
    cases i with
    | zero =>
      rw [Memory.read_writeN_other _ _ _ _ (by omega), Memory.read_write]
      simp
    | succ i =>
      have := ih (Memory.write m a x) (a + 1) i (by simpa using h)
      simpa [Nat.add_assoc, Nat.add_comm 1 i] using this

/-- A store of no bytes, or reading none. -/
@[simp] theorem Memory.readN_length (m : List Host.Cell) (a n : Nat) : (Memory.readN m a n).length = n := by
  induction n generalizing a with
  | zero => rfl
  | succ n ih => simp [Memory.readN, ih]

end Sys2Proof.Machine
end

