-- ==== Sys2Proof/Laws/State.lean ====
section
/-! SUPPORT. Laws of the state: what each named update leaves as it was, field by field, and what it reads back. -/

namespace Sys2Proof.Machine

open Sys2Proof

/-! ### An update in place is a set of what stands there -/

@[simp] theorem State.setBit_eq (s : State) (r : Reg) (i : Nat) : s.setBit r i = s.setReg r (Word.putBit (s.reg r) i true) := rfl
@[simp] theorem State.putFld_eq (s : State) (r : Reg) (lo n x : Nat) : s.putFld r lo n x = s.setReg r (Word.put (s.reg r) lo n x) := rfl
@[simp] theorem State.countReg_eq (s : State) (r : Reg) (lo w n : Nat) : s.countReg r lo w n = s.setReg r (Word.count (s.reg r) lo w n) := rfl
@[simp] theorem State.raiseReg_eq (s : State) (r : Reg) (lo w x : Nat) : s.raiseReg r lo w x = s.setReg r (Word.raise (s.reg r) lo w x) := rfl
@[simp] theorem State.modCore_eq (s : State) (c : Nat) (f : Core → Core) : s.modCore c f = s.setCore c (f (s.core c)) := rfl
@[simp] theorem State.modCtx_eq (s : State) (k : CtxAt) (f : Context → Context) : s.modCtx k f = s.setCtx k (f (s.ctx k)) := rfl
@[simp] theorem State.modRing_eq (s : State) (r : Nat) (f : Ring → Ring) : s.modRing r f = s.setRing r (f (s.ring r)) := rfl
@[simp] theorem State.modRouter_eq (s : State) (r : Nat) (f : Router → Router) : s.modRouter r f = s.setRouter r (f (s.router r)) := rfl
@[simp] theorem State.modSpring_eq (s : State) (n : Nat) (f : Spring → Spring) : s.modSpring n f = s.setSpring n (f (s.spring n)) := rfl
@[simp] theorem State.modLink_eq (s : State) (l : Nat) (f : Link → Link) : s.modLink l f = s.setLink l (f (s.link l)) := rfl

/-! ### setReg changes `regs` alone -/

@[simp] theorem State.setReg_pending (s : State) (r : Reg) (v : Word) : (s.setReg r v).pending = s.pending := rfl
@[simp] theorem State.setReg_free (s : State) (r : Reg) (v : Word) : (s.setReg r v).free = s.free := rfl
@[simp] theorem State.setReg_part (s : State) (r : Reg) (v : Word) : (s.setReg r v).part = s.part := rfl
@[simp] theorem State.setReg_power (s : State) (r : Reg) (v : Word) : (s.setReg r v).power = s.power := rfl
@[simp] theorem State.setReg_boots (s : State) (r : Reg) (v : Word) : (s.setReg r v).boots = s.boots := rfl
@[simp] theorem State.setReg_config (s : State) (r : Reg) (v : Word) : (s.setReg r v).config = s.config := rfl
@[simp] theorem State.setReg_clusters (s : State) (r : Reg) (v : Word) : (s.setReg r v).clusters = s.clusters := rfl
@[simp] theorem State.setReg_secs (s : State) (r : Reg) (v : Word) : (s.setReg r v).secs = s.secs := rfl
@[simp] theorem State.setReg_mem (s : State) (r : Reg) (v : Word) : (s.setReg r v).mem = s.mem := rfl
@[simp] theorem State.setReg_marks (s : State) (r : Reg) (v : Word) : (s.setReg r v).marks = s.marks := rfl
@[simp] theorem State.setReg_imem (s : State) (r : Reg) (v : Word) : (s.setReg r v).imem = s.imem := rfl
@[simp] theorem State.setReg_imarks (s : State) (r : Reg) (v : Word) : (s.setReg r v).imarks = s.imarks := rfl
@[simp] theorem State.setReg_glitches (s : State) (r : Reg) (v : Word) : (s.setReg r v).glitches = s.glitches := rfl
@[simp] theorem State.setReg_broken (s : State) (r : Reg) (v : Word) : (s.setReg r v).broken = s.broken := rfl
@[simp] theorem State.setReg_writeBacks (s : State) (r : Reg) (v : Word) : (s.setReg r v).writeBacks = s.writeBacks := rfl
@[simp] theorem State.setReg_cores (s : State) (r : Reg) (v : Word) : (s.setReg r v).cores = s.cores := rfl
@[simp] theorem State.setReg_counters (s : State) (r : Reg) (v : Word) : (s.setReg r v).counters = s.counters := rfl
@[simp] theorem State.setReg_incs (s : State) (r : Reg) (v : Word) : (s.setReg r v).incs = s.incs := rfl
@[simp] theorem State.setReg_grid (s : State) (r : Reg) (v : Word) : (s.setReg r v).grid = s.grid := rfl
@[simp] theorem State.setReg_routers (s : State) (r : Reg) (v : Word) : (s.setReg r v).routers = s.routers := rfl
@[simp] theorem State.setReg_rings (s : State) (r : Reg) (v : Word) : (s.setReg r v).rings = s.rings := rfl
@[simp] theorem State.setReg_streams (s : State) (r : Reg) (v : Word) : (s.setReg r v).streams = s.streams := rfl
@[simp] theorem State.setReg_staging (s : State) (r : Reg) (v : Word) : (s.setReg r v).staging = s.staging := rfl
@[simp] theorem State.setReg_reqs (s : State) (r : Reg) (v : Word) : (s.setReg r v).reqs = s.reqs := rfl
@[simp] theorem State.setReg_nextReq (s : State) (r : Reg) (v : Word) : (s.setReg r v).nextReq = s.nextReq := rfl
@[simp] theorem State.setReg_far (s : State) (r : Reg) (v : Word) : (s.setReg r v).far = s.far := rfl
@[simp] theorem State.setReg_arbs (s : State) (r : Reg) (v : Word) : (s.setReg r v).arbs = s.arbs := rfl
@[simp] theorem State.setReg_springs (s : State) (r : Reg) (v : Word) : (s.setReg r v).springs = s.springs := rfl
@[simp] theorem State.setReg_links (s : State) (r : Reg) (v : Word) : (s.setReg r v).links = s.links := rfl
@[simp] theorem State.setReg_tags (s : State) (r : Reg) (v : Word) : (s.setReg r v).tags = s.tags := rfl
@[simp] theorem State.setReg_nextTag (s : State) (r : Reg) (v : Word) : (s.setReg r v).nextTag = s.nextTag := rfl
@[simp] theorem State.setReg_chain (s : State) (r : Reg) (v : Word) : (s.setReg r v).chain = s.chain := rfl
@[simp] theorem State.setReg_time (s : State) (r : Reg) (v : Word) : (s.setReg r v).time = s.time := rfl
@[simp] theorem State.setReg_svc (s : State) (r : Reg) (v : Word) : (s.setReg r v).svc = s.svc := rfl
@[simp] theorem State.setReg_chks (s : State) (r : Reg) (v : Word) : (s.setReg r v).chks = s.chks := rfl
@[simp] theorem State.setReg_faults (s : State) (r : Reg) (v : Word) : (s.setReg r v).faults = s.faults := rfl
@[simp] theorem State.setReg_programId (s : State) (r : Reg) (v : Word) : (s.setReg r v).programId = s.programId := rfl
@[simp] theorem State.setReg_scan (s : State) (r : Reg) (v : Word) : (s.setReg r v).scan = s.scan := rfl

/-! ### memStore changes `mem` alone -/

@[simp] theorem State.memStore_pending (s : State) (a : Nat) (bs : List Byte) : (s.memStore a bs).pending = s.pending := rfl
@[simp] theorem State.memStore_free (s : State) (a : Nat) (bs : List Byte) : (s.memStore a bs).free = s.free := rfl
@[simp] theorem State.memStore_part (s : State) (a : Nat) (bs : List Byte) : (s.memStore a bs).part = s.part := rfl
@[simp] theorem State.memStore_power (s : State) (a : Nat) (bs : List Byte) : (s.memStore a bs).power = s.power := rfl
@[simp] theorem State.memStore_boots (s : State) (a : Nat) (bs : List Byte) : (s.memStore a bs).boots = s.boots := rfl
@[simp] theorem State.memStore_config (s : State) (a : Nat) (bs : List Byte) : (s.memStore a bs).config = s.config := rfl
@[simp] theorem State.memStore_clusters (s : State) (a : Nat) (bs : List Byte) : (s.memStore a bs).clusters = s.clusters := rfl
@[simp] theorem State.memStore_secs (s : State) (a : Nat) (bs : List Byte) : (s.memStore a bs).secs = s.secs := rfl
@[simp] theorem State.memStore_regs (s : State) (a : Nat) (bs : List Byte) : (s.memStore a bs).regs = s.regs := rfl
@[simp] theorem State.memStore_marks (s : State) (a : Nat) (bs : List Byte) : (s.memStore a bs).marks = s.marks := rfl
@[simp] theorem State.memStore_imem (s : State) (a : Nat) (bs : List Byte) : (s.memStore a bs).imem = s.imem := rfl
@[simp] theorem State.memStore_imarks (s : State) (a : Nat) (bs : List Byte) : (s.memStore a bs).imarks = s.imarks := rfl
@[simp] theorem State.memStore_glitches (s : State) (a : Nat) (bs : List Byte) : (s.memStore a bs).glitches = s.glitches := rfl
@[simp] theorem State.memStore_broken (s : State) (a : Nat) (bs : List Byte) : (s.memStore a bs).broken = s.broken := rfl
@[simp] theorem State.memStore_writeBacks (s : State) (a : Nat) (bs : List Byte) : (s.memStore a bs).writeBacks = s.writeBacks := rfl
@[simp] theorem State.memStore_cores (s : State) (a : Nat) (bs : List Byte) : (s.memStore a bs).cores = s.cores := rfl
@[simp] theorem State.memStore_counters (s : State) (a : Nat) (bs : List Byte) : (s.memStore a bs).counters = s.counters := rfl
@[simp] theorem State.memStore_incs (s : State) (a : Nat) (bs : List Byte) : (s.memStore a bs).incs = s.incs := rfl
@[simp] theorem State.memStore_grid (s : State) (a : Nat) (bs : List Byte) : (s.memStore a bs).grid = s.grid := rfl
@[simp] theorem State.memStore_routers (s : State) (a : Nat) (bs : List Byte) : (s.memStore a bs).routers = s.routers := rfl
@[simp] theorem State.memStore_rings (s : State) (a : Nat) (bs : List Byte) : (s.memStore a bs).rings = s.rings := rfl
@[simp] theorem State.memStore_streams (s : State) (a : Nat) (bs : List Byte) : (s.memStore a bs).streams = s.streams := rfl
@[simp] theorem State.memStore_staging (s : State) (a : Nat) (bs : List Byte) : (s.memStore a bs).staging = s.staging := rfl
@[simp] theorem State.memStore_reqs (s : State) (a : Nat) (bs : List Byte) : (s.memStore a bs).reqs = s.reqs := rfl
@[simp] theorem State.memStore_nextReq (s : State) (a : Nat) (bs : List Byte) : (s.memStore a bs).nextReq = s.nextReq := rfl
@[simp] theorem State.memStore_far (s : State) (a : Nat) (bs : List Byte) : (s.memStore a bs).far = s.far := rfl
@[simp] theorem State.memStore_arbs (s : State) (a : Nat) (bs : List Byte) : (s.memStore a bs).arbs = s.arbs := rfl
@[simp] theorem State.memStore_springs (s : State) (a : Nat) (bs : List Byte) : (s.memStore a bs).springs = s.springs := rfl
@[simp] theorem State.memStore_links (s : State) (a : Nat) (bs : List Byte) : (s.memStore a bs).links = s.links := rfl
@[simp] theorem State.memStore_tags (s : State) (a : Nat) (bs : List Byte) : (s.memStore a bs).tags = s.tags := rfl
@[simp] theorem State.memStore_nextTag (s : State) (a : Nat) (bs : List Byte) : (s.memStore a bs).nextTag = s.nextTag := rfl
@[simp] theorem State.memStore_chain (s : State) (a : Nat) (bs : List Byte) : (s.memStore a bs).chain = s.chain := rfl
@[simp] theorem State.memStore_time (s : State) (a : Nat) (bs : List Byte) : (s.memStore a bs).time = s.time := rfl
@[simp] theorem State.memStore_svc (s : State) (a : Nat) (bs : List Byte) : (s.memStore a bs).svc = s.svc := rfl
@[simp] theorem State.memStore_chks (s : State) (a : Nat) (bs : List Byte) : (s.memStore a bs).chks = s.chks := rfl
@[simp] theorem State.memStore_faults (s : State) (a : Nat) (bs : List Byte) : (s.memStore a bs).faults = s.faults := rfl
@[simp] theorem State.memStore_programId (s : State) (a : Nat) (bs : List Byte) : (s.memStore a bs).programId = s.programId := rfl
@[simp] theorem State.memStore_scan (s : State) (a : Nat) (bs : List Byte) : (s.memStore a bs).scan = s.scan := rfl

/-! ### setCore changes `cores` alone -/

@[simp] theorem State.setCore_pending (s : State) (c : Nat) (x : Core) : (s.setCore c x).pending = s.pending := rfl
@[simp] theorem State.setCore_free (s : State) (c : Nat) (x : Core) : (s.setCore c x).free = s.free := rfl
@[simp] theorem State.setCore_part (s : State) (c : Nat) (x : Core) : (s.setCore c x).part = s.part := rfl
@[simp] theorem State.setCore_power (s : State) (c : Nat) (x : Core) : (s.setCore c x).power = s.power := rfl
@[simp] theorem State.setCore_boots (s : State) (c : Nat) (x : Core) : (s.setCore c x).boots = s.boots := rfl
@[simp] theorem State.setCore_config (s : State) (c : Nat) (x : Core) : (s.setCore c x).config = s.config := rfl
@[simp] theorem State.setCore_clusters (s : State) (c : Nat) (x : Core) : (s.setCore c x).clusters = s.clusters := rfl
@[simp] theorem State.setCore_secs (s : State) (c : Nat) (x : Core) : (s.setCore c x).secs = s.secs := rfl
@[simp] theorem State.setCore_regs (s : State) (c : Nat) (x : Core) : (s.setCore c x).regs = s.regs := rfl
@[simp] theorem State.setCore_mem (s : State) (c : Nat) (x : Core) : (s.setCore c x).mem = s.mem := rfl
@[simp] theorem State.setCore_marks (s : State) (c : Nat) (x : Core) : (s.setCore c x).marks = s.marks := rfl
@[simp] theorem State.setCore_imem (s : State) (c : Nat) (x : Core) : (s.setCore c x).imem = s.imem := rfl
@[simp] theorem State.setCore_imarks (s : State) (c : Nat) (x : Core) : (s.setCore c x).imarks = s.imarks := rfl
@[simp] theorem State.setCore_glitches (s : State) (c : Nat) (x : Core) : (s.setCore c x).glitches = s.glitches := rfl
@[simp] theorem State.setCore_broken (s : State) (c : Nat) (x : Core) : (s.setCore c x).broken = s.broken := rfl
@[simp] theorem State.setCore_writeBacks (s : State) (c : Nat) (x : Core) : (s.setCore c x).writeBacks = s.writeBacks := rfl
@[simp] theorem State.setCore_counters (s : State) (c : Nat) (x : Core) : (s.setCore c x).counters = s.counters := rfl
@[simp] theorem State.setCore_incs (s : State) (c : Nat) (x : Core) : (s.setCore c x).incs = s.incs := rfl
@[simp] theorem State.setCore_grid (s : State) (c : Nat) (x : Core) : (s.setCore c x).grid = s.grid := rfl
@[simp] theorem State.setCore_routers (s : State) (c : Nat) (x : Core) : (s.setCore c x).routers = s.routers := rfl
@[simp] theorem State.setCore_rings (s : State) (c : Nat) (x : Core) : (s.setCore c x).rings = s.rings := rfl
@[simp] theorem State.setCore_streams (s : State) (c : Nat) (x : Core) : (s.setCore c x).streams = s.streams := rfl
@[simp] theorem State.setCore_staging (s : State) (c : Nat) (x : Core) : (s.setCore c x).staging = s.staging := rfl
@[simp] theorem State.setCore_reqs (s : State) (c : Nat) (x : Core) : (s.setCore c x).reqs = s.reqs := rfl
@[simp] theorem State.setCore_nextReq (s : State) (c : Nat) (x : Core) : (s.setCore c x).nextReq = s.nextReq := rfl
@[simp] theorem State.setCore_far (s : State) (c : Nat) (x : Core) : (s.setCore c x).far = s.far := rfl
@[simp] theorem State.setCore_arbs (s : State) (c : Nat) (x : Core) : (s.setCore c x).arbs = s.arbs := rfl
@[simp] theorem State.setCore_springs (s : State) (c : Nat) (x : Core) : (s.setCore c x).springs = s.springs := rfl
@[simp] theorem State.setCore_links (s : State) (c : Nat) (x : Core) : (s.setCore c x).links = s.links := rfl
@[simp] theorem State.setCore_tags (s : State) (c : Nat) (x : Core) : (s.setCore c x).tags = s.tags := rfl
@[simp] theorem State.setCore_nextTag (s : State) (c : Nat) (x : Core) : (s.setCore c x).nextTag = s.nextTag := rfl
@[simp] theorem State.setCore_chain (s : State) (c : Nat) (x : Core) : (s.setCore c x).chain = s.chain := rfl
@[simp] theorem State.setCore_time (s : State) (c : Nat) (x : Core) : (s.setCore c x).time = s.time := rfl
@[simp] theorem State.setCore_svc (s : State) (c : Nat) (x : Core) : (s.setCore c x).svc = s.svc := rfl
@[simp] theorem State.setCore_chks (s : State) (c : Nat) (x : Core) : (s.setCore c x).chks = s.chks := rfl
@[simp] theorem State.setCore_faults (s : State) (c : Nat) (x : Core) : (s.setCore c x).faults = s.faults := rfl
@[simp] theorem State.setCore_programId (s : State) (c : Nat) (x : Core) : (s.setCore c x).programId = s.programId := rfl
@[simp] theorem State.setCore_scan (s : State) (c : Nat) (x : Core) : (s.setCore c x).scan = s.scan := rfl

/-! ### setCtx changes `cores` alone -/

@[simp] theorem State.setCtx_pending (s : State) (k : CtxAt) (x : Context) : (s.setCtx k x).pending = s.pending := rfl
@[simp] theorem State.setCtx_free (s : State) (k : CtxAt) (x : Context) : (s.setCtx k x).free = s.free := rfl
@[simp] theorem State.setCtx_part (s : State) (k : CtxAt) (x : Context) : (s.setCtx k x).part = s.part := rfl
@[simp] theorem State.setCtx_power (s : State) (k : CtxAt) (x : Context) : (s.setCtx k x).power = s.power := rfl
@[simp] theorem State.setCtx_boots (s : State) (k : CtxAt) (x : Context) : (s.setCtx k x).boots = s.boots := rfl
@[simp] theorem State.setCtx_config (s : State) (k : CtxAt) (x : Context) : (s.setCtx k x).config = s.config := rfl
@[simp] theorem State.setCtx_clusters (s : State) (k : CtxAt) (x : Context) : (s.setCtx k x).clusters = s.clusters := rfl
@[simp] theorem State.setCtx_secs (s : State) (k : CtxAt) (x : Context) : (s.setCtx k x).secs = s.secs := rfl
@[simp] theorem State.setCtx_regs (s : State) (k : CtxAt) (x : Context) : (s.setCtx k x).regs = s.regs := rfl
@[simp] theorem State.setCtx_mem (s : State) (k : CtxAt) (x : Context) : (s.setCtx k x).mem = s.mem := rfl
@[simp] theorem State.setCtx_marks (s : State) (k : CtxAt) (x : Context) : (s.setCtx k x).marks = s.marks := rfl
@[simp] theorem State.setCtx_imem (s : State) (k : CtxAt) (x : Context) : (s.setCtx k x).imem = s.imem := rfl
@[simp] theorem State.setCtx_imarks (s : State) (k : CtxAt) (x : Context) : (s.setCtx k x).imarks = s.imarks := rfl
@[simp] theorem State.setCtx_glitches (s : State) (k : CtxAt) (x : Context) : (s.setCtx k x).glitches = s.glitches := rfl
@[simp] theorem State.setCtx_broken (s : State) (k : CtxAt) (x : Context) : (s.setCtx k x).broken = s.broken := rfl
@[simp] theorem State.setCtx_writeBacks (s : State) (k : CtxAt) (x : Context) : (s.setCtx k x).writeBacks = s.writeBacks := rfl
@[simp] theorem State.setCtx_counters (s : State) (k : CtxAt) (x : Context) : (s.setCtx k x).counters = s.counters := rfl
@[simp] theorem State.setCtx_incs (s : State) (k : CtxAt) (x : Context) : (s.setCtx k x).incs = s.incs := rfl
@[simp] theorem State.setCtx_grid (s : State) (k : CtxAt) (x : Context) : (s.setCtx k x).grid = s.grid := rfl
@[simp] theorem State.setCtx_routers (s : State) (k : CtxAt) (x : Context) : (s.setCtx k x).routers = s.routers := rfl
@[simp] theorem State.setCtx_rings (s : State) (k : CtxAt) (x : Context) : (s.setCtx k x).rings = s.rings := rfl
@[simp] theorem State.setCtx_streams (s : State) (k : CtxAt) (x : Context) : (s.setCtx k x).streams = s.streams := rfl
@[simp] theorem State.setCtx_staging (s : State) (k : CtxAt) (x : Context) : (s.setCtx k x).staging = s.staging := rfl
@[simp] theorem State.setCtx_reqs (s : State) (k : CtxAt) (x : Context) : (s.setCtx k x).reqs = s.reqs := rfl
@[simp] theorem State.setCtx_nextReq (s : State) (k : CtxAt) (x : Context) : (s.setCtx k x).nextReq = s.nextReq := rfl
@[simp] theorem State.setCtx_far (s : State) (k : CtxAt) (x : Context) : (s.setCtx k x).far = s.far := rfl
@[simp] theorem State.setCtx_arbs (s : State) (k : CtxAt) (x : Context) : (s.setCtx k x).arbs = s.arbs := rfl
@[simp] theorem State.setCtx_springs (s : State) (k : CtxAt) (x : Context) : (s.setCtx k x).springs = s.springs := rfl
@[simp] theorem State.setCtx_links (s : State) (k : CtxAt) (x : Context) : (s.setCtx k x).links = s.links := rfl
@[simp] theorem State.setCtx_tags (s : State) (k : CtxAt) (x : Context) : (s.setCtx k x).tags = s.tags := rfl
@[simp] theorem State.setCtx_nextTag (s : State) (k : CtxAt) (x : Context) : (s.setCtx k x).nextTag = s.nextTag := rfl
@[simp] theorem State.setCtx_chain (s : State) (k : CtxAt) (x : Context) : (s.setCtx k x).chain = s.chain := rfl
@[simp] theorem State.setCtx_time (s : State) (k : CtxAt) (x : Context) : (s.setCtx k x).time = s.time := rfl
@[simp] theorem State.setCtx_svc (s : State) (k : CtxAt) (x : Context) : (s.setCtx k x).svc = s.svc := rfl
@[simp] theorem State.setCtx_chks (s : State) (k : CtxAt) (x : Context) : (s.setCtx k x).chks = s.chks := rfl
@[simp] theorem State.setCtx_faults (s : State) (k : CtxAt) (x : Context) : (s.setCtx k x).faults = s.faults := rfl
@[simp] theorem State.setCtx_programId (s : State) (k : CtxAt) (x : Context) : (s.setCtx k x).programId = s.programId := rfl
@[simp] theorem State.setCtx_scan (s : State) (k : CtxAt) (x : Context) : (s.setCtx k x).scan = s.scan := rfl

/-! ### setCounter changes `counters` alone -/

@[simp] theorem State.setCounter_pending (s : State) (c n : Nat) (x : Counter) : (s.setCounter c n x).pending = s.pending := rfl
@[simp] theorem State.setCounter_free (s : State) (c n : Nat) (x : Counter) : (s.setCounter c n x).free = s.free := rfl
@[simp] theorem State.setCounter_part (s : State) (c n : Nat) (x : Counter) : (s.setCounter c n x).part = s.part := rfl
@[simp] theorem State.setCounter_power (s : State) (c n : Nat) (x : Counter) : (s.setCounter c n x).power = s.power := rfl
@[simp] theorem State.setCounter_boots (s : State) (c n : Nat) (x : Counter) : (s.setCounter c n x).boots = s.boots := rfl
@[simp] theorem State.setCounter_config (s : State) (c n : Nat) (x : Counter) : (s.setCounter c n x).config = s.config := rfl
@[simp] theorem State.setCounter_clusters (s : State) (c n : Nat) (x : Counter) : (s.setCounter c n x).clusters = s.clusters := rfl
@[simp] theorem State.setCounter_secs (s : State) (c n : Nat) (x : Counter) : (s.setCounter c n x).secs = s.secs := rfl
@[simp] theorem State.setCounter_regs (s : State) (c n : Nat) (x : Counter) : (s.setCounter c n x).regs = s.regs := rfl
@[simp] theorem State.setCounter_mem (s : State) (c n : Nat) (x : Counter) : (s.setCounter c n x).mem = s.mem := rfl
@[simp] theorem State.setCounter_marks (s : State) (c n : Nat) (x : Counter) : (s.setCounter c n x).marks = s.marks := rfl
@[simp] theorem State.setCounter_imem (s : State) (c n : Nat) (x : Counter) : (s.setCounter c n x).imem = s.imem := rfl
@[simp] theorem State.setCounter_imarks (s : State) (c n : Nat) (x : Counter) : (s.setCounter c n x).imarks = s.imarks := rfl
@[simp] theorem State.setCounter_glitches (s : State) (c n : Nat) (x : Counter) : (s.setCounter c n x).glitches = s.glitches := rfl
@[simp] theorem State.setCounter_broken (s : State) (c n : Nat) (x : Counter) : (s.setCounter c n x).broken = s.broken := rfl
@[simp] theorem State.setCounter_writeBacks (s : State) (c n : Nat) (x : Counter) : (s.setCounter c n x).writeBacks = s.writeBacks := rfl
@[simp] theorem State.setCounter_cores (s : State) (c n : Nat) (x : Counter) : (s.setCounter c n x).cores = s.cores := rfl
@[simp] theorem State.setCounter_incs (s : State) (c n : Nat) (x : Counter) : (s.setCounter c n x).incs = s.incs := rfl
@[simp] theorem State.setCounter_grid (s : State) (c n : Nat) (x : Counter) : (s.setCounter c n x).grid = s.grid := rfl
@[simp] theorem State.setCounter_routers (s : State) (c n : Nat) (x : Counter) : (s.setCounter c n x).routers = s.routers := rfl
@[simp] theorem State.setCounter_rings (s : State) (c n : Nat) (x : Counter) : (s.setCounter c n x).rings = s.rings := rfl
@[simp] theorem State.setCounter_streams (s : State) (c n : Nat) (x : Counter) : (s.setCounter c n x).streams = s.streams := rfl
@[simp] theorem State.setCounter_staging (s : State) (c n : Nat) (x : Counter) : (s.setCounter c n x).staging = s.staging := rfl
@[simp] theorem State.setCounter_reqs (s : State) (c n : Nat) (x : Counter) : (s.setCounter c n x).reqs = s.reqs := rfl
@[simp] theorem State.setCounter_nextReq (s : State) (c n : Nat) (x : Counter) : (s.setCounter c n x).nextReq = s.nextReq := rfl
@[simp] theorem State.setCounter_far (s : State) (c n : Nat) (x : Counter) : (s.setCounter c n x).far = s.far := rfl
@[simp] theorem State.setCounter_arbs (s : State) (c n : Nat) (x : Counter) : (s.setCounter c n x).arbs = s.arbs := rfl
@[simp] theorem State.setCounter_springs (s : State) (c n : Nat) (x : Counter) : (s.setCounter c n x).springs = s.springs := rfl
@[simp] theorem State.setCounter_links (s : State) (c n : Nat) (x : Counter) : (s.setCounter c n x).links = s.links := rfl
@[simp] theorem State.setCounter_tags (s : State) (c n : Nat) (x : Counter) : (s.setCounter c n x).tags = s.tags := rfl
@[simp] theorem State.setCounter_nextTag (s : State) (c n : Nat) (x : Counter) : (s.setCounter c n x).nextTag = s.nextTag := rfl
@[simp] theorem State.setCounter_chain (s : State) (c n : Nat) (x : Counter) : (s.setCounter c n x).chain = s.chain := rfl
@[simp] theorem State.setCounter_time (s : State) (c n : Nat) (x : Counter) : (s.setCounter c n x).time = s.time := rfl
@[simp] theorem State.setCounter_svc (s : State) (c n : Nat) (x : Counter) : (s.setCounter c n x).svc = s.svc := rfl
@[simp] theorem State.setCounter_chks (s : State) (c n : Nat) (x : Counter) : (s.setCounter c n x).chks = s.chks := rfl
@[simp] theorem State.setCounter_faults (s : State) (c n : Nat) (x : Counter) : (s.setCounter c n x).faults = s.faults := rfl
@[simp] theorem State.setCounter_programId (s : State) (c n : Nat) (x : Counter) : (s.setCounter c n x).programId = s.programId := rfl
@[simp] theorem State.setCounter_scan (s : State) (c n : Nat) (x : Counter) : (s.setCounter c n x).scan = s.scan := rfl

/-! ### setRing changes `rings` alone -/

@[simp] theorem State.setRing_pending (s : State) (r : Nat) (x : Ring) : (s.setRing r x).pending = s.pending := rfl
@[simp] theorem State.setRing_free (s : State) (r : Nat) (x : Ring) : (s.setRing r x).free = s.free := rfl
@[simp] theorem State.setRing_part (s : State) (r : Nat) (x : Ring) : (s.setRing r x).part = s.part := rfl
@[simp] theorem State.setRing_power (s : State) (r : Nat) (x : Ring) : (s.setRing r x).power = s.power := rfl
@[simp] theorem State.setRing_boots (s : State) (r : Nat) (x : Ring) : (s.setRing r x).boots = s.boots := rfl
@[simp] theorem State.setRing_config (s : State) (r : Nat) (x : Ring) : (s.setRing r x).config = s.config := rfl
@[simp] theorem State.setRing_clusters (s : State) (r : Nat) (x : Ring) : (s.setRing r x).clusters = s.clusters := rfl
@[simp] theorem State.setRing_secs (s : State) (r : Nat) (x : Ring) : (s.setRing r x).secs = s.secs := rfl
@[simp] theorem State.setRing_regs (s : State) (r : Nat) (x : Ring) : (s.setRing r x).regs = s.regs := rfl
@[simp] theorem State.setRing_mem (s : State) (r : Nat) (x : Ring) : (s.setRing r x).mem = s.mem := rfl
@[simp] theorem State.setRing_marks (s : State) (r : Nat) (x : Ring) : (s.setRing r x).marks = s.marks := rfl
@[simp] theorem State.setRing_imem (s : State) (r : Nat) (x : Ring) : (s.setRing r x).imem = s.imem := rfl
@[simp] theorem State.setRing_imarks (s : State) (r : Nat) (x : Ring) : (s.setRing r x).imarks = s.imarks := rfl
@[simp] theorem State.setRing_glitches (s : State) (r : Nat) (x : Ring) : (s.setRing r x).glitches = s.glitches := rfl
@[simp] theorem State.setRing_broken (s : State) (r : Nat) (x : Ring) : (s.setRing r x).broken = s.broken := rfl
@[simp] theorem State.setRing_writeBacks (s : State) (r : Nat) (x : Ring) : (s.setRing r x).writeBacks = s.writeBacks := rfl
@[simp] theorem State.setRing_cores (s : State) (r : Nat) (x : Ring) : (s.setRing r x).cores = s.cores := rfl
@[simp] theorem State.setRing_counters (s : State) (r : Nat) (x : Ring) : (s.setRing r x).counters = s.counters := rfl
@[simp] theorem State.setRing_incs (s : State) (r : Nat) (x : Ring) : (s.setRing r x).incs = s.incs := rfl
@[simp] theorem State.setRing_grid (s : State) (r : Nat) (x : Ring) : (s.setRing r x).grid = s.grid := rfl
@[simp] theorem State.setRing_routers (s : State) (r : Nat) (x : Ring) : (s.setRing r x).routers = s.routers := rfl
@[simp] theorem State.setRing_streams (s : State) (r : Nat) (x : Ring) : (s.setRing r x).streams = s.streams := rfl
@[simp] theorem State.setRing_staging (s : State) (r : Nat) (x : Ring) : (s.setRing r x).staging = s.staging := rfl
@[simp] theorem State.setRing_reqs (s : State) (r : Nat) (x : Ring) : (s.setRing r x).reqs = s.reqs := rfl
@[simp] theorem State.setRing_nextReq (s : State) (r : Nat) (x : Ring) : (s.setRing r x).nextReq = s.nextReq := rfl
@[simp] theorem State.setRing_far (s : State) (r : Nat) (x : Ring) : (s.setRing r x).far = s.far := rfl
@[simp] theorem State.setRing_arbs (s : State) (r : Nat) (x : Ring) : (s.setRing r x).arbs = s.arbs := rfl
@[simp] theorem State.setRing_springs (s : State) (r : Nat) (x : Ring) : (s.setRing r x).springs = s.springs := rfl
@[simp] theorem State.setRing_links (s : State) (r : Nat) (x : Ring) : (s.setRing r x).links = s.links := rfl
@[simp] theorem State.setRing_tags (s : State) (r : Nat) (x : Ring) : (s.setRing r x).tags = s.tags := rfl
@[simp] theorem State.setRing_nextTag (s : State) (r : Nat) (x : Ring) : (s.setRing r x).nextTag = s.nextTag := rfl
@[simp] theorem State.setRing_chain (s : State) (r : Nat) (x : Ring) : (s.setRing r x).chain = s.chain := rfl
@[simp] theorem State.setRing_time (s : State) (r : Nat) (x : Ring) : (s.setRing r x).time = s.time := rfl
@[simp] theorem State.setRing_svc (s : State) (r : Nat) (x : Ring) : (s.setRing r x).svc = s.svc := rfl
@[simp] theorem State.setRing_chks (s : State) (r : Nat) (x : Ring) : (s.setRing r x).chks = s.chks := rfl
@[simp] theorem State.setRing_faults (s : State) (r : Nat) (x : Ring) : (s.setRing r x).faults = s.faults := rfl
@[simp] theorem State.setRing_programId (s : State) (r : Nat) (x : Ring) : (s.setRing r x).programId = s.programId := rfl
@[simp] theorem State.setRing_scan (s : State) (r : Nat) (x : Ring) : (s.setRing r x).scan = s.scan := rfl

/-! ### setXsCount changes `streams` alone -/

@[simp] theorem State.setXsCount_pending (s : State) (e n : Nat) (v : BitVec 32) : (s.setXsCount e n v).pending = s.pending := rfl
@[simp] theorem State.setXsCount_free (s : State) (e n : Nat) (v : BitVec 32) : (s.setXsCount e n v).free = s.free := rfl
@[simp] theorem State.setXsCount_part (s : State) (e n : Nat) (v : BitVec 32) : (s.setXsCount e n v).part = s.part := rfl
@[simp] theorem State.setXsCount_power (s : State) (e n : Nat) (v : BitVec 32) : (s.setXsCount e n v).power = s.power := rfl
@[simp] theorem State.setXsCount_boots (s : State) (e n : Nat) (v : BitVec 32) : (s.setXsCount e n v).boots = s.boots := rfl
@[simp] theorem State.setXsCount_config (s : State) (e n : Nat) (v : BitVec 32) : (s.setXsCount e n v).config = s.config := rfl
@[simp] theorem State.setXsCount_clusters (s : State) (e n : Nat) (v : BitVec 32) : (s.setXsCount e n v).clusters = s.clusters := rfl
@[simp] theorem State.setXsCount_secs (s : State) (e n : Nat) (v : BitVec 32) : (s.setXsCount e n v).secs = s.secs := rfl
@[simp] theorem State.setXsCount_regs (s : State) (e n : Nat) (v : BitVec 32) : (s.setXsCount e n v).regs = s.regs := rfl
@[simp] theorem State.setXsCount_mem (s : State) (e n : Nat) (v : BitVec 32) : (s.setXsCount e n v).mem = s.mem := rfl
@[simp] theorem State.setXsCount_marks (s : State) (e n : Nat) (v : BitVec 32) : (s.setXsCount e n v).marks = s.marks := rfl
@[simp] theorem State.setXsCount_imem (s : State) (e n : Nat) (v : BitVec 32) : (s.setXsCount e n v).imem = s.imem := rfl
@[simp] theorem State.setXsCount_imarks (s : State) (e n : Nat) (v : BitVec 32) : (s.setXsCount e n v).imarks = s.imarks := rfl
@[simp] theorem State.setXsCount_glitches (s : State) (e n : Nat) (v : BitVec 32) : (s.setXsCount e n v).glitches = s.glitches := rfl
@[simp] theorem State.setXsCount_broken (s : State) (e n : Nat) (v : BitVec 32) : (s.setXsCount e n v).broken = s.broken := rfl
@[simp] theorem State.setXsCount_writeBacks (s : State) (e n : Nat) (v : BitVec 32) : (s.setXsCount e n v).writeBacks = s.writeBacks := rfl
@[simp] theorem State.setXsCount_cores (s : State) (e n : Nat) (v : BitVec 32) : (s.setXsCount e n v).cores = s.cores := rfl
@[simp] theorem State.setXsCount_counters (s : State) (e n : Nat) (v : BitVec 32) : (s.setXsCount e n v).counters = s.counters := rfl
@[simp] theorem State.setXsCount_incs (s : State) (e n : Nat) (v : BitVec 32) : (s.setXsCount e n v).incs = s.incs := rfl
@[simp] theorem State.setXsCount_grid (s : State) (e n : Nat) (v : BitVec 32) : (s.setXsCount e n v).grid = s.grid := rfl
@[simp] theorem State.setXsCount_routers (s : State) (e n : Nat) (v : BitVec 32) : (s.setXsCount e n v).routers = s.routers := rfl
@[simp] theorem State.setXsCount_rings (s : State) (e n : Nat) (v : BitVec 32) : (s.setXsCount e n v).rings = s.rings := rfl
@[simp] theorem State.setXsCount_staging (s : State) (e n : Nat) (v : BitVec 32) : (s.setXsCount e n v).staging = s.staging := rfl
@[simp] theorem State.setXsCount_reqs (s : State) (e n : Nat) (v : BitVec 32) : (s.setXsCount e n v).reqs = s.reqs := rfl
@[simp] theorem State.setXsCount_nextReq (s : State) (e n : Nat) (v : BitVec 32) : (s.setXsCount e n v).nextReq = s.nextReq := rfl
@[simp] theorem State.setXsCount_far (s : State) (e n : Nat) (v : BitVec 32) : (s.setXsCount e n v).far = s.far := rfl
@[simp] theorem State.setXsCount_arbs (s : State) (e n : Nat) (v : BitVec 32) : (s.setXsCount e n v).arbs = s.arbs := rfl
@[simp] theorem State.setXsCount_springs (s : State) (e n : Nat) (v : BitVec 32) : (s.setXsCount e n v).springs = s.springs := rfl
@[simp] theorem State.setXsCount_links (s : State) (e n : Nat) (v : BitVec 32) : (s.setXsCount e n v).links = s.links := rfl
@[simp] theorem State.setXsCount_tags (s : State) (e n : Nat) (v : BitVec 32) : (s.setXsCount e n v).tags = s.tags := rfl
@[simp] theorem State.setXsCount_nextTag (s : State) (e n : Nat) (v : BitVec 32) : (s.setXsCount e n v).nextTag = s.nextTag := rfl
@[simp] theorem State.setXsCount_chain (s : State) (e n : Nat) (v : BitVec 32) : (s.setXsCount e n v).chain = s.chain := rfl
@[simp] theorem State.setXsCount_time (s : State) (e n : Nat) (v : BitVec 32) : (s.setXsCount e n v).time = s.time := rfl
@[simp] theorem State.setXsCount_svc (s : State) (e n : Nat) (v : BitVec 32) : (s.setXsCount e n v).svc = s.svc := rfl
@[simp] theorem State.setXsCount_chks (s : State) (e n : Nat) (v : BitVec 32) : (s.setXsCount e n v).chks = s.chks := rfl
@[simp] theorem State.setXsCount_faults (s : State) (e n : Nat) (v : BitVec 32) : (s.setXsCount e n v).faults = s.faults := rfl
@[simp] theorem State.setXsCount_programId (s : State) (e n : Nat) (v : BitVec 32) : (s.setXsCount e n v).programId = s.programId := rfl
@[simp] theorem State.setXsCount_scan (s : State) (e n : Nat) (v : BitVec 32) : (s.setXsCount e n v).scan = s.scan := rfl

/-! ### setSlot changes `staging` alone -/

@[simp] theorem State.setSlot_pending (s : State) (i : Nat) (x : Slot) : (s.setSlot i x).pending = s.pending := rfl
@[simp] theorem State.setSlot_free (s : State) (i : Nat) (x : Slot) : (s.setSlot i x).free = s.free := rfl
@[simp] theorem State.setSlot_part (s : State) (i : Nat) (x : Slot) : (s.setSlot i x).part = s.part := rfl
@[simp] theorem State.setSlot_power (s : State) (i : Nat) (x : Slot) : (s.setSlot i x).power = s.power := rfl
@[simp] theorem State.setSlot_boots (s : State) (i : Nat) (x : Slot) : (s.setSlot i x).boots = s.boots := rfl
@[simp] theorem State.setSlot_config (s : State) (i : Nat) (x : Slot) : (s.setSlot i x).config = s.config := rfl
@[simp] theorem State.setSlot_clusters (s : State) (i : Nat) (x : Slot) : (s.setSlot i x).clusters = s.clusters := rfl
@[simp] theorem State.setSlot_secs (s : State) (i : Nat) (x : Slot) : (s.setSlot i x).secs = s.secs := rfl
@[simp] theorem State.setSlot_regs (s : State) (i : Nat) (x : Slot) : (s.setSlot i x).regs = s.regs := rfl
@[simp] theorem State.setSlot_mem (s : State) (i : Nat) (x : Slot) : (s.setSlot i x).mem = s.mem := rfl
@[simp] theorem State.setSlot_marks (s : State) (i : Nat) (x : Slot) : (s.setSlot i x).marks = s.marks := rfl
@[simp] theorem State.setSlot_imem (s : State) (i : Nat) (x : Slot) : (s.setSlot i x).imem = s.imem := rfl
@[simp] theorem State.setSlot_imarks (s : State) (i : Nat) (x : Slot) : (s.setSlot i x).imarks = s.imarks := rfl
@[simp] theorem State.setSlot_glitches (s : State) (i : Nat) (x : Slot) : (s.setSlot i x).glitches = s.glitches := rfl
@[simp] theorem State.setSlot_broken (s : State) (i : Nat) (x : Slot) : (s.setSlot i x).broken = s.broken := rfl
@[simp] theorem State.setSlot_writeBacks (s : State) (i : Nat) (x : Slot) : (s.setSlot i x).writeBacks = s.writeBacks := rfl
@[simp] theorem State.setSlot_cores (s : State) (i : Nat) (x : Slot) : (s.setSlot i x).cores = s.cores := rfl
@[simp] theorem State.setSlot_counters (s : State) (i : Nat) (x : Slot) : (s.setSlot i x).counters = s.counters := rfl
@[simp] theorem State.setSlot_incs (s : State) (i : Nat) (x : Slot) : (s.setSlot i x).incs = s.incs := rfl
@[simp] theorem State.setSlot_grid (s : State) (i : Nat) (x : Slot) : (s.setSlot i x).grid = s.grid := rfl
@[simp] theorem State.setSlot_routers (s : State) (i : Nat) (x : Slot) : (s.setSlot i x).routers = s.routers := rfl
@[simp] theorem State.setSlot_rings (s : State) (i : Nat) (x : Slot) : (s.setSlot i x).rings = s.rings := rfl
@[simp] theorem State.setSlot_streams (s : State) (i : Nat) (x : Slot) : (s.setSlot i x).streams = s.streams := rfl
@[simp] theorem State.setSlot_reqs (s : State) (i : Nat) (x : Slot) : (s.setSlot i x).reqs = s.reqs := rfl
@[simp] theorem State.setSlot_nextReq (s : State) (i : Nat) (x : Slot) : (s.setSlot i x).nextReq = s.nextReq := rfl
@[simp] theorem State.setSlot_far (s : State) (i : Nat) (x : Slot) : (s.setSlot i x).far = s.far := rfl
@[simp] theorem State.setSlot_arbs (s : State) (i : Nat) (x : Slot) : (s.setSlot i x).arbs = s.arbs := rfl
@[simp] theorem State.setSlot_springs (s : State) (i : Nat) (x : Slot) : (s.setSlot i x).springs = s.springs := rfl
@[simp] theorem State.setSlot_links (s : State) (i : Nat) (x : Slot) : (s.setSlot i x).links = s.links := rfl
@[simp] theorem State.setSlot_tags (s : State) (i : Nat) (x : Slot) : (s.setSlot i x).tags = s.tags := rfl
@[simp] theorem State.setSlot_nextTag (s : State) (i : Nat) (x : Slot) : (s.setSlot i x).nextTag = s.nextTag := rfl
@[simp] theorem State.setSlot_chain (s : State) (i : Nat) (x : Slot) : (s.setSlot i x).chain = s.chain := rfl
@[simp] theorem State.setSlot_time (s : State) (i : Nat) (x : Slot) : (s.setSlot i x).time = s.time := rfl
@[simp] theorem State.setSlot_svc (s : State) (i : Nat) (x : Slot) : (s.setSlot i x).svc = s.svc := rfl
@[simp] theorem State.setSlot_chks (s : State) (i : Nat) (x : Slot) : (s.setSlot i x).chks = s.chks := rfl
@[simp] theorem State.setSlot_faults (s : State) (i : Nat) (x : Slot) : (s.setSlot i x).faults = s.faults := rfl
@[simp] theorem State.setSlot_programId (s : State) (i : Nat) (x : Slot) : (s.setSlot i x).programId = s.programId := rfl
@[simp] theorem State.setSlot_scan (s : State) (i : Nat) (x : Slot) : (s.setSlot i x).scan = s.scan := rfl

/-! ### setArb changes `arbs` alone -/

@[simp] theorem State.setArb_pending (s : State) (a : Nat) (x : Arbiter) : (s.setArb a x).pending = s.pending := rfl
@[simp] theorem State.setArb_free (s : State) (a : Nat) (x : Arbiter) : (s.setArb a x).free = s.free := rfl
@[simp] theorem State.setArb_part (s : State) (a : Nat) (x : Arbiter) : (s.setArb a x).part = s.part := rfl
@[simp] theorem State.setArb_power (s : State) (a : Nat) (x : Arbiter) : (s.setArb a x).power = s.power := rfl
@[simp] theorem State.setArb_boots (s : State) (a : Nat) (x : Arbiter) : (s.setArb a x).boots = s.boots := rfl
@[simp] theorem State.setArb_config (s : State) (a : Nat) (x : Arbiter) : (s.setArb a x).config = s.config := rfl
@[simp] theorem State.setArb_clusters (s : State) (a : Nat) (x : Arbiter) : (s.setArb a x).clusters = s.clusters := rfl
@[simp] theorem State.setArb_secs (s : State) (a : Nat) (x : Arbiter) : (s.setArb a x).secs = s.secs := rfl
@[simp] theorem State.setArb_regs (s : State) (a : Nat) (x : Arbiter) : (s.setArb a x).regs = s.regs := rfl
@[simp] theorem State.setArb_mem (s : State) (a : Nat) (x : Arbiter) : (s.setArb a x).mem = s.mem := rfl
@[simp] theorem State.setArb_marks (s : State) (a : Nat) (x : Arbiter) : (s.setArb a x).marks = s.marks := rfl
@[simp] theorem State.setArb_imem (s : State) (a : Nat) (x : Arbiter) : (s.setArb a x).imem = s.imem := rfl
@[simp] theorem State.setArb_imarks (s : State) (a : Nat) (x : Arbiter) : (s.setArb a x).imarks = s.imarks := rfl
@[simp] theorem State.setArb_glitches (s : State) (a : Nat) (x : Arbiter) : (s.setArb a x).glitches = s.glitches := rfl
@[simp] theorem State.setArb_broken (s : State) (a : Nat) (x : Arbiter) : (s.setArb a x).broken = s.broken := rfl
@[simp] theorem State.setArb_writeBacks (s : State) (a : Nat) (x : Arbiter) : (s.setArb a x).writeBacks = s.writeBacks := rfl
@[simp] theorem State.setArb_cores (s : State) (a : Nat) (x : Arbiter) : (s.setArb a x).cores = s.cores := rfl
@[simp] theorem State.setArb_counters (s : State) (a : Nat) (x : Arbiter) : (s.setArb a x).counters = s.counters := rfl
@[simp] theorem State.setArb_incs (s : State) (a : Nat) (x : Arbiter) : (s.setArb a x).incs = s.incs := rfl
@[simp] theorem State.setArb_grid (s : State) (a : Nat) (x : Arbiter) : (s.setArb a x).grid = s.grid := rfl
@[simp] theorem State.setArb_routers (s : State) (a : Nat) (x : Arbiter) : (s.setArb a x).routers = s.routers := rfl
@[simp] theorem State.setArb_rings (s : State) (a : Nat) (x : Arbiter) : (s.setArb a x).rings = s.rings := rfl
@[simp] theorem State.setArb_streams (s : State) (a : Nat) (x : Arbiter) : (s.setArb a x).streams = s.streams := rfl
@[simp] theorem State.setArb_staging (s : State) (a : Nat) (x : Arbiter) : (s.setArb a x).staging = s.staging := rfl
@[simp] theorem State.setArb_reqs (s : State) (a : Nat) (x : Arbiter) : (s.setArb a x).reqs = s.reqs := rfl
@[simp] theorem State.setArb_nextReq (s : State) (a : Nat) (x : Arbiter) : (s.setArb a x).nextReq = s.nextReq := rfl
@[simp] theorem State.setArb_far (s : State) (a : Nat) (x : Arbiter) : (s.setArb a x).far = s.far := rfl
@[simp] theorem State.setArb_springs (s : State) (a : Nat) (x : Arbiter) : (s.setArb a x).springs = s.springs := rfl
@[simp] theorem State.setArb_links (s : State) (a : Nat) (x : Arbiter) : (s.setArb a x).links = s.links := rfl
@[simp] theorem State.setArb_tags (s : State) (a : Nat) (x : Arbiter) : (s.setArb a x).tags = s.tags := rfl
@[simp] theorem State.setArb_nextTag (s : State) (a : Nat) (x : Arbiter) : (s.setArb a x).nextTag = s.nextTag := rfl
@[simp] theorem State.setArb_chain (s : State) (a : Nat) (x : Arbiter) : (s.setArb a x).chain = s.chain := rfl
@[simp] theorem State.setArb_time (s : State) (a : Nat) (x : Arbiter) : (s.setArb a x).time = s.time := rfl
@[simp] theorem State.setArb_svc (s : State) (a : Nat) (x : Arbiter) : (s.setArb a x).svc = s.svc := rfl
@[simp] theorem State.setArb_chks (s : State) (a : Nat) (x : Arbiter) : (s.setArb a x).chks = s.chks := rfl
@[simp] theorem State.setArb_faults (s : State) (a : Nat) (x : Arbiter) : (s.setArb a x).faults = s.faults := rfl
@[simp] theorem State.setArb_programId (s : State) (a : Nat) (x : Arbiter) : (s.setArb a x).programId = s.programId := rfl
@[simp] theorem State.setArb_scan (s : State) (a : Nat) (x : Arbiter) : (s.setArb a x).scan = s.scan := rfl

/-! ### setRouter changes `routers` alone -/

@[simp] theorem State.setRouter_pending (s : State) (r : Nat) (x : Router) : (s.setRouter r x).pending = s.pending := rfl
@[simp] theorem State.setRouter_free (s : State) (r : Nat) (x : Router) : (s.setRouter r x).free = s.free := rfl
@[simp] theorem State.setRouter_part (s : State) (r : Nat) (x : Router) : (s.setRouter r x).part = s.part := rfl
@[simp] theorem State.setRouter_power (s : State) (r : Nat) (x : Router) : (s.setRouter r x).power = s.power := rfl
@[simp] theorem State.setRouter_boots (s : State) (r : Nat) (x : Router) : (s.setRouter r x).boots = s.boots := rfl
@[simp] theorem State.setRouter_config (s : State) (r : Nat) (x : Router) : (s.setRouter r x).config = s.config := rfl
@[simp] theorem State.setRouter_clusters (s : State) (r : Nat) (x : Router) : (s.setRouter r x).clusters = s.clusters := rfl
@[simp] theorem State.setRouter_secs (s : State) (r : Nat) (x : Router) : (s.setRouter r x).secs = s.secs := rfl
@[simp] theorem State.setRouter_regs (s : State) (r : Nat) (x : Router) : (s.setRouter r x).regs = s.regs := rfl
@[simp] theorem State.setRouter_mem (s : State) (r : Nat) (x : Router) : (s.setRouter r x).mem = s.mem := rfl
@[simp] theorem State.setRouter_marks (s : State) (r : Nat) (x : Router) : (s.setRouter r x).marks = s.marks := rfl
@[simp] theorem State.setRouter_imem (s : State) (r : Nat) (x : Router) : (s.setRouter r x).imem = s.imem := rfl
@[simp] theorem State.setRouter_imarks (s : State) (r : Nat) (x : Router) : (s.setRouter r x).imarks = s.imarks := rfl
@[simp] theorem State.setRouter_glitches (s : State) (r : Nat) (x : Router) : (s.setRouter r x).glitches = s.glitches := rfl
@[simp] theorem State.setRouter_broken (s : State) (r : Nat) (x : Router) : (s.setRouter r x).broken = s.broken := rfl
@[simp] theorem State.setRouter_writeBacks (s : State) (r : Nat) (x : Router) : (s.setRouter r x).writeBacks = s.writeBacks := rfl
@[simp] theorem State.setRouter_cores (s : State) (r : Nat) (x : Router) : (s.setRouter r x).cores = s.cores := rfl
@[simp] theorem State.setRouter_counters (s : State) (r : Nat) (x : Router) : (s.setRouter r x).counters = s.counters := rfl
@[simp] theorem State.setRouter_incs (s : State) (r : Nat) (x : Router) : (s.setRouter r x).incs = s.incs := rfl
@[simp] theorem State.setRouter_grid (s : State) (r : Nat) (x : Router) : (s.setRouter r x).grid = s.grid := rfl
@[simp] theorem State.setRouter_rings (s : State) (r : Nat) (x : Router) : (s.setRouter r x).rings = s.rings := rfl
@[simp] theorem State.setRouter_streams (s : State) (r : Nat) (x : Router) : (s.setRouter r x).streams = s.streams := rfl
@[simp] theorem State.setRouter_staging (s : State) (r : Nat) (x : Router) : (s.setRouter r x).staging = s.staging := rfl
@[simp] theorem State.setRouter_reqs (s : State) (r : Nat) (x : Router) : (s.setRouter r x).reqs = s.reqs := rfl
@[simp] theorem State.setRouter_nextReq (s : State) (r : Nat) (x : Router) : (s.setRouter r x).nextReq = s.nextReq := rfl
@[simp] theorem State.setRouter_far (s : State) (r : Nat) (x : Router) : (s.setRouter r x).far = s.far := rfl
@[simp] theorem State.setRouter_arbs (s : State) (r : Nat) (x : Router) : (s.setRouter r x).arbs = s.arbs := rfl
@[simp] theorem State.setRouter_springs (s : State) (r : Nat) (x : Router) : (s.setRouter r x).springs = s.springs := rfl
@[simp] theorem State.setRouter_links (s : State) (r : Nat) (x : Router) : (s.setRouter r x).links = s.links := rfl
@[simp] theorem State.setRouter_tags (s : State) (r : Nat) (x : Router) : (s.setRouter r x).tags = s.tags := rfl
@[simp] theorem State.setRouter_nextTag (s : State) (r : Nat) (x : Router) : (s.setRouter r x).nextTag = s.nextTag := rfl
@[simp] theorem State.setRouter_chain (s : State) (r : Nat) (x : Router) : (s.setRouter r x).chain = s.chain := rfl
@[simp] theorem State.setRouter_time (s : State) (r : Nat) (x : Router) : (s.setRouter r x).time = s.time := rfl
@[simp] theorem State.setRouter_svc (s : State) (r : Nat) (x : Router) : (s.setRouter r x).svc = s.svc := rfl
@[simp] theorem State.setRouter_chks (s : State) (r : Nat) (x : Router) : (s.setRouter r x).chks = s.chks := rfl
@[simp] theorem State.setRouter_faults (s : State) (r : Nat) (x : Router) : (s.setRouter r x).faults = s.faults := rfl
@[simp] theorem State.setRouter_programId (s : State) (r : Nat) (x : Router) : (s.setRouter r x).programId = s.programId := rfl
@[simp] theorem State.setRouter_scan (s : State) (r : Nat) (x : Router) : (s.setRouter r x).scan = s.scan := rfl

/-! ### modEp changes `routers` alone -/

@[simp] theorem State.modEp_pending (s : State) (r n : Nat) (f : Endpoint → Endpoint) : (s.modEp r n f).pending = s.pending := rfl
@[simp] theorem State.modEp_free (s : State) (r n : Nat) (f : Endpoint → Endpoint) : (s.modEp r n f).free = s.free := rfl
@[simp] theorem State.modEp_part (s : State) (r n : Nat) (f : Endpoint → Endpoint) : (s.modEp r n f).part = s.part := rfl
@[simp] theorem State.modEp_power (s : State) (r n : Nat) (f : Endpoint → Endpoint) : (s.modEp r n f).power = s.power := rfl
@[simp] theorem State.modEp_boots (s : State) (r n : Nat) (f : Endpoint → Endpoint) : (s.modEp r n f).boots = s.boots := rfl
@[simp] theorem State.modEp_config (s : State) (r n : Nat) (f : Endpoint → Endpoint) : (s.modEp r n f).config = s.config := rfl
@[simp] theorem State.modEp_clusters (s : State) (r n : Nat) (f : Endpoint → Endpoint) : (s.modEp r n f).clusters = s.clusters := rfl
@[simp] theorem State.modEp_secs (s : State) (r n : Nat) (f : Endpoint → Endpoint) : (s.modEp r n f).secs = s.secs := rfl
@[simp] theorem State.modEp_regs (s : State) (r n : Nat) (f : Endpoint → Endpoint) : (s.modEp r n f).regs = s.regs := rfl
@[simp] theorem State.modEp_mem (s : State) (r n : Nat) (f : Endpoint → Endpoint) : (s.modEp r n f).mem = s.mem := rfl
@[simp] theorem State.modEp_marks (s : State) (r n : Nat) (f : Endpoint → Endpoint) : (s.modEp r n f).marks = s.marks := rfl
@[simp] theorem State.modEp_imem (s : State) (r n : Nat) (f : Endpoint → Endpoint) : (s.modEp r n f).imem = s.imem := rfl
@[simp] theorem State.modEp_imarks (s : State) (r n : Nat) (f : Endpoint → Endpoint) : (s.modEp r n f).imarks = s.imarks := rfl
@[simp] theorem State.modEp_glitches (s : State) (r n : Nat) (f : Endpoint → Endpoint) : (s.modEp r n f).glitches = s.glitches := rfl
@[simp] theorem State.modEp_broken (s : State) (r n : Nat) (f : Endpoint → Endpoint) : (s.modEp r n f).broken = s.broken := rfl
@[simp] theorem State.modEp_writeBacks (s : State) (r n : Nat) (f : Endpoint → Endpoint) : (s.modEp r n f).writeBacks = s.writeBacks := rfl
@[simp] theorem State.modEp_cores (s : State) (r n : Nat) (f : Endpoint → Endpoint) : (s.modEp r n f).cores = s.cores := rfl
@[simp] theorem State.modEp_counters (s : State) (r n : Nat) (f : Endpoint → Endpoint) : (s.modEp r n f).counters = s.counters := rfl
@[simp] theorem State.modEp_incs (s : State) (r n : Nat) (f : Endpoint → Endpoint) : (s.modEp r n f).incs = s.incs := rfl
@[simp] theorem State.modEp_grid (s : State) (r n : Nat) (f : Endpoint → Endpoint) : (s.modEp r n f).grid = s.grid := rfl
@[simp] theorem State.modEp_rings (s : State) (r n : Nat) (f : Endpoint → Endpoint) : (s.modEp r n f).rings = s.rings := rfl
@[simp] theorem State.modEp_streams (s : State) (r n : Nat) (f : Endpoint → Endpoint) : (s.modEp r n f).streams = s.streams := rfl
@[simp] theorem State.modEp_staging (s : State) (r n : Nat) (f : Endpoint → Endpoint) : (s.modEp r n f).staging = s.staging := rfl
@[simp] theorem State.modEp_reqs (s : State) (r n : Nat) (f : Endpoint → Endpoint) : (s.modEp r n f).reqs = s.reqs := rfl
@[simp] theorem State.modEp_nextReq (s : State) (r n : Nat) (f : Endpoint → Endpoint) : (s.modEp r n f).nextReq = s.nextReq := rfl
@[simp] theorem State.modEp_far (s : State) (r n : Nat) (f : Endpoint → Endpoint) : (s.modEp r n f).far = s.far := rfl
@[simp] theorem State.modEp_arbs (s : State) (r n : Nat) (f : Endpoint → Endpoint) : (s.modEp r n f).arbs = s.arbs := rfl
@[simp] theorem State.modEp_springs (s : State) (r n : Nat) (f : Endpoint → Endpoint) : (s.modEp r n f).springs = s.springs := rfl
@[simp] theorem State.modEp_links (s : State) (r n : Nat) (f : Endpoint → Endpoint) : (s.modEp r n f).links = s.links := rfl
@[simp] theorem State.modEp_tags (s : State) (r n : Nat) (f : Endpoint → Endpoint) : (s.modEp r n f).tags = s.tags := rfl
@[simp] theorem State.modEp_nextTag (s : State) (r n : Nat) (f : Endpoint → Endpoint) : (s.modEp r n f).nextTag = s.nextTag := rfl
@[simp] theorem State.modEp_chain (s : State) (r n : Nat) (f : Endpoint → Endpoint) : (s.modEp r n f).chain = s.chain := rfl
@[simp] theorem State.modEp_time (s : State) (r n : Nat) (f : Endpoint → Endpoint) : (s.modEp r n f).time = s.time := rfl
@[simp] theorem State.modEp_svc (s : State) (r n : Nat) (f : Endpoint → Endpoint) : (s.modEp r n f).svc = s.svc := rfl
@[simp] theorem State.modEp_chks (s : State) (r n : Nat) (f : Endpoint → Endpoint) : (s.modEp r n f).chks = s.chks := rfl
@[simp] theorem State.modEp_faults (s : State) (r n : Nat) (f : Endpoint → Endpoint) : (s.modEp r n f).faults = s.faults := rfl
@[simp] theorem State.modEp_programId (s : State) (r n : Nat) (f : Endpoint → Endpoint) : (s.modEp r n f).programId = s.programId := rfl
@[simp] theorem State.modEp_scan (s : State) (r n : Nat) (f : Endpoint → Endpoint) : (s.modEp r n f).scan = s.scan := rfl

/-! ### setSpring changes `springs` alone -/

@[simp] theorem State.setSpring_pending (s : State) (n : Nat) (x : Spring) : (s.setSpring n x).pending = s.pending := rfl
@[simp] theorem State.setSpring_free (s : State) (n : Nat) (x : Spring) : (s.setSpring n x).free = s.free := rfl
@[simp] theorem State.setSpring_part (s : State) (n : Nat) (x : Spring) : (s.setSpring n x).part = s.part := rfl
@[simp] theorem State.setSpring_power (s : State) (n : Nat) (x : Spring) : (s.setSpring n x).power = s.power := rfl
@[simp] theorem State.setSpring_boots (s : State) (n : Nat) (x : Spring) : (s.setSpring n x).boots = s.boots := rfl
@[simp] theorem State.setSpring_config (s : State) (n : Nat) (x : Spring) : (s.setSpring n x).config = s.config := rfl
@[simp] theorem State.setSpring_clusters (s : State) (n : Nat) (x : Spring) : (s.setSpring n x).clusters = s.clusters := rfl
@[simp] theorem State.setSpring_secs (s : State) (n : Nat) (x : Spring) : (s.setSpring n x).secs = s.secs := rfl
@[simp] theorem State.setSpring_regs (s : State) (n : Nat) (x : Spring) : (s.setSpring n x).regs = s.regs := rfl
@[simp] theorem State.setSpring_mem (s : State) (n : Nat) (x : Spring) : (s.setSpring n x).mem = s.mem := rfl
@[simp] theorem State.setSpring_marks (s : State) (n : Nat) (x : Spring) : (s.setSpring n x).marks = s.marks := rfl
@[simp] theorem State.setSpring_imem (s : State) (n : Nat) (x : Spring) : (s.setSpring n x).imem = s.imem := rfl
@[simp] theorem State.setSpring_imarks (s : State) (n : Nat) (x : Spring) : (s.setSpring n x).imarks = s.imarks := rfl
@[simp] theorem State.setSpring_glitches (s : State) (n : Nat) (x : Spring) : (s.setSpring n x).glitches = s.glitches := rfl
@[simp] theorem State.setSpring_broken (s : State) (n : Nat) (x : Spring) : (s.setSpring n x).broken = s.broken := rfl
@[simp] theorem State.setSpring_writeBacks (s : State) (n : Nat) (x : Spring) : (s.setSpring n x).writeBacks = s.writeBacks := rfl
@[simp] theorem State.setSpring_cores (s : State) (n : Nat) (x : Spring) : (s.setSpring n x).cores = s.cores := rfl
@[simp] theorem State.setSpring_counters (s : State) (n : Nat) (x : Spring) : (s.setSpring n x).counters = s.counters := rfl
@[simp] theorem State.setSpring_incs (s : State) (n : Nat) (x : Spring) : (s.setSpring n x).incs = s.incs := rfl
@[simp] theorem State.setSpring_grid (s : State) (n : Nat) (x : Spring) : (s.setSpring n x).grid = s.grid := rfl
@[simp] theorem State.setSpring_routers (s : State) (n : Nat) (x : Spring) : (s.setSpring n x).routers = s.routers := rfl
@[simp] theorem State.setSpring_rings (s : State) (n : Nat) (x : Spring) : (s.setSpring n x).rings = s.rings := rfl
@[simp] theorem State.setSpring_streams (s : State) (n : Nat) (x : Spring) : (s.setSpring n x).streams = s.streams := rfl
@[simp] theorem State.setSpring_staging (s : State) (n : Nat) (x : Spring) : (s.setSpring n x).staging = s.staging := rfl
@[simp] theorem State.setSpring_reqs (s : State) (n : Nat) (x : Spring) : (s.setSpring n x).reqs = s.reqs := rfl
@[simp] theorem State.setSpring_nextReq (s : State) (n : Nat) (x : Spring) : (s.setSpring n x).nextReq = s.nextReq := rfl
@[simp] theorem State.setSpring_far (s : State) (n : Nat) (x : Spring) : (s.setSpring n x).far = s.far := rfl
@[simp] theorem State.setSpring_arbs (s : State) (n : Nat) (x : Spring) : (s.setSpring n x).arbs = s.arbs := rfl
@[simp] theorem State.setSpring_links (s : State) (n : Nat) (x : Spring) : (s.setSpring n x).links = s.links := rfl
@[simp] theorem State.setSpring_tags (s : State) (n : Nat) (x : Spring) : (s.setSpring n x).tags = s.tags := rfl
@[simp] theorem State.setSpring_nextTag (s : State) (n : Nat) (x : Spring) : (s.setSpring n x).nextTag = s.nextTag := rfl
@[simp] theorem State.setSpring_chain (s : State) (n : Nat) (x : Spring) : (s.setSpring n x).chain = s.chain := rfl
@[simp] theorem State.setSpring_time (s : State) (n : Nat) (x : Spring) : (s.setSpring n x).time = s.time := rfl
@[simp] theorem State.setSpring_svc (s : State) (n : Nat) (x : Spring) : (s.setSpring n x).svc = s.svc := rfl
@[simp] theorem State.setSpring_chks (s : State) (n : Nat) (x : Spring) : (s.setSpring n x).chks = s.chks := rfl
@[simp] theorem State.setSpring_faults (s : State) (n : Nat) (x : Spring) : (s.setSpring n x).faults = s.faults := rfl
@[simp] theorem State.setSpring_programId (s : State) (n : Nat) (x : Spring) : (s.setSpring n x).programId = s.programId := rfl
@[simp] theorem State.setSpring_scan (s : State) (n : Nat) (x : Spring) : (s.setSpring n x).scan = s.scan := rfl

/-! ### setChkUnit changes `chks` alone -/

@[simp] theorem State.setChkUnit_pending (s : State) (u : Nat) (x : ChkUnit) : (s.setChkUnit u x).pending = s.pending := rfl
@[simp] theorem State.setChkUnit_free (s : State) (u : Nat) (x : ChkUnit) : (s.setChkUnit u x).free = s.free := rfl
@[simp] theorem State.setChkUnit_part (s : State) (u : Nat) (x : ChkUnit) : (s.setChkUnit u x).part = s.part := rfl
@[simp] theorem State.setChkUnit_power (s : State) (u : Nat) (x : ChkUnit) : (s.setChkUnit u x).power = s.power := rfl
@[simp] theorem State.setChkUnit_boots (s : State) (u : Nat) (x : ChkUnit) : (s.setChkUnit u x).boots = s.boots := rfl
@[simp] theorem State.setChkUnit_config (s : State) (u : Nat) (x : ChkUnit) : (s.setChkUnit u x).config = s.config := rfl
@[simp] theorem State.setChkUnit_clusters (s : State) (u : Nat) (x : ChkUnit) : (s.setChkUnit u x).clusters = s.clusters := rfl
@[simp] theorem State.setChkUnit_secs (s : State) (u : Nat) (x : ChkUnit) : (s.setChkUnit u x).secs = s.secs := rfl
@[simp] theorem State.setChkUnit_regs (s : State) (u : Nat) (x : ChkUnit) : (s.setChkUnit u x).regs = s.regs := rfl
@[simp] theorem State.setChkUnit_mem (s : State) (u : Nat) (x : ChkUnit) : (s.setChkUnit u x).mem = s.mem := rfl
@[simp] theorem State.setChkUnit_marks (s : State) (u : Nat) (x : ChkUnit) : (s.setChkUnit u x).marks = s.marks := rfl
@[simp] theorem State.setChkUnit_imem (s : State) (u : Nat) (x : ChkUnit) : (s.setChkUnit u x).imem = s.imem := rfl
@[simp] theorem State.setChkUnit_imarks (s : State) (u : Nat) (x : ChkUnit) : (s.setChkUnit u x).imarks = s.imarks := rfl
@[simp] theorem State.setChkUnit_glitches (s : State) (u : Nat) (x : ChkUnit) : (s.setChkUnit u x).glitches = s.glitches := rfl
@[simp] theorem State.setChkUnit_broken (s : State) (u : Nat) (x : ChkUnit) : (s.setChkUnit u x).broken = s.broken := rfl
@[simp] theorem State.setChkUnit_writeBacks (s : State) (u : Nat) (x : ChkUnit) : (s.setChkUnit u x).writeBacks = s.writeBacks := rfl
@[simp] theorem State.setChkUnit_cores (s : State) (u : Nat) (x : ChkUnit) : (s.setChkUnit u x).cores = s.cores := rfl
@[simp] theorem State.setChkUnit_counters (s : State) (u : Nat) (x : ChkUnit) : (s.setChkUnit u x).counters = s.counters := rfl
@[simp] theorem State.setChkUnit_incs (s : State) (u : Nat) (x : ChkUnit) : (s.setChkUnit u x).incs = s.incs := rfl
@[simp] theorem State.setChkUnit_grid (s : State) (u : Nat) (x : ChkUnit) : (s.setChkUnit u x).grid = s.grid := rfl
@[simp] theorem State.setChkUnit_routers (s : State) (u : Nat) (x : ChkUnit) : (s.setChkUnit u x).routers = s.routers := rfl
@[simp] theorem State.setChkUnit_rings (s : State) (u : Nat) (x : ChkUnit) : (s.setChkUnit u x).rings = s.rings := rfl
@[simp] theorem State.setChkUnit_streams (s : State) (u : Nat) (x : ChkUnit) : (s.setChkUnit u x).streams = s.streams := rfl
@[simp] theorem State.setChkUnit_staging (s : State) (u : Nat) (x : ChkUnit) : (s.setChkUnit u x).staging = s.staging := rfl
@[simp] theorem State.setChkUnit_reqs (s : State) (u : Nat) (x : ChkUnit) : (s.setChkUnit u x).reqs = s.reqs := rfl
@[simp] theorem State.setChkUnit_nextReq (s : State) (u : Nat) (x : ChkUnit) : (s.setChkUnit u x).nextReq = s.nextReq := rfl
@[simp] theorem State.setChkUnit_far (s : State) (u : Nat) (x : ChkUnit) : (s.setChkUnit u x).far = s.far := rfl
@[simp] theorem State.setChkUnit_arbs (s : State) (u : Nat) (x : ChkUnit) : (s.setChkUnit u x).arbs = s.arbs := rfl
@[simp] theorem State.setChkUnit_springs (s : State) (u : Nat) (x : ChkUnit) : (s.setChkUnit u x).springs = s.springs := rfl
@[simp] theorem State.setChkUnit_links (s : State) (u : Nat) (x : ChkUnit) : (s.setChkUnit u x).links = s.links := rfl
@[simp] theorem State.setChkUnit_tags (s : State) (u : Nat) (x : ChkUnit) : (s.setChkUnit u x).tags = s.tags := rfl
@[simp] theorem State.setChkUnit_nextTag (s : State) (u : Nat) (x : ChkUnit) : (s.setChkUnit u x).nextTag = s.nextTag := rfl
@[simp] theorem State.setChkUnit_chain (s : State) (u : Nat) (x : ChkUnit) : (s.setChkUnit u x).chain = s.chain := rfl
@[simp] theorem State.setChkUnit_time (s : State) (u : Nat) (x : ChkUnit) : (s.setChkUnit u x).time = s.time := rfl
@[simp] theorem State.setChkUnit_svc (s : State) (u : Nat) (x : ChkUnit) : (s.setChkUnit u x).svc = s.svc := rfl
@[simp] theorem State.setChkUnit_faults (s : State) (u : Nat) (x : ChkUnit) : (s.setChkUnit u x).faults = s.faults := rfl
@[simp] theorem State.setChkUnit_programId (s : State) (u : Nat) (x : ChkUnit) : (s.setChkUnit u x).programId = s.programId := rfl
@[simp] theorem State.setChkUnit_scan (s : State) (u : Nat) (x : ChkUnit) : (s.setChkUnit u x).scan = s.scan := rfl

/-! ### setSession changes `chks` alone -/

@[simp] theorem State.setSession_pending (s : State) (u n : Nat) (x : Session) : (s.setSession u n x).pending = s.pending := rfl
@[simp] theorem State.setSession_free (s : State) (u n : Nat) (x : Session) : (s.setSession u n x).free = s.free := rfl
@[simp] theorem State.setSession_part (s : State) (u n : Nat) (x : Session) : (s.setSession u n x).part = s.part := rfl
@[simp] theorem State.setSession_power (s : State) (u n : Nat) (x : Session) : (s.setSession u n x).power = s.power := rfl
@[simp] theorem State.setSession_boots (s : State) (u n : Nat) (x : Session) : (s.setSession u n x).boots = s.boots := rfl
@[simp] theorem State.setSession_config (s : State) (u n : Nat) (x : Session) : (s.setSession u n x).config = s.config := rfl
@[simp] theorem State.setSession_clusters (s : State) (u n : Nat) (x : Session) : (s.setSession u n x).clusters = s.clusters := rfl
@[simp] theorem State.setSession_secs (s : State) (u n : Nat) (x : Session) : (s.setSession u n x).secs = s.secs := rfl
@[simp] theorem State.setSession_regs (s : State) (u n : Nat) (x : Session) : (s.setSession u n x).regs = s.regs := rfl
@[simp] theorem State.setSession_mem (s : State) (u n : Nat) (x : Session) : (s.setSession u n x).mem = s.mem := rfl
@[simp] theorem State.setSession_marks (s : State) (u n : Nat) (x : Session) : (s.setSession u n x).marks = s.marks := rfl
@[simp] theorem State.setSession_imem (s : State) (u n : Nat) (x : Session) : (s.setSession u n x).imem = s.imem := rfl
@[simp] theorem State.setSession_imarks (s : State) (u n : Nat) (x : Session) : (s.setSession u n x).imarks = s.imarks := rfl
@[simp] theorem State.setSession_glitches (s : State) (u n : Nat) (x : Session) : (s.setSession u n x).glitches = s.glitches := rfl
@[simp] theorem State.setSession_broken (s : State) (u n : Nat) (x : Session) : (s.setSession u n x).broken = s.broken := rfl
@[simp] theorem State.setSession_writeBacks (s : State) (u n : Nat) (x : Session) : (s.setSession u n x).writeBacks = s.writeBacks := rfl
@[simp] theorem State.setSession_cores (s : State) (u n : Nat) (x : Session) : (s.setSession u n x).cores = s.cores := rfl
@[simp] theorem State.setSession_counters (s : State) (u n : Nat) (x : Session) : (s.setSession u n x).counters = s.counters := rfl
@[simp] theorem State.setSession_incs (s : State) (u n : Nat) (x : Session) : (s.setSession u n x).incs = s.incs := rfl
@[simp] theorem State.setSession_grid (s : State) (u n : Nat) (x : Session) : (s.setSession u n x).grid = s.grid := rfl
@[simp] theorem State.setSession_routers (s : State) (u n : Nat) (x : Session) : (s.setSession u n x).routers = s.routers := rfl
@[simp] theorem State.setSession_rings (s : State) (u n : Nat) (x : Session) : (s.setSession u n x).rings = s.rings := rfl
@[simp] theorem State.setSession_streams (s : State) (u n : Nat) (x : Session) : (s.setSession u n x).streams = s.streams := rfl
@[simp] theorem State.setSession_staging (s : State) (u n : Nat) (x : Session) : (s.setSession u n x).staging = s.staging := rfl
@[simp] theorem State.setSession_reqs (s : State) (u n : Nat) (x : Session) : (s.setSession u n x).reqs = s.reqs := rfl
@[simp] theorem State.setSession_nextReq (s : State) (u n : Nat) (x : Session) : (s.setSession u n x).nextReq = s.nextReq := rfl
@[simp] theorem State.setSession_far (s : State) (u n : Nat) (x : Session) : (s.setSession u n x).far = s.far := rfl
@[simp] theorem State.setSession_arbs (s : State) (u n : Nat) (x : Session) : (s.setSession u n x).arbs = s.arbs := rfl
@[simp] theorem State.setSession_springs (s : State) (u n : Nat) (x : Session) : (s.setSession u n x).springs = s.springs := rfl
@[simp] theorem State.setSession_links (s : State) (u n : Nat) (x : Session) : (s.setSession u n x).links = s.links := rfl
@[simp] theorem State.setSession_tags (s : State) (u n : Nat) (x : Session) : (s.setSession u n x).tags = s.tags := rfl
@[simp] theorem State.setSession_nextTag (s : State) (u n : Nat) (x : Session) : (s.setSession u n x).nextTag = s.nextTag := rfl
@[simp] theorem State.setSession_chain (s : State) (u n : Nat) (x : Session) : (s.setSession u n x).chain = s.chain := rfl
@[simp] theorem State.setSession_time (s : State) (u n : Nat) (x : Session) : (s.setSession u n x).time = s.time := rfl
@[simp] theorem State.setSession_svc (s : State) (u n : Nat) (x : Session) : (s.setSession u n x).svc = s.svc := rfl
@[simp] theorem State.setSession_faults (s : State) (u n : Nat) (x : Session) : (s.setSession u n x).faults = s.faults := rfl
@[simp] theorem State.setSession_programId (s : State) (u n : Nat) (x : Session) : (s.setSession u n x).programId = s.programId := rfl
@[simp] theorem State.setSession_scan (s : State) (u n : Nat) (x : Session) : (s.setSession u n x).scan = s.scan := rfl

/-! ### setLink changes `links` alone -/

@[simp] theorem State.setLink_pending (s : State) (l : Nat) (x : Link) : (s.setLink l x).pending = s.pending := rfl
@[simp] theorem State.setLink_free (s : State) (l : Nat) (x : Link) : (s.setLink l x).free = s.free := rfl
@[simp] theorem State.setLink_part (s : State) (l : Nat) (x : Link) : (s.setLink l x).part = s.part := rfl
@[simp] theorem State.setLink_power (s : State) (l : Nat) (x : Link) : (s.setLink l x).power = s.power := rfl
@[simp] theorem State.setLink_boots (s : State) (l : Nat) (x : Link) : (s.setLink l x).boots = s.boots := rfl
@[simp] theorem State.setLink_config (s : State) (l : Nat) (x : Link) : (s.setLink l x).config = s.config := rfl
@[simp] theorem State.setLink_clusters (s : State) (l : Nat) (x : Link) : (s.setLink l x).clusters = s.clusters := rfl
@[simp] theorem State.setLink_secs (s : State) (l : Nat) (x : Link) : (s.setLink l x).secs = s.secs := rfl
@[simp] theorem State.setLink_regs (s : State) (l : Nat) (x : Link) : (s.setLink l x).regs = s.regs := rfl
@[simp] theorem State.setLink_mem (s : State) (l : Nat) (x : Link) : (s.setLink l x).mem = s.mem := rfl
@[simp] theorem State.setLink_marks (s : State) (l : Nat) (x : Link) : (s.setLink l x).marks = s.marks := rfl
@[simp] theorem State.setLink_imem (s : State) (l : Nat) (x : Link) : (s.setLink l x).imem = s.imem := rfl
@[simp] theorem State.setLink_imarks (s : State) (l : Nat) (x : Link) : (s.setLink l x).imarks = s.imarks := rfl
@[simp] theorem State.setLink_glitches (s : State) (l : Nat) (x : Link) : (s.setLink l x).glitches = s.glitches := rfl
@[simp] theorem State.setLink_broken (s : State) (l : Nat) (x : Link) : (s.setLink l x).broken = s.broken := rfl
@[simp] theorem State.setLink_writeBacks (s : State) (l : Nat) (x : Link) : (s.setLink l x).writeBacks = s.writeBacks := rfl
@[simp] theorem State.setLink_cores (s : State) (l : Nat) (x : Link) : (s.setLink l x).cores = s.cores := rfl
@[simp] theorem State.setLink_counters (s : State) (l : Nat) (x : Link) : (s.setLink l x).counters = s.counters := rfl
@[simp] theorem State.setLink_incs (s : State) (l : Nat) (x : Link) : (s.setLink l x).incs = s.incs := rfl
@[simp] theorem State.setLink_grid (s : State) (l : Nat) (x : Link) : (s.setLink l x).grid = s.grid := rfl
@[simp] theorem State.setLink_routers (s : State) (l : Nat) (x : Link) : (s.setLink l x).routers = s.routers := rfl
@[simp] theorem State.setLink_rings (s : State) (l : Nat) (x : Link) : (s.setLink l x).rings = s.rings := rfl
@[simp] theorem State.setLink_streams (s : State) (l : Nat) (x : Link) : (s.setLink l x).streams = s.streams := rfl
@[simp] theorem State.setLink_staging (s : State) (l : Nat) (x : Link) : (s.setLink l x).staging = s.staging := rfl
@[simp] theorem State.setLink_reqs (s : State) (l : Nat) (x : Link) : (s.setLink l x).reqs = s.reqs := rfl
@[simp] theorem State.setLink_nextReq (s : State) (l : Nat) (x : Link) : (s.setLink l x).nextReq = s.nextReq := rfl
@[simp] theorem State.setLink_far (s : State) (l : Nat) (x : Link) : (s.setLink l x).far = s.far := rfl
@[simp] theorem State.setLink_arbs (s : State) (l : Nat) (x : Link) : (s.setLink l x).arbs = s.arbs := rfl
@[simp] theorem State.setLink_springs (s : State) (l : Nat) (x : Link) : (s.setLink l x).springs = s.springs := rfl
@[simp] theorem State.setLink_tags (s : State) (l : Nat) (x : Link) : (s.setLink l x).tags = s.tags := rfl
@[simp] theorem State.setLink_nextTag (s : State) (l : Nat) (x : Link) : (s.setLink l x).nextTag = s.nextTag := rfl
@[simp] theorem State.setLink_chain (s : State) (l : Nat) (x : Link) : (s.setLink l x).chain = s.chain := rfl
@[simp] theorem State.setLink_time (s : State) (l : Nat) (x : Link) : (s.setLink l x).time = s.time := rfl
@[simp] theorem State.setLink_svc (s : State) (l : Nat) (x : Link) : (s.setLink l x).svc = s.svc := rfl
@[simp] theorem State.setLink_chks (s : State) (l : Nat) (x : Link) : (s.setLink l x).chks = s.chks := rfl
@[simp] theorem State.setLink_faults (s : State) (l : Nat) (x : Link) : (s.setLink l x).faults = s.faults := rfl
@[simp] theorem State.setLink_programId (s : State) (l : Nat) (x : Link) : (s.setLink l x).programId = s.programId := rfl
@[simp] theorem State.setLink_scan (s : State) (l : Nat) (x : Link) : (s.setLink l x).scan = s.scan := rfl

/-! ### modPort changes `chain` alone -/

@[simp] theorem State.modPort_pending (s : State) (x : ChainSide) (f : ChainPort → ChainPort) : (s.modPort x f).pending = s.pending := by cases x <;> rfl
@[simp] theorem State.modPort_free (s : State) (x : ChainSide) (f : ChainPort → ChainPort) : (s.modPort x f).free = s.free := by cases x <;> rfl
@[simp] theorem State.modPort_part (s : State) (x : ChainSide) (f : ChainPort → ChainPort) : (s.modPort x f).part = s.part := by cases x <;> rfl
@[simp] theorem State.modPort_power (s : State) (x : ChainSide) (f : ChainPort → ChainPort) : (s.modPort x f).power = s.power := by cases x <;> rfl
@[simp] theorem State.modPort_boots (s : State) (x : ChainSide) (f : ChainPort → ChainPort) : (s.modPort x f).boots = s.boots := by cases x <;> rfl
@[simp] theorem State.modPort_config (s : State) (x : ChainSide) (f : ChainPort → ChainPort) : (s.modPort x f).config = s.config := by cases x <;> rfl
@[simp] theorem State.modPort_clusters (s : State) (x : ChainSide) (f : ChainPort → ChainPort) : (s.modPort x f).clusters = s.clusters := by cases x <;> rfl
@[simp] theorem State.modPort_secs (s : State) (x : ChainSide) (f : ChainPort → ChainPort) : (s.modPort x f).secs = s.secs := by cases x <;> rfl
@[simp] theorem State.modPort_regs (s : State) (x : ChainSide) (f : ChainPort → ChainPort) : (s.modPort x f).regs = s.regs := by cases x <;> rfl
@[simp] theorem State.modPort_mem (s : State) (x : ChainSide) (f : ChainPort → ChainPort) : (s.modPort x f).mem = s.mem := by cases x <;> rfl
@[simp] theorem State.modPort_marks (s : State) (x : ChainSide) (f : ChainPort → ChainPort) : (s.modPort x f).marks = s.marks := by cases x <;> rfl
@[simp] theorem State.modPort_imem (s : State) (x : ChainSide) (f : ChainPort → ChainPort) : (s.modPort x f).imem = s.imem := by cases x <;> rfl
@[simp] theorem State.modPort_imarks (s : State) (x : ChainSide) (f : ChainPort → ChainPort) : (s.modPort x f).imarks = s.imarks := by cases x <;> rfl
@[simp] theorem State.modPort_glitches (s : State) (x : ChainSide) (f : ChainPort → ChainPort) : (s.modPort x f).glitches = s.glitches := by cases x <;> rfl
@[simp] theorem State.modPort_broken (s : State) (x : ChainSide) (f : ChainPort → ChainPort) : (s.modPort x f).broken = s.broken := by cases x <;> rfl
@[simp] theorem State.modPort_writeBacks (s : State) (x : ChainSide) (f : ChainPort → ChainPort) : (s.modPort x f).writeBacks = s.writeBacks := by cases x <;> rfl
@[simp] theorem State.modPort_cores (s : State) (x : ChainSide) (f : ChainPort → ChainPort) : (s.modPort x f).cores = s.cores := by cases x <;> rfl
@[simp] theorem State.modPort_counters (s : State) (x : ChainSide) (f : ChainPort → ChainPort) : (s.modPort x f).counters = s.counters := by cases x <;> rfl
@[simp] theorem State.modPort_incs (s : State) (x : ChainSide) (f : ChainPort → ChainPort) : (s.modPort x f).incs = s.incs := by cases x <;> rfl
@[simp] theorem State.modPort_grid (s : State) (x : ChainSide) (f : ChainPort → ChainPort) : (s.modPort x f).grid = s.grid := by cases x <;> rfl
@[simp] theorem State.modPort_routers (s : State) (x : ChainSide) (f : ChainPort → ChainPort) : (s.modPort x f).routers = s.routers := by cases x <;> rfl
@[simp] theorem State.modPort_rings (s : State) (x : ChainSide) (f : ChainPort → ChainPort) : (s.modPort x f).rings = s.rings := by cases x <;> rfl
@[simp] theorem State.modPort_streams (s : State) (x : ChainSide) (f : ChainPort → ChainPort) : (s.modPort x f).streams = s.streams := by cases x <;> rfl
@[simp] theorem State.modPort_staging (s : State) (x : ChainSide) (f : ChainPort → ChainPort) : (s.modPort x f).staging = s.staging := by cases x <;> rfl
@[simp] theorem State.modPort_reqs (s : State) (x : ChainSide) (f : ChainPort → ChainPort) : (s.modPort x f).reqs = s.reqs := by cases x <;> rfl
@[simp] theorem State.modPort_nextReq (s : State) (x : ChainSide) (f : ChainPort → ChainPort) : (s.modPort x f).nextReq = s.nextReq := by cases x <;> rfl
@[simp] theorem State.modPort_far (s : State) (x : ChainSide) (f : ChainPort → ChainPort) : (s.modPort x f).far = s.far := by cases x <;> rfl
@[simp] theorem State.modPort_arbs (s : State) (x : ChainSide) (f : ChainPort → ChainPort) : (s.modPort x f).arbs = s.arbs := by cases x <;> rfl
@[simp] theorem State.modPort_springs (s : State) (x : ChainSide) (f : ChainPort → ChainPort) : (s.modPort x f).springs = s.springs := by cases x <;> rfl
@[simp] theorem State.modPort_links (s : State) (x : ChainSide) (f : ChainPort → ChainPort) : (s.modPort x f).links = s.links := by cases x <;> rfl
@[simp] theorem State.modPort_tags (s : State) (x : ChainSide) (f : ChainPort → ChainPort) : (s.modPort x f).tags = s.tags := by cases x <;> rfl
@[simp] theorem State.modPort_nextTag (s : State) (x : ChainSide) (f : ChainPort → ChainPort) : (s.modPort x f).nextTag = s.nextTag := by cases x <;> rfl
@[simp] theorem State.modPort_time (s : State) (x : ChainSide) (f : ChainPort → ChainPort) : (s.modPort x f).time = s.time := by cases x <;> rfl
@[simp] theorem State.modPort_svc (s : State) (x : ChainSide) (f : ChainPort → ChainPort) : (s.modPort x f).svc = s.svc := by cases x <;> rfl
@[simp] theorem State.modPort_chks (s : State) (x : ChainSide) (f : ChainPort → ChainPort) : (s.modPort x f).chks = s.chks := by cases x <;> rfl
@[simp] theorem State.modPort_faults (s : State) (x : ChainSide) (f : ChainPort → ChainPort) : (s.modPort x f).faults = s.faults := by cases x <;> rfl
@[simp] theorem State.modPort_programId (s : State) (x : ChainSide) (f : ChainPort → ChainPort) : (s.modPort x f).programId = s.programId := by cases x <;> rfl
@[simp] theorem State.modPort_scan (s : State) (x : ChainSide) (f : ChainPort → ChainPort) : (s.modPort x f).scan = s.scan := by cases x <;> rfl

/-! ### modCluster changes `clusters` alone -/

@[simp] theorem State.modCluster_pending (s : State) (h : Half) (f : Cluster → Cluster) : (s.modCluster h f).pending = s.pending := rfl
@[simp] theorem State.modCluster_free (s : State) (h : Half) (f : Cluster → Cluster) : (s.modCluster h f).free = s.free := rfl
@[simp] theorem State.modCluster_part (s : State) (h : Half) (f : Cluster → Cluster) : (s.modCluster h f).part = s.part := rfl
@[simp] theorem State.modCluster_power (s : State) (h : Half) (f : Cluster → Cluster) : (s.modCluster h f).power = s.power := rfl
@[simp] theorem State.modCluster_boots (s : State) (h : Half) (f : Cluster → Cluster) : (s.modCluster h f).boots = s.boots := rfl
@[simp] theorem State.modCluster_config (s : State) (h : Half) (f : Cluster → Cluster) : (s.modCluster h f).config = s.config := rfl
@[simp] theorem State.modCluster_secs (s : State) (h : Half) (f : Cluster → Cluster) : (s.modCluster h f).secs = s.secs := rfl
@[simp] theorem State.modCluster_regs (s : State) (h : Half) (f : Cluster → Cluster) : (s.modCluster h f).regs = s.regs := rfl
@[simp] theorem State.modCluster_mem (s : State) (h : Half) (f : Cluster → Cluster) : (s.modCluster h f).mem = s.mem := rfl
@[simp] theorem State.modCluster_marks (s : State) (h : Half) (f : Cluster → Cluster) : (s.modCluster h f).marks = s.marks := rfl
@[simp] theorem State.modCluster_imem (s : State) (h : Half) (f : Cluster → Cluster) : (s.modCluster h f).imem = s.imem := rfl
@[simp] theorem State.modCluster_imarks (s : State) (h : Half) (f : Cluster → Cluster) : (s.modCluster h f).imarks = s.imarks := rfl
@[simp] theorem State.modCluster_glitches (s : State) (h : Half) (f : Cluster → Cluster) : (s.modCluster h f).glitches = s.glitches := rfl
@[simp] theorem State.modCluster_broken (s : State) (h : Half) (f : Cluster → Cluster) : (s.modCluster h f).broken = s.broken := rfl
@[simp] theorem State.modCluster_writeBacks (s : State) (h : Half) (f : Cluster → Cluster) : (s.modCluster h f).writeBacks = s.writeBacks := rfl
@[simp] theorem State.modCluster_cores (s : State) (h : Half) (f : Cluster → Cluster) : (s.modCluster h f).cores = s.cores := rfl
@[simp] theorem State.modCluster_counters (s : State) (h : Half) (f : Cluster → Cluster) : (s.modCluster h f).counters = s.counters := rfl
@[simp] theorem State.modCluster_incs (s : State) (h : Half) (f : Cluster → Cluster) : (s.modCluster h f).incs = s.incs := rfl
@[simp] theorem State.modCluster_grid (s : State) (h : Half) (f : Cluster → Cluster) : (s.modCluster h f).grid = s.grid := rfl
@[simp] theorem State.modCluster_routers (s : State) (h : Half) (f : Cluster → Cluster) : (s.modCluster h f).routers = s.routers := rfl
@[simp] theorem State.modCluster_rings (s : State) (h : Half) (f : Cluster → Cluster) : (s.modCluster h f).rings = s.rings := rfl
@[simp] theorem State.modCluster_streams (s : State) (h : Half) (f : Cluster → Cluster) : (s.modCluster h f).streams = s.streams := rfl
@[simp] theorem State.modCluster_staging (s : State) (h : Half) (f : Cluster → Cluster) : (s.modCluster h f).staging = s.staging := rfl
@[simp] theorem State.modCluster_reqs (s : State) (h : Half) (f : Cluster → Cluster) : (s.modCluster h f).reqs = s.reqs := rfl
@[simp] theorem State.modCluster_nextReq (s : State) (h : Half) (f : Cluster → Cluster) : (s.modCluster h f).nextReq = s.nextReq := rfl
@[simp] theorem State.modCluster_far (s : State) (h : Half) (f : Cluster → Cluster) : (s.modCluster h f).far = s.far := rfl
@[simp] theorem State.modCluster_arbs (s : State) (h : Half) (f : Cluster → Cluster) : (s.modCluster h f).arbs = s.arbs := rfl
@[simp] theorem State.modCluster_springs (s : State) (h : Half) (f : Cluster → Cluster) : (s.modCluster h f).springs = s.springs := rfl
@[simp] theorem State.modCluster_links (s : State) (h : Half) (f : Cluster → Cluster) : (s.modCluster h f).links = s.links := rfl
@[simp] theorem State.modCluster_tags (s : State) (h : Half) (f : Cluster → Cluster) : (s.modCluster h f).tags = s.tags := rfl
@[simp] theorem State.modCluster_nextTag (s : State) (h : Half) (f : Cluster → Cluster) : (s.modCluster h f).nextTag = s.nextTag := rfl
@[simp] theorem State.modCluster_chain (s : State) (h : Half) (f : Cluster → Cluster) : (s.modCluster h f).chain = s.chain := rfl
@[simp] theorem State.modCluster_time (s : State) (h : Half) (f : Cluster → Cluster) : (s.modCluster h f).time = s.time := rfl
@[simp] theorem State.modCluster_svc (s : State) (h : Half) (f : Cluster → Cluster) : (s.modCluster h f).svc = s.svc := rfl
@[simp] theorem State.modCluster_chks (s : State) (h : Half) (f : Cluster → Cluster) : (s.modCluster h f).chks = s.chks := rfl
@[simp] theorem State.modCluster_faults (s : State) (h : Half) (f : Cluster → Cluster) : (s.modCluster h f).faults = s.faults := rfl
@[simp] theorem State.modCluster_programId (s : State) (h : Half) (f : Cluster → Cluster) : (s.modCluster h f).programId = s.programId := rfl
@[simp] theorem State.modCluster_scan (s : State) (h : Half) (f : Cluster → Cluster) : (s.modCluster h f).scan = s.scan := rfl

/-! ### modBoot changes `boots` alone -/

@[simp] theorem State.modBoot_pending (s : State) (h : Half) (f : Boot → Boot) : (s.modBoot h f).pending = s.pending := rfl
@[simp] theorem State.modBoot_free (s : State) (h : Half) (f : Boot → Boot) : (s.modBoot h f).free = s.free := rfl
@[simp] theorem State.modBoot_part (s : State) (h : Half) (f : Boot → Boot) : (s.modBoot h f).part = s.part := rfl
@[simp] theorem State.modBoot_power (s : State) (h : Half) (f : Boot → Boot) : (s.modBoot h f).power = s.power := rfl
@[simp] theorem State.modBoot_config (s : State) (h : Half) (f : Boot → Boot) : (s.modBoot h f).config = s.config := rfl
@[simp] theorem State.modBoot_clusters (s : State) (h : Half) (f : Boot → Boot) : (s.modBoot h f).clusters = s.clusters := rfl
@[simp] theorem State.modBoot_secs (s : State) (h : Half) (f : Boot → Boot) : (s.modBoot h f).secs = s.secs := rfl
@[simp] theorem State.modBoot_regs (s : State) (h : Half) (f : Boot → Boot) : (s.modBoot h f).regs = s.regs := rfl
@[simp] theorem State.modBoot_mem (s : State) (h : Half) (f : Boot → Boot) : (s.modBoot h f).mem = s.mem := rfl
@[simp] theorem State.modBoot_marks (s : State) (h : Half) (f : Boot → Boot) : (s.modBoot h f).marks = s.marks := rfl
@[simp] theorem State.modBoot_imem (s : State) (h : Half) (f : Boot → Boot) : (s.modBoot h f).imem = s.imem := rfl
@[simp] theorem State.modBoot_imarks (s : State) (h : Half) (f : Boot → Boot) : (s.modBoot h f).imarks = s.imarks := rfl
@[simp] theorem State.modBoot_glitches (s : State) (h : Half) (f : Boot → Boot) : (s.modBoot h f).glitches = s.glitches := rfl
@[simp] theorem State.modBoot_broken (s : State) (h : Half) (f : Boot → Boot) : (s.modBoot h f).broken = s.broken := rfl
@[simp] theorem State.modBoot_writeBacks (s : State) (h : Half) (f : Boot → Boot) : (s.modBoot h f).writeBacks = s.writeBacks := rfl
@[simp] theorem State.modBoot_cores (s : State) (h : Half) (f : Boot → Boot) : (s.modBoot h f).cores = s.cores := rfl
@[simp] theorem State.modBoot_counters (s : State) (h : Half) (f : Boot → Boot) : (s.modBoot h f).counters = s.counters := rfl
@[simp] theorem State.modBoot_incs (s : State) (h : Half) (f : Boot → Boot) : (s.modBoot h f).incs = s.incs := rfl
@[simp] theorem State.modBoot_grid (s : State) (h : Half) (f : Boot → Boot) : (s.modBoot h f).grid = s.grid := rfl
@[simp] theorem State.modBoot_routers (s : State) (h : Half) (f : Boot → Boot) : (s.modBoot h f).routers = s.routers := rfl
@[simp] theorem State.modBoot_rings (s : State) (h : Half) (f : Boot → Boot) : (s.modBoot h f).rings = s.rings := rfl
@[simp] theorem State.modBoot_streams (s : State) (h : Half) (f : Boot → Boot) : (s.modBoot h f).streams = s.streams := rfl
@[simp] theorem State.modBoot_staging (s : State) (h : Half) (f : Boot → Boot) : (s.modBoot h f).staging = s.staging := rfl
@[simp] theorem State.modBoot_reqs (s : State) (h : Half) (f : Boot → Boot) : (s.modBoot h f).reqs = s.reqs := rfl
@[simp] theorem State.modBoot_nextReq (s : State) (h : Half) (f : Boot → Boot) : (s.modBoot h f).nextReq = s.nextReq := rfl
@[simp] theorem State.modBoot_far (s : State) (h : Half) (f : Boot → Boot) : (s.modBoot h f).far = s.far := rfl
@[simp] theorem State.modBoot_arbs (s : State) (h : Half) (f : Boot → Boot) : (s.modBoot h f).arbs = s.arbs := rfl
@[simp] theorem State.modBoot_springs (s : State) (h : Half) (f : Boot → Boot) : (s.modBoot h f).springs = s.springs := rfl
@[simp] theorem State.modBoot_links (s : State) (h : Half) (f : Boot → Boot) : (s.modBoot h f).links = s.links := rfl
@[simp] theorem State.modBoot_tags (s : State) (h : Half) (f : Boot → Boot) : (s.modBoot h f).tags = s.tags := rfl
@[simp] theorem State.modBoot_nextTag (s : State) (h : Half) (f : Boot → Boot) : (s.modBoot h f).nextTag = s.nextTag := rfl
@[simp] theorem State.modBoot_chain (s : State) (h : Half) (f : Boot → Boot) : (s.modBoot h f).chain = s.chain := rfl
@[simp] theorem State.modBoot_time (s : State) (h : Half) (f : Boot → Boot) : (s.modBoot h f).time = s.time := rfl
@[simp] theorem State.modBoot_svc (s : State) (h : Half) (f : Boot → Boot) : (s.modBoot h f).svc = s.svc := rfl
@[simp] theorem State.modBoot_chks (s : State) (h : Half) (f : Boot → Boot) : (s.modBoot h f).chks = s.chks := rfl
@[simp] theorem State.modBoot_faults (s : State) (h : Half) (f : Boot → Boot) : (s.modBoot h f).faults = s.faults := rfl
@[simp] theorem State.modBoot_programId (s : State) (h : Half) (f : Boot → Boot) : (s.modBoot h f).programId = s.programId := rfl
@[simp] theorem State.modBoot_scan (s : State) (h : Half) (f : Boot → Boot) : (s.modBoot h f).scan = s.scan := rfl

/-! ### modSec changes `secs` alone -/

@[simp] theorem State.modSec_pending (s : State) (h : Half) (f : Sec → Sec) : (s.modSec h f).pending = s.pending := rfl
@[simp] theorem State.modSec_free (s : State) (h : Half) (f : Sec → Sec) : (s.modSec h f).free = s.free := rfl
@[simp] theorem State.modSec_part (s : State) (h : Half) (f : Sec → Sec) : (s.modSec h f).part = s.part := rfl
@[simp] theorem State.modSec_power (s : State) (h : Half) (f : Sec → Sec) : (s.modSec h f).power = s.power := rfl
@[simp] theorem State.modSec_boots (s : State) (h : Half) (f : Sec → Sec) : (s.modSec h f).boots = s.boots := rfl
@[simp] theorem State.modSec_config (s : State) (h : Half) (f : Sec → Sec) : (s.modSec h f).config = s.config := rfl
@[simp] theorem State.modSec_clusters (s : State) (h : Half) (f : Sec → Sec) : (s.modSec h f).clusters = s.clusters := rfl
@[simp] theorem State.modSec_regs (s : State) (h : Half) (f : Sec → Sec) : (s.modSec h f).regs = s.regs := rfl
@[simp] theorem State.modSec_mem (s : State) (h : Half) (f : Sec → Sec) : (s.modSec h f).mem = s.mem := rfl
@[simp] theorem State.modSec_marks (s : State) (h : Half) (f : Sec → Sec) : (s.modSec h f).marks = s.marks := rfl
@[simp] theorem State.modSec_imem (s : State) (h : Half) (f : Sec → Sec) : (s.modSec h f).imem = s.imem := rfl
@[simp] theorem State.modSec_imarks (s : State) (h : Half) (f : Sec → Sec) : (s.modSec h f).imarks = s.imarks := rfl
@[simp] theorem State.modSec_glitches (s : State) (h : Half) (f : Sec → Sec) : (s.modSec h f).glitches = s.glitches := rfl
@[simp] theorem State.modSec_broken (s : State) (h : Half) (f : Sec → Sec) : (s.modSec h f).broken = s.broken := rfl
@[simp] theorem State.modSec_writeBacks (s : State) (h : Half) (f : Sec → Sec) : (s.modSec h f).writeBacks = s.writeBacks := rfl
@[simp] theorem State.modSec_cores (s : State) (h : Half) (f : Sec → Sec) : (s.modSec h f).cores = s.cores := rfl
@[simp] theorem State.modSec_counters (s : State) (h : Half) (f : Sec → Sec) : (s.modSec h f).counters = s.counters := rfl
@[simp] theorem State.modSec_incs (s : State) (h : Half) (f : Sec → Sec) : (s.modSec h f).incs = s.incs := rfl
@[simp] theorem State.modSec_grid (s : State) (h : Half) (f : Sec → Sec) : (s.modSec h f).grid = s.grid := rfl
@[simp] theorem State.modSec_routers (s : State) (h : Half) (f : Sec → Sec) : (s.modSec h f).routers = s.routers := rfl
@[simp] theorem State.modSec_rings (s : State) (h : Half) (f : Sec → Sec) : (s.modSec h f).rings = s.rings := rfl
@[simp] theorem State.modSec_streams (s : State) (h : Half) (f : Sec → Sec) : (s.modSec h f).streams = s.streams := rfl
@[simp] theorem State.modSec_staging (s : State) (h : Half) (f : Sec → Sec) : (s.modSec h f).staging = s.staging := rfl
@[simp] theorem State.modSec_reqs (s : State) (h : Half) (f : Sec → Sec) : (s.modSec h f).reqs = s.reqs := rfl
@[simp] theorem State.modSec_nextReq (s : State) (h : Half) (f : Sec → Sec) : (s.modSec h f).nextReq = s.nextReq := rfl
@[simp] theorem State.modSec_far (s : State) (h : Half) (f : Sec → Sec) : (s.modSec h f).far = s.far := rfl
@[simp] theorem State.modSec_arbs (s : State) (h : Half) (f : Sec → Sec) : (s.modSec h f).arbs = s.arbs := rfl
@[simp] theorem State.modSec_springs (s : State) (h : Half) (f : Sec → Sec) : (s.modSec h f).springs = s.springs := rfl
@[simp] theorem State.modSec_links (s : State) (h : Half) (f : Sec → Sec) : (s.modSec h f).links = s.links := rfl
@[simp] theorem State.modSec_tags (s : State) (h : Half) (f : Sec → Sec) : (s.modSec h f).tags = s.tags := rfl
@[simp] theorem State.modSec_nextTag (s : State) (h : Half) (f : Sec → Sec) : (s.modSec h f).nextTag = s.nextTag := rfl
@[simp] theorem State.modSec_chain (s : State) (h : Half) (f : Sec → Sec) : (s.modSec h f).chain = s.chain := rfl
@[simp] theorem State.modSec_time (s : State) (h : Half) (f : Sec → Sec) : (s.modSec h f).time = s.time := rfl
@[simp] theorem State.modSec_svc (s : State) (h : Half) (f : Sec → Sec) : (s.modSec h f).svc = s.svc := rfl
@[simp] theorem State.modSec_chks (s : State) (h : Half) (f : Sec → Sec) : (s.modSec h f).chks = s.chks := rfl
@[simp] theorem State.modSec_faults (s : State) (h : Half) (f : Sec → Sec) : (s.modSec h f).faults = s.faults := rfl
@[simp] theorem State.modSec_programId (s : State) (h : Half) (f : Sec → Sec) : (s.modSec h f).programId = s.programId := rfl
@[simp] theorem State.modSec_scan (s : State) (h : Half) (f : Sec → Sec) : (s.modSec h f).scan = s.scan := rfl

end Sys2Proof.Machine
end

