-- ==== Sys2Proof/Laws/Cores.lean ====
section
/-! SUPPORT. Laws of registers, cores, contexts and counters: what each reads as after a write of it or of another. -/

namespace Sys2Proof.Machine

open Sys2Proof

/-! ### Registers held as words -/

@[simp] theorem State.reg_setReg_same (s : State) (r : Reg) (v : Word) : (s.setReg r v).reg r = v := SMap.getD_set_same _ _ _ _

/-- A register at another address reads as before. -/
theorem State.reg_setReg_other (s : State) {r q : Reg} (v : Word) (h : r.addr ≠ q.addr) : (s.setReg r v).reg q = s.reg q := by
  simp only [State.reg, State.setReg, SMap.getD, SMap.set]
  split
  · rw [SMap.get?_erase, if_neg h]
  · rw [SMap.get?_insert, if_neg h]

/-! ### Cores and contexts -/

@[simp] theorem State.core_setCore_same (s : State) (c : Nat) (x : Core) : (s.setCore c x).core c = x := SMap.getD_set_same _ _ _ _

theorem State.core_setCore (s : State) (c d : Nat) (x : Core) : (s.setCore c x).core d = if c = d then x else s.core d :=
  SMap.getD_set _ _ _ _ _

@[simp] theorem Core.ctx_setCtx_same (c : Core) (x : Ctx) (y : Context) : (c.setCtx x y).ctx x = y := by cases x <;> rfl

@[simp] theorem Core.ctx_setCtx_other (c : Core) {x z : Ctx} (y : Context) (h : x ≠ z) : (c.setCtx x y).ctx z = c.ctx z := by
  cases x <;> cases z <;> first | rfl | exact absurd rfl h

@[simp] theorem Core.setCtx_setCtx (c : Core) (x : Ctx) (y z : Context) : (c.setCtx x y).setCtx x z = c.setCtx x z := by
  cases x <;> rfl

@[simp] theorem State.ctx_setCtx_same (s : State) (k : CtxAt) (x : Context) : (s.setCtx k x).ctx k = x := by
  simp [State.ctx, State.setCtx]

theorem State.ctx_setCtx_other (s : State) {k q : CtxAt} (x : Context) (h : k ≠ q) : (s.setCtx k x).ctx q = s.ctx q := by
  obtain ⟨c, y⟩ := k
  obtain ⟨d, z⟩ := q
  simp only [State.ctx, State.setCtx, State.core_setCore]
  by_cases hc : c = d
  · subst hc
    have : y ≠ z := fun e => h (by rw [e])
    simp [this]
  · simp [hc]

/-- Two updates of one core, the first leaving it other than as after reset. -/
theorem State.setCore_setCore (s : State) (c : Nat) (x y : Core) (h : x ≠ Core.reset) :
    (s.setCore c x).setCore c y = s.setCore c y := by
  simp only [State.setCore, SMap.set_set _ _ _ _ _ h]

/-- A context that is running is not as after reset. -/
theorem Core.setCtx_ne_reset (c : Core) (x : Ctx) (y : Context) (h : y.state ≠ .disabled) : c.setCtx x y ≠ Core.reset := by
  intro e
  apply h
  have : (c.setCtx x y).ctx x = Core.reset.ctx x := by rw [e]
  rw [Core.ctx_setCtx_same] at this
  rw [this]
  cases x <;> rfl

/-- Two updates of one context, the first of which leaves it enabled. -/
theorem State.setCtx_setCtx (s : State) (k : CtxAt) (x y : Context) (h : x.state ≠ .disabled) :
    (s.setCtx k x).setCtx k y = s.setCtx k y := by
  simp only [State.setCtx, State.core_setCore_same, Core.setCtx_setCtx]
  rw [State.setCore_setCore _ _ _ _ (Core.setCtx_ne_reset _ _ _ h)]

/-! ### s and v registers -/

theorem Context.s_setS (c : Context) (d n : BitVec 5) (v : Word) :
    (c.setS d v).s n = if n = d then (if d = 0 then 0 else v) else c.s n := by
  unfold Context.s Context.setS
  by_cases hd : d = 0
  · subst hd
    by_cases hn : n = 0
    · rw [if_pos hn, if_pos hn, if_pos rfl]
    · rw [if_pos rfl, if_neg hn, if_neg hn]
  · by_cases hn : n = 0
    · subst hn
      have : (0 : BitVec 5) ≠ d := fun e => hd e.symm
      rw [if_pos rfl, if_pos rfl, if_neg this]
    · simp only [hd, hn, if_false, SMap.getD_set]
      have : d.toNat = n.toNat ↔ n = d := by
        constructor
        · intro e
          exact (BitVec.eq_of_toNat_eq e).symm
        · rintro rfl
          rfl
      simp [this]

theorem Context.v_setV (c : Context) (d n : BitVec 5) (v : BitVec 1536) :
    (c.setV d v).v n = if n = d then v else c.v n := by
  unfold Context.v Context.setV
  simp only [SMap.getD_set]
  have : d.toNat = n.toNat ↔ n = d := by
    constructor
    · intro e
      exact (BitVec.eq_of_toNat_eq e).symm
    · rintro rfl
      rfl
  simp only [this]

/-- What a write of an s register leaves of its context: everything but that register and the program counter. -/
theorem writeS_ctx (s : State) (k : CtxAt) (d : BitVec 5) (v : Word) :
    (writeS s k d v).ctx k = { ((s.ctx k).setS d v) with pc := pcAdd (s.ctx k).pc 1 } := by simp [writeS]

/-! ### Counters -/

theorem State.counter_setCounter_same (s : State) (c n : Nat) (x : Counter) : (s.setCounter c n x).counter c n = x :=
  SMap.getD_set_same _ _ _ _

end Sys2Proof.Machine
end

