-- ==== Sys2Proof/Laws/Words.lean ====
section
/-! SUPPORT. Laws of the instruction word: each field of an encoded word reads back, and an issued legal word runs its body. -/

namespace Sys2Proof.Machine

open Sys2Proof

/-- The number of a word of format R. -/
theorem encR_toNat (op fn : Nat) (d a b c : BitVec 5) (x : BitVec 28) (ho : op < 256) (hf : fn < 256) :
    (encR op fn d a b c x).toNat = op * 2 ^ 56 + fn * 2 ^ 48 + d.toNat * 2 ^ 43 + a.toNat * 2 ^ 38 + b.toNat * 2 ^ 33
      + c.toNat * 2 ^ 28 + x.toNat := by
  have := d.isLt; have := a.isLt; have := b.isLt; have := c.isLt; have := x.isLt
  unfold encR
  rw [BitVec.toNat_ofNat, Nat.mod_eq_of_lt]
  omega

/-- Every field of a word of format R (R142). -/
theorem encR_fields (op fn : Nat) (d a b c : BitVec 5) (x : BitVec 28) (ho : op < 256) (hf : fn < 256) :
    wOp (encR op fn d a b c x) = op ∧ wFn (encR op fn d a b c x) = fn ∧ wD (encR op fn d a b c x) = d.toNat
      ∧ wA (encR op fn d a b c x) = a.toNat ∧ wB (encR op fn d a b c x) = b.toNat ∧ wC (encR op fn d a b c x) = c.toNat
      ∧ wX (encR op fn d a b c x) = x.toNat := by
  have := d.isLt; have := a.isLt; have := b.isLt; have := c.isLt; have := x.isLt
  simp only [wOp, wFn, wD, wA, wB, wC, wX, Word.fld, fld, encR_toNat op fn d a b c x ho hf]
  refine ⟨?_, ?_, ?_, ?_, ?_, ?_, ?_⟩ <;> omega

/-- Every field of a word of format L (R142); bits 42 to 32 are zero. -/
theorem encL_fields (op fn : Nat) (d : BitVec 5) (i : BitVec 32) (ho : op < 256) (hf : fn < 256) :
    wOp (encL op fn d i) = op ∧ wFn (encL op fn d i) = fn ∧ wD (encL op fn d i) = d.toNat ∧ wA (encL op fn d i) = 0
      ∧ wB (encL op fn d i) = 0 ∧ Word.fld (encL op fn d i) 32 1 = 0 := by
  have := d.isLt; have := i.isLt
  have e : (encL op fn d i).toNat = op * 2 ^ 56 + fn * 2 ^ 48 + d.toNat * 2 ^ 43 + i.toNat := by
    unfold encL
    rw [BitVec.toNat_ofNat, Nat.mod_eq_of_lt]
    omega
  simp only [wOp, wFn, wD, wA, wB, Word.fld, fld, e]
  refine ⟨?_, ?_, ?_, ?_, ?_, ?_⟩ <;> omega

theorem issueOut_of_issues {s : State} {k : CtxAt} {w : Word} (h : issues s k w) (hl : illegalCause k w = none)
    (body : State → Out) : issueOut k w s body = body s := by
  obtain ⟨hc, hm, hw⟩ := h
  simp [issueOut, hc, hm, hw, hl, fetchState]

/-- A context that issues a legal word without an error mark runs the instruction's body. -/
theorem issue_of_issues {s : State} {k : CtxAt} {w : Word} (h : issues s k w) (hl : illegalCause k w = none)
    (body : State → State) : issue k w s body = .next (body s) := issueOut_of_issues h hl _

/-- A word whose OP is listed is judged by its fields alone. -/
theorem illegalCause_encR (k : CtxAt) (op fn : Nat) (d a b c : BitVec 5) (x : BitVec 28) (ho : op < 256) (hf : fn < 256)
    {r : Option Nat} (h : ∀ w, wOp w = op → wFn w = fn → wD w = d.toNat → wA w = a.toNat → wB w = b.toNat → wC w = c.toNat →
      wX w = x.toNat → illegalCause k w = r) : illegalCause k (encR op fn d a b c x) = r := by
  obtain ⟨h1, h2, h3, h4, h5, h6, h7⟩ := encR_fields op fn d a b c x ho hf
  exact h _ h1 h2 h3 h4 h5 h6 h7

end Sys2Proof.Machine
end

