-- ==== Sys2Proof/Tests/Slice0.lean ====
section
/-! SUPPORT. The model's own tests: what each check of WellFormed refuses, commands on small states against results worked by hand
from the rules named, and for every statement states and operands that meet its hypotheses. -/

namespace Sys2Proof.Tests

set_option Elab.async false

open Sys2Proof Sys2Proof.Machine

/-! ### Small states -/

/-- What a question about the next state answers; nothing where there is none. -/
def after {α : Type} (f : State → α) (o : Host.Outcome State Fault Refusal) : Option α :=
  match o with
  | .next t => some (f t)
  | .fault _ => none
  | .refused _ => none

/-- The fault that an outcome names, if any. -/
def faultOf (o : Host.Outcome State Fault Refusal) : Option Fault :=
  match o with
  | .next _ => none
  | .fault f => some f
  | .refused _ => none

/-- Out of reset, the configuration accepted from a device 5 whose west half is senior, every function ready. -/
def base : State :=
  let s : State := { State.reset with
    power := { Power.reset with resetN := true }
    config := { DevConfig.reset with accepted := true, elected := true, devid := 5 } }
  let s := (s.setReg .ctrlReadyGrid 0xFF).setReg .ctrlReadyHbm 0xFFFFFFFF
  let s := (s.setReg .ctrlReadyLake 0xFFFFFFFFFFFFFFFF).setReg .ctrlReadyLink 0xFFFFFFFFF
  s.setReg .ctrlReadyUnit 0x3FFFFF

/-- The same in frost. -/
def frozen : State := { base with faults := { base.faults with inFrost := true, signal := some (18, 1, 0) } }

/-- The bulk and frame contexts of core 0, and those of the last core. -/
def kB : CtxAt := ⟨0, .B⟩
def kF : CtxAt := ⟨0, .F⟩
def kZ : CtxAt := ⟨767, .B⟩

/-- A context that runs, its registers and tile state empty. -/
def fresh : Context := { Context.reset with state := .running, fresh := false }

/-- A context k that issues, with word w at its pc. -/
def runs (k : CtxAt) (w : Word) (c : Context) : State :=
  { (base.setCore k.core ({ Core.reset with active := k.ctx }.setCtx k.ctx c)) with
    imem := SMap.set [] (imemKey k.core c.pc) w 0 }

/-- A running context with values in s1 and s2. -/
def two (x y : Word) : Context := (fresh.setS 1 x).setS 2 y

/-- Class and cause of the newest fault record. -/
def lastRec (t : State) : Nat × Nat :=
  let b := (SMap.getD t.faults.recs ((t.faults.tail - 1).toNat % 512) 0).toNat
  (fld b 32 8, fld b 40 8)

/-- Register words: all ones, and the top bit alone. -/
def ones : Word := 2 ^ 64 - 1
def top : Word := 2 ^ 63

/-! ### A context that issues: what every statement on an instruction asks -/

theorem base_working : base.working = true := by decide +kernel

theorem runs_core (k : CtxAt) (w : Word) (c : Context) :
    (runs k w c).core k.core = ({ Core.reset with active := k.ctx } : Core).setCtx k.ctx c := by
  simp [runs, State.core, State.setCore]

@[simp] theorem runs_ctx (k : CtxAt) (w : Word) (c : Context) : (runs k w c).ctx k = c := by
  simp [State.ctx, runs_core]

/-- A running context that nothing holds issues the word at its pc. -/
theorem witness_issues (k : CtxAt) (w : Word) (c : Context) (hk : k.core < 768) (hc : c.state = .running) (hh : c.hold = .none) :
    issues (runs k w c) k w := by
  have hw : (runs k w c).working = true := base_working
  have hs : (runs k w c).svc.held = false := rfl
  have hx := runs_ctx k w c
  have ha : ((runs k w c).core k.core).active = k.ctx ∧ ((runs k w c).core k.core).switch = .idle := by
    rw [runs_core]; cases k.ctx <;> exact ⟨rfl, rfl⟩
  refine ⟨by simp [canIssue, hw, hs, hx, ha, hc, hh, hk, coreCount], rfl, ?_⟩
  rw [hx]
  exact SMap.getD_set_same _ _ _ _

/-- Register d after a register-register operation of s1 and s2 into s3, with the pc. -/
def rrr (op fn : Nat) (i : Instr) (x y : Word) : Option (Word × Nat) :=
  after (fun t => ((t.ctx kB).s 3, (t.ctx kB).pc)) (exec i (runs kB (encR op fn 3 1 2 0 0) (two x y)))

/-- Register 3 after an operation of s1 with an immediate. -/
def rri (op fn : Nat) (x : BitVec 28) (i : Instr) (v : Word) : Option (Word × Nat) :=
  after (fun t => ((t.ctx kB).s 3, (t.ctx kB).pc)) (exec i (runs kB (encR op fn 3 1 0 0 x) (two v 0)))

/-! ### Scalar instructions, results worked from R152 -/

theorem test_nop : after (fun t => (t.ctx kB).pc) (exec (.nop kB) (runs kB (encR 1 0 0 0 0 0 0) { fresh with pc := 8191 })) = some 0 := by
  decide +kernel
theorem test_add_wraps : rrr 2 0 (.add kB 3 1 2) ones 2 = some (1, 1) := by decide +kernel
theorem test_sub_borrows : rrr 2 1 (.sub kB 3 1 2) 1 2 = some (ones, 1) := by decide +kernel
theorem test_and : rrr 2 2 (.and kB 3 1 2) 12 10 = some (8, 1) := by decide +kernel
theorem test_or : rrr 2 3 (.or kB 3 1 2) 12 10 = some (14, 1) := by decide +kernel
theorem test_xor : rrr 2 4 (.xor kB 3 1 2) 12 10 = some (6, 1) := by decide +kernel
theorem test_sll_by_64 : rrr 2 5 (.sll kB 3 1 2) 5 64 = some (5, 1) := by decide +kernel
theorem test_srl : rrr 2 6 (.srl kB 3 1 2) top 63 = some (1, 1) := by decide +kernel
theorem test_sra : rrr 2 7 (.sra kB 3 1 2) top 63 = some (ones, 1) := by decide +kernel
theorem test_slt : rrr 2 8 (.slt kB 3 1 2) ones 0 = some (1, 1) := by decide +kernel
theorem test_sltu : rrr 2 9 (.sltu kB 3 1 2) ones 0 = some (0, 1) := by decide +kernel
theorem test_min : rrr 2 10 (.min kB 3 1 2) ones 7 = some (ones, 1) := by decide +kernel
theorem test_max : rrr 2 11 (.max kB 3 1 2) ones 7 = some (7, 1) := by decide +kernel
theorem test_minu : rrr 2 12 (.minu kB 3 1 2) ones 7 = some (7, 1) := by decide +kernel
theorem test_maxu : rrr 2 13 (.maxu kB 3 1 2) ones 7 = some (ones, 1) := by decide +kernel
theorem test_mul : rrr 3 0 (.mul kB 3 1 2) (top + 3) 2 = some (6, 1) := by decide +kernel
theorem test_mulh : rrr 3 1 (.mulh kB 3 1 2) ones 2 = some (ones, 1) := by decide +kernel
theorem test_mulhu : rrr 3 2 (.mulhu kB 3 1 2) ones 2 = some (1, 1) := by decide +kernel
theorem test_addi_negative : rri 4 0 (2 ^ 28 - 1) (.addi kB 3 1 (2 ^ 28 - 1)) 0 = some (ones, 1) := by decide +kernel
theorem test_andi : rri 4 1 (2 ^ 28 - 16) (.andi kB 3 1 (2 ^ 28 - 16)) 0x123 = some (0x120, 1) := by decide +kernel
theorem test_ori : rri 4 2 1 (.ori kB 3 1 1) 0x120 = some (0x121, 1) := by decide +kernel
theorem test_xori : rri 4 3 (2 ^ 28 - 1) (.xori kB 3 1 (2 ^ 28 - 1)) 0 = some (ones, 1) := by decide +kernel
theorem test_slti : rri 4 4 (2 ^ 28 - 1) (.slti kB 3 1 (2 ^ 28 - 1)) 0 = some (0, 1) := by decide +kernel
theorem test_slli : rri 4 5 63 (.slli kB 3 1 63) 3 = some (top, 1) := by decide +kernel
theorem test_srli : rri 4 6 63 (.srli kB 3 1 63) top = some (1, 1) := by decide +kernel
theorem test_srai : rri 4 7 63 (.srai kB 3 1 63) top = some (ones, 1) := by decide +kernel
/-- R149: a shift immediate of 64 is a reserved encoding: illegal instruction, cause 2. -/
theorem test_slli_64_is_illegal :
    after (fun t => ((t.ctx kB).hold, t.regBit .fltStatus 1)) (exec (.slli kB 3 1 64) (runs kB (encR 4 5 3 1 0 0 64) fresh))
      = some (.faulting 0, true) := by decide +kernel
theorem test_write_of_s0 :
    after (fun t => ((t.ctx kB).s 0, (t.ctx kB).pc)) (exec (.add kB 0 1 2) (runs kB (encR 2 0 0 1 2 0 0) (two 3 4)))
      = some (0, 1) := by decide +kernel
theorem test_li :
    after (fun t => (t.ctx kB).s 3) (exec (.li kB 3 0x80000000) (runs kB (encL 5 0 3 0x80000000) fresh))
      = some 0xFFFFFFFF80000000 := by decide +kernel
theorem test_lih :
    after (fun t => (t.ctx kB).s 1) (exec (.lih kB 1 5) (runs kB (encL 5 1 1 5) (two 0xFFFFFFFF80000001 0)))
      = some 0x580000001 := by decide +kernel

/-- Core 0's store holds FE at offset 8 and 80 at 9. -/
def stored (w : Word) (c : Context) : State :=
  let s := runs kB w c
  { s with mem := Memory.writeN [] (storeAddr 0 8) [0xFE, 0x80] }

theorem test_ld_sign :
    after (fun t => (t.ctx kB).s 3) (exec (.ld kB .h 3 1 (2 ^ 28 - 2)) (stored (encR 6 1 3 1 0 0 (2 ^ 28 - 2)) (two 10 0)))
      = some 0xFFFFFFFFFFFF80FE := by decide +kernel
theorem test_ldu_zero :
    after (fun t => (t.ctx kB).s 3) (exec (.ldu kB .b 3 1 0) (stored (encR 6 4 3 1 0 0 0) (two 8 0))) = some 0xFE := by decide +kernel
theorem test_st_low_byte_first :
    after (fun t => (t.memBytes (storeAddr 0 8) 4)) (exec (.st kB .h 1 2 0) (stored (encR 7 1 0 1 2 0 0) (two 8 0x1234)))
      = some [0x34, 0x12, 0, 0] := by decide +kernel
/-- R150: the last byte of the core store is at 0x17FFFF; a load across it takes RANGE, an odd one ALIGN. -/
theorem test_ld_range_and_align :
    after lastRec (exec (.ld kB .d 3 1 4) (stored (encR 6 3 3 1 0 0 4) (two 0x17FFF8 0))) = some (3, 1) ∧
    after lastRec (exec (.ld kB .w 3 1 0) (stored (encR 6 2 3 1 0 0 0) (two 2 0))) = some (3, 2) := by decide +kernel

/-- Where a branch of s1 and s2 by X goes, from index 5. -/
def branch (fn : Nat) (x : BitVec 28) (i : Instr) (a b : Word) : Option Nat :=
  after (fun t => (t.ctx kB).pc) (exec i (runs kB (encR 8 fn 0 1 2 0 x) { two a b with pc := 5 }))

theorem test_beq : branch 0 3 (.beq kB 1 2 3) 4 4 = some 8 ∧ branch 0 3 (.beq kB 1 2 3) 4 5 = some 6 := by decide +kernel
theorem test_bne_back : branch 1 (2 ^ 28 - 7) (.bne kB 1 2 (2 ^ 28 - 7)) 4 5 = some 8190 := by decide +kernel
theorem test_blt : branch 2 3 (.blt kB 1 2 3) ones 0 = some 8 := by decide +kernel
theorem test_bge : branch 3 3 (.bge kB 1 2 3) ones 0 = some 6 := by decide +kernel
theorem test_bltu : branch 4 3 (.bltu kB 1 2 3) ones 0 = some 6 := by decide +kernel
theorem test_bgeu : branch 5 3 (.bgeu kB 1 2 3) ones 0 = some 8 := by decide +kernel
theorem test_bdnz :
    after (fun t => ((t.ctx kB).s 1, (t.ctx kB).pc)) (exec (.bdnz kB 1 3) (runs kB (encR 9 0 1 0 0 0 3) (two 1 0))) = some (0, 1) ∧
    after (fun t => ((t.ctx kB).s 1, (t.ctx kB).pc)) (exec (.bdnz kB 1 3) (runs kB (encR 9 0 1 0 0 0 3) (two 0 0)))
      = some (ones, 3) := by decide +kernel
theorem test_jal :
    after (fun t => ((t.ctx kB).s 3, (t.ctx kB).pc)) (exec (.jal kB 3 (2 ^ 28 - 1)) (runs kB (encR 10 0 3 0 0 0 (2 ^ 28 - 1)) fresh))
      = some (1, 8191) := by decide +kernel
theorem test_jr_to_itself :
    after (fun t => ((t.ctx kB).s 1, (t.ctx kB).pc)) (exec (.jr kB 1 1) (runs kB (encR 11 0 1 1 0 0 0) (two 8200 0)))
      = some (1, 8) := by decide +kernel
theorem test_rdtime :
    after (fun t => (t.ctx kB).s 3) (exec (.rdtime kB 3) (let s := runs kB (encR 12 0 3 0 0 0 0) fresh; { s with time := { s.time with ns := 77 } }))
      = some 77 := by decide +kernel
theorem test_rdline :
    after (fun t => (t.ctx kB).s 3)
      (exec (.rdline kB 3) (let s := runs kB (encR 12 1 3 0 0 0 0) fresh; { s with time := { s.time with frame := 2, line := 9 } }))
      = some 0x20009 := by decide +kernel
/-- R152: device, core and context are in the word of rdid; core 767 lies at column 31 and row 23. -/
theorem test_rdid : after (fun t => (t.ctx kZ).s 3) (exec (.rdid kZ 3) (runs kZ (encR 12 2 3 0 0 0 0) fresh)) = some (coreIdWord 767) := by
  decide +kernel
theorem test_end : after (fun t => (t.ctx kB).state) (exec (.endCtx kB) (runs kB (encR 13 0 0 0 0 0 0) fresh)) = some .disabled := by
  decide +kernel
theorem test_ev_wait_gives_way :
    after (fun t => ((t.ctx kF).state, (t.core 0).active)) (exec (.evWait kF 3) (runs kF (encR 14 0 3 0 0 0 0) fresh)) = some (.evwait, .B) := by
  decide +kernel
/-- R149: ev.wait in the bulk context is illegal. -/
theorem test_ev_wait_in_bulk : after (fun t => (t.ctx kB).hold) (exec (.evWait kB 3) (runs kB (encR 14 0 3 0 0 0 0) fresh)) = some (.faulting 0) := by
  decide +kernel


/-! ### Witnesses of the scalar statements, at the ends of what their clauses admit -/

theorem witness_ScalarRegisterOperations :
    issues (runs kZ (encR 0x02 0x0D 31 31 31 0 0) (two 1 2)) kZ (encR 0x02 0x0D 31 31 31 0 0) ∧
      issues (runs kF (encR 0x03 2 0 1 2 0 0) (two 1 2)) kF (encR 0x03 2 0 1 2 0 0) :=
  ⟨witness_issues _ _ _ (by decide) rfl rfl, witness_issues _ _ _ (by decide) rfl rfl⟩

theorem witness_ScalarImmediateOperations :
    (63 : BitVec 28).toNat < 64 ∧ issues (runs kZ (encR 0x04 7 3 1 0 0 63) (two 1 2)) kZ (encR 0x04 7 3 1 0 0 63) ∧
      (0 : BitVec 28).toNat < 64 ∧ issues (runs kB (encR 0x04 5 3 1 0 0 0) (two 1 2)) kB (encR 0x04 5 3 1 0 0 0) ∧
      issues (runs kB (encL 0x05 1 3 0xFFFFFFFF) fresh) kB (encL 0x05 1 3 0xFFFFFFFF) :=
  ⟨by decide, witness_issues _ _ _ (by decide) rfl rfl, by decide, witness_issues _ _ _ (by decide) rfl rfl,
    witness_issues _ _ _ (by decide) rfl rfl⟩

/-- The last eight bytes of the store, and its first byte. -/
theorem witness_ScalarLoadsAndStores :
    (let c := two 0x17FFF8 7
     effOffset c 1 0 = BitVec.ofNat 64 0x17FFF8 ∧ 0x17FFF8 + sizeBytes .d ≤ storeSize ∧ 0x17FFF8 % sizeBytes .d = 0 ∧
      storeClear c = true ∧ SMap.get? (runs kZ (encR 0x07 3 0 1 2 0 0) c).marks (storeAddr 767 0x17FFF8) = none) ∧
    (let c := two 1 7
     effOffset c 1 (2 ^ 28 - 1) = BitVec.ofNat 64 0 ∧ 0 + sizeBytes .b ≤ storeSize ∧ storeClear c = true) ∧
    issues (runs kZ (encR 0x07 3 0 1 2 0 0) (two 0x17FFF8 7)) kZ (encR 0x07 3 0 1 2 0 0) ∧
    issues (runs kB (encR 0x06 4 3 1 0 0 (2 ^ 28 - 1)) (two 1 7)) kB (encR 0x06 4 3 1 0 0 (2 ^ 28 - 1)) ∧ MemSize.b ≠ .d :=
  ⟨by decide +kernel, by decide +kernel, witness_issues _ _ _ (by decide) rfl rfl, witness_issues _ _ _ (by decide) rfl rfl, by decide⟩

/-- A context whose queue holds one product, and one whose queue is empty with a release held. -/
def oneOp (opc : TileOpc) (rows : Nat) (cfg : BitVec 32) : TileOp :=
  { seq := 0, pc := 0, opc := opc, op := 0, rows := rows, cfg0 := cfg, cfg1 := 0, fc := .reset, wsrc := [], weights := none,
    started := false, row := 0, inGroup := false, agreed := false, nan := false, clears := 0, superseded := false, stopped := false }
def oneProduct : Product := ⟨5, false, false, 0, 0, 0, 0, 0, 0, false, 0⟩

theorem witness_ControlFlow :
    issues (runs kB (encR 0x08 5 0 1 2 0 3) (two 1 1)) kB (encR 0x08 5 0 1 2 0 3) ∧
    (issues (runs kB (encR 0x0D 0 0 0 0 0 0) fresh) kB (encR 0x0D 0 0 0 0 0 0) ∧ fresh.queue = [] ∧ fresh.releases = []) ∧
    (let c := { fresh with queue := [oneOp (.vtwr 0 0 0) 1 0] }
     issues (runs kB (encR 0x0D 0 0 0 0 0 0) c) kB (encR 0x0D 0 0 0 0 0 0) ∧ c.queue ≠ []) ∧
    (let c := { fresh with releases := [⟨0, 0, .phEnd 0⟩] }
     issues (runs kZ (encR 0x0D 0 0 0 0 0 0) c) kZ (encR 0x0D 0 0 0 0 0 0) ∧ c.queue = [] ∧ c.releases ≠ []) ∧
    issues (runs kF (encR 0x0E 0 31 0 0 0 0) fresh) kF (encR 0x0E 0 31 0 0 0 0) ∧
      ((runs kF (encR 0x0E 0 31 0 0 0 0) fresh).core 0).events = [] ∧
    (let s := runs kF (encR 0x0E 0 31 0 0 0 0) fresh
     let t := s.setCore 0 { s.core 0 with events := [16] }
     issues t kF (encR 0x0E 0 31 0 0 0 0) ∧ (t.core 0).events = 16 :: []) := by
  refine ⟨witness_issues _ _ _ (by decide) rfl rfl, ⟨witness_issues _ _ _ (by decide) rfl rfl, rfl, rfl⟩,
    ⟨witness_issues _ _ _ (by decide) rfl rfl, by decide⟩, ⟨witness_issues _ _ _ (by decide) rfl rfl, rfl, by decide⟩,
    witness_issues _ _ _ (by decide) rfl rfl, by decide +kernel, ⟨?_, by decide +kernel, by decide +kernel⟩, by decide +kernel⟩
  decide +kernel

/-! ### Vector instructions, FP32 1 is 3F800000, 2 is 40000000; results worked from R121, R130 and R154 -/

/-- A running context with v1, v2 and v3, its lane 0 as given and the others 0. -/
def vecs (x y z : Nat) : Context :=
  ((fresh.setV 1 (BitVec.ofNat 1536 x)).setV 2 (BitVec.ofNat 1536 y)).setV 3 (BitVec.ofNat 1536 z)

/-- Lane 0 of v4, at a width, after an operation on v1, v2 and v3. -/
def lane0 (w : BitVec 2) (word : Word) (i : Instr) (x y z : Nat) : Option Nat :=
  after (fun t => (lanes w ((t.ctx kB).v 4)).getD 0 0) (exec i (runs kB word (vecs x y z)))

theorem test_vadd : lane0 0 (encR 0x24 0 4 1 2 0 0) (.vadd kB 0 4 1 2) 0x3F800000 0x40000000 0 = some 0x40400000 := by decide +kernel
theorem test_vsub : lane0 0 (encR 0x24 4 4 1 2 0 0) (.vsub kB 0 4 1 2) 0x3F800000 0x40000000 0 = some 0xBF800000 := by decide +kernel
/-- BF16: 1.5 times 1.5 is 2.25, 4010. -/
theorem test_vmul_bf16 : lane0 1 (encR 0x24 9 4 1 2 0 0) (.vmul kB 1 4 1 2) 0x3FC0 0x3FC0 0 = some 0x4010 := by decide +kernel
theorem test_vmin : lane0 2 (encR 0x24 14 4 1 2 0 0) (.vmin kB 2 4 1 2) 0xBC00 0x3C00 0 = some 0xBC00 := by decide +kernel
theorem test_vmax : lane0 2 (encR 0x24 18 4 1 2 0 0) (.vmax kB 2 4 1 2) 0xBC00 0x3C00 0 = some 0x3C00 := by decide +kernel
theorem test_vneg : lane0 0 (encR 0x24 20 4 1 0 0 0) (.vneg kB 0 4 1) 0x3F800000 0 0 = some 0xBF800000 := by decide +kernel
theorem test_vabs : lane0 0 (encR 0x24 24 4 1 0 0 0) (.vabs kB 0 4 1) 0xBF800000 0 0 = some 0x3F800000 := by decide +kernel
theorem test_vfma : lane0 0 (encR 0x25 0 4 1 2 3 0) (.vfma kB 0 4 1 2 3) 0x40000000 0x40000000 0x3F800000 = some 0x40A00000 := by
  decide +kernel
/-- Lanes 0 and 47 hold 1 and 2: the sum is 3. -/
theorem test_vsum :
    lane0 0 (encR 0x26 0 4 1 0 0 0) (.vsum kB 0 4 1) (0x3F800000 + 0x40000000 * 2 ^ (32 * 47)) 0 0 = some 0x40400000 := by decide +kernel
theorem test_vcmp_gt : lane0 0 (encR 0x27 0 4 1 2 0 0) (.vcmpGt kB 0 4 1 2) 0x40000000 0x3F800000 0 = some 0xFFFFFFFF := by decide +kernel
theorem test_vcmp_ge : lane0 1 (encR 0x27 5 4 1 2 0 0) (.vcmpGe kB 1 4 1 2) 0x3F80 0x3F80 0 = some 0xFFFF := by decide +kernel
/-- -0 and +0 compare equal; a NaN equals nothing. -/
theorem test_vcmp_eq :
    lane0 0 (encR 0x27 8 4 1 2 0 0) (.vcmpEq kB 0 4 1 2) 0x80000000 0 0 = some 0xFFFFFFFF ∧
    lane0 0 (encR 0x27 8 4 1 2 0 0) (.vcmpEq kB 0 4 1 2) 0x7FC00000 0x7FC00000 0 = some 0 := by decide +kernel
theorem test_vand : lane0 0 (encR 0x28 0 4 1 2 0 0) (.vand kB 4 1 2) 12 10 0 = some 8 := by decide +kernel
theorem test_vor : lane0 0 (encR 0x28 4 4 1 2 0 0) (.vor kB 4 1 2) 12 10 0 = some 14 := by decide +kernel
theorem test_vxor : lane0 0 (encR 0x28 8 4 1 2 0 0) (.vxor kB 4 1 2) 12 10 0 = some 6 := by decide +kernel
/-- Bits of v1 where v3 is 1, of v2 where it is 0. -/
theorem test_vsel : lane0 0 (encR 0x28 12 4 1 2 3 0) (.vsel kB 4 1 2 3) 0xAA 0x55 0xF0 = some 0xA5 := by decide +kernel
theorem test_vexp_of_0 : lane0 0 (encR 0x29 0 4 1 0 0 0) (.vexp kB 0 4 1) 0 0 0 = some 0x3F800000 := by decide +kernel
theorem test_vlog2_of_8 : lane0 0 (encR 0x29 4 4 1 0 0 0) (.vlog2 kB 0 4 1) 0x41000000 0 0 = some 0x40400000 := by decide +kernel
theorem test_vrsqrt_of_4 : lane0 0 (encR 0x29 8 4 1 0 0 0) (.vrsqrt kB 0 4 1) 0x40800000 0 0 = some 0x3F000000 := by decide +kernel
theorem test_vtanh_of_0 : lane0 0 (encR 0x29 12 4 1 0 0 0) (.vtanh kB 0 4 1) 0 0 0 = some 0 := by decide +kernel
theorem test_vbcast :
    after (fun t => (lanes 1 ((t.ctx kB).v 4)).getD 95 0) (exec (.vbcast kB 1 4 1) (runs kB (encR 0x22 1 4 1 0 0 0) (two 0x12345 0)))
      = some 0x2345 := by decide +kernel
theorem test_vget :
    after (fun t => (t.ctx kB).s 3) (exec (.vget kB 3 1 47) (runs kB (encR 0x23 0 3 1 0 0 47) (vecs (0xFEDC * 2 ^ (32 * 47)) 0 0)))
      = some 0xFEDC := by decide +kernel
theorem test_vld :
    after (fun t => (lanes 0 ((t.ctx kB).v 4)).getD 2 0) (exec (.vld kB 4 1 0) (stored (encR 0x20 0 4 1 0 0 0) fresh)) = some 0x80FE := by
  decide +kernel
/-- R150: a vector access at a multiple of 32 but not of 64 takes ALIGN. -/
theorem test_vld_align : after lastRec (exec (.vld kB 4 1 32) (stored (encR 0x20 0 4 1 0 0 32) fresh)) = some (3, 2) := by decide +kernel
theorem test_vst :
    after (fun t => t.memNat (storeAddr 0 64) 4) (exec (.vst kB 1 2 64) (runs kB (encR 0x21 0 0 1 2 0 64) (vecs 0 0xDEADBEEF 0)))
      = some 0xDEADBEEF := by decide +kernel
/-- FP32 1 + 2^-8 to BF16, nearest even: 1. -/
theorem test_vcvt :
    lane0 1 (encR 0x2A 0 4 2 0 0 0x001) (.vcvt kB 0 4 2 0 0 0x001) 0 0x3F808000 0 = some 0x3F80 := by decide +kernel

/-! ### Witnesses of the vector statements -/

theorem witness_VectorLaneOperations :
    (2 : BitVec 2) ≠ 3 ∧ vReady (vecs 0x3C00 0 0) [31, 1, 2, 3] = true ∧
    issues (runs kZ (encR 0x24 18 31 1 2 0 0) (vecs 0x3C00 0 0)) kZ (encR 0x24 18 31 1 2 0 0) ∧
    issues (runs kB (encR 0x29 12 4 1 0 0 0) (vecs 0 0 0)) kB (encR 0x29 12 4 1 0 0 0) ∧
    issues (runs kB (encR 0x25 0 4 1 2 3 0) (vecs 0 0 0)) kB (encR 0x25 0 4 1 2 3 0) ∧
    issues (runs kB (encR 0x26 1 4 1 0 0 0) (vecs 0 0 0)) kB (encR 0x26 1 4 1 0 0 0) :=
  ⟨by decide, by decide +kernel, witness_issues _ _ _ (by decide) rfl rfl, witness_issues _ _ _ (by decide) rfl rfl,
    witness_issues _ _ _ (by decide) rfl rfl, witness_issues _ _ _ (by decide) rfl rfl⟩

/-- The trap of the bulk contexts on: MODE and ENABLE B of NUM_CTL. -/
def trapping (w : Word) (c : Context) : State := (runs kB w c).setReg .numCtl 0x21

theorem witness_InstructionFrames :
    (after (fun t => (t.ctx kB).s 3) (exec (.add kB 3 1 2) (runs kB (encR 2 0 3 1 2 0 0) (two 1 2)))).isSome = true ∧
    ([(0x3F800000, (0 : NFlags))].any fun r => (laneFmt 0).isNanBits r.1) = false ∧
    (trapping 0 fresh).ctx kB = fresh ∧ fresh.hold = .none ∧
    (([(0x7FC00000, (0 : NFlags))].any fun r => (laneFmt 0).isNanBits r.1) &&
      trapOn (addCtxFlags (trapping 0 fresh) kB true 0) (ctxTrapBit .B)) = true := by decide +kernel

/-- A NaN in a trapping context stops it at the next instruction (R139). -/
theorem test_nan_trap :
    after (fun t => ((t.ctx kB).hold, lastRec t)) (exec (.vadd kB 0 4 1 2) (trapping (encR 0x24 0 4 1 2 0 0) (vecs 0x7F800000 0xFF800000 0)))
      = some (.faulting 1, 6, 2) := by decide +kernel

theorem witness_VectorBitOperations :
    (0 : BitVec 2) ≠ 3 ∧ vReady (vecs 1 2 3) [4, 1, 2, 3] = true ∧
    issues (runs kB (encR 0x27 8 4 1 2 0 0) (vecs 1 2 3)) kB (encR 0x27 8 4 1 2 0 0) ∧
    issues (runs kZ (encR 0x28 12 4 1 2 3 0) (vecs 1 2 3)) kZ (encR 0x28 12 4 1 2 3 0) ∧
    issues (runs kB (encR 0x22 0 4 1 0 0 0) (vecs 1 2 3)) kB (encR 0x22 0 4 1 0 0 0) ∧
    issues (runs kB (encR 0x23 0 4 1 0 0 47) (vecs 1 2 3)) kB (encR 0x23 0 4 1 0 0 47) ∧ (47 : BitVec 28).toNat < 48 ∧
    issues (runs kB (encR 0x24 24 4 1 0 0 0) (vecs 1 2 3)) kB (encR 0x24 24 4 1 0 0 0) :=
  ⟨by decide, by decide +kernel, witness_issues _ _ _ (by decide) rfl rfl, witness_issues _ _ _ (by decide) rfl rfl,
    witness_issues _ _ _ (by decide) rfl rfl, witness_issues _ _ _ (by decide) rfl rfl, by decide,
    witness_issues _ _ _ (by decide) rfl rfl⟩

/-- The last 192 bytes of the store that a vector access reaches, and a conversion of a pair: FP8 to FP32. -/
theorem witness_VectorMemoryAndConversions :
    (let c := two 0x17FF40 0
     effOffset c 1 0 = BitVec.ofNat 64 0x17FF40 ∧ 0x17FF40 + 192 ≤ storeSize ∧ 0x17FF40 % 64 = 0 ∧ storeClear c = true ∧
      vReady c [4, 2] = true ∧ ∀ n, n < 24 → SMap.get? (runs kB 0 c).marks (storeAddr 0 (0x17FF40 + 8 * n)) = none) ∧
    issues (runs kB (encR 0x20 0 4 1 0 0 0) (two 0x17FF40 0)) kB (encR 0x20 0 4 1 0 0 0) ∧
    issues (runs kB (encR 0x21 0 0 1 2 0 0) (two 0x17FF40 0)) kB (encR 0x21 0 0 1 2 0 0) ∧
    issues (runs kB (encR 0x2A 0 4 2 0 0 0x030) (vecs 0 0 0)) kB (encR 0x2A 0 4 2 0 0 0x030) ∧
    cvtCause (encR 0x2A 0 4 2 0 0 0x030) = none ∧ cvtCause (encR 0x2A 3 4 2 0 0 0x0C2) = none ∧
    vReady (vecs 0 0 0) (cvtRegs (cvtOf 0 0x030) 4 2) = true ∧
    ((cvtRun (cvtOf 0 0x030) 0 0 0 0 0).nan && trapOn (runs kB 0 (vecs 0 0 0)) (ctxTrapBit .B)) = false :=
  ⟨by decide +kernel, witness_issues _ _ _ (by decide) rfl rfl, witness_issues _ _ _ (by decide) rfl rfl,
    witness_issues _ _ _ (by decide) rfl rfl, by decide +kernel, by decide +kernel, by decide +kernel, by decide +kernel⟩

/-! ### Tile instructions at issue -/

/-- T0, T1, T14 and T15 as a drain's FP32 pair asks, 48 rows of 24; T2 BF16, 48 of 48; T4 E4M3, 48 of 96; T6 and T7 INT8 with
8 rows of 48; every tile and both accumulators in use; s1 and s4 the last places of a store or load of 96 and of 192 bytes a row, s2
and s3 those strides. -/
def tiled : Context :=
  let c := { fresh with
    tcfg := [(0, 0x1830), (1, 0x1830), (2, 0x13030), (4, 0x36030), (6, 0x63008), (7, 0x63008), (14, 0x1830), (15, 0x1830)]
    tinuse := 0xFFFF
    accinuse := 3 }
  (((c.setS 1 0x17EE00).setS 2 96).setS 3 192).setS 4 0x17DC00

theorem test_tcfg :
    after (fun t => ((t.ctx kB).cfg 5, (t.ctx kB).cfg 4)) (exec (.tcfg kB true 4 1) (runs kB (encR 0x40 1 4 1 0 0 0) (two 0x183000013030 0)))
      = some (0x1830, 0x13030) := by decide +kernel
/-- R10 and R48: a reserved bit of an entry has an undefined effect. -/
theorem test_tcfg_reserved_bit :
    faultOf (exec (.tcfg kB false 4 1) (runs kB (encR 0x40 0 4 1 0 0 0) (two 0x40 0))) = some (.reservedEntryBit 4) := by decide +kernel
theorem test_tfree : after (fun t => (t.ctx kB).tinuse) (exec (.tfree kB 0x8001) (runs kB (encR 0x41 0 0 0 0 0 0x8001) tiled)) = some 0x7FFE := by
  decide +kernel
theorem test_tclr : after (fun t => (t.ctx kB).accinuse) (exec (.tclr kB 2) (runs kB (encR 0x42 2 0 0 0 0 0) tiled)) = some 1 := by decide +kernel
theorem test_tld_queues :
    after (fun t => (t.ctx kB).queue.map (·.opc)) (exec (.tld kB 0 1 2 15) (runs kB (encR 0x44 0 0 1 2 0 15) tiled))
      = some [.tld 0 0x17EE00 96 0 false] := by decide +kernel
/-- R65: a stride below the row's bytes is DIM, cause 4. -/
theorem test_tld_tr_stride : after lastRec (exec (.tldTr kB 0 1 2 15) (runs kB (encR 0x44 1 0 1 2 0 15) tiled)) = some (1, 4) := by decide +kernel
theorem test_tst : after (fun t => (t.ctx kB).queue.length) (exec (.tst kB 0 1 2) (runs kB (encR 0x45 0 0 0 1 2 0) tiled)) = some 1 := by
  decide +kernel
/-- R65: a tile that is not in use is cause 5; the lowest cause is recorded. -/
theorem test_tst_unused :
    after lastRec (exec (.tst kB 0 1 2) (runs kB (encR 0x45 0 0 0 1 2 0) { tiled with tinuse := 0 })) = some (1, 5) := by decide +kernel
theorem test_tst_tr : after (fun t => (t.ctx kB).queue.length) (exec (.tstTr kB 0 1 3) (runs kB (encR 0x45 1 0 0 1 3 0) tiled)) = some 1 := by
  decide +kernel
/-- tst.add takes no 8-bit format: cause 3. -/
theorem test_tst_add : after lastRec (exec (.tstAdd kB 4 1 2) (runs kB (encR 0x45 2 0 4 1 2 0) tiled)) = some (1, 3) := by decide +kernel
theorem test_tdrain_pair :
    after (fun t => (t.ctx kB).queue.map (·.opc)) (exec (.tdrain kB true true 14 0 0) (runs kB (encR 0x46 5 14 0 0 0 0) { tiled with tinuse := 0 }))
      = some [.drain true false (.tiles 14)] := by decide +kernel
theorem test_tdrain_marks_tiles :
    after (fun t => (t.ctx kB).tinuse) (exec (.tdrain kB true true 14 0 0) (runs kB (encR 0x46 5 14 0 0 0 0) { tiled with tinuse := 0 }))
      = some 0xC000 := by decide +kernel
theorem test_tdrain_c_odd_pair :
    after lastRec (exec (.tdrainC kB false true 15 0 0) (runs kB (encR 0x46 6 15 0 0 0 0) tiled)) = some (1, 8) := by decide +kernel
/-- R161: a partition of size 0 is OPERAND. -/
theorem test_tdrain_f_no_partition : after lastRec (exec (.tdrainF kB false 15) (runs kB (encR 0x47 0 0 0 0 0 15) tiled)) = some (2, 5) := by
  decide +kernel
theorem test_twl : after (fun t => (t.ctx kB).queue.map (·.opc)) (exec (.twl kB false 2) (runs kB (encR 0x48 0 0 2 0 0 0) tiled)) = some [.twl 2 false] := by
  decide +kernel
/-- R57 and R64: a product with no weights before it is NOWEIGHT, cause 10. -/
theorem test_tmma_no_weight : after lastRec (exec (.tmma kB 0 false 0 2 0 0 0) (runs kB (encR 0x50 0 0 2 0 0 0) tiled)) = some (1, 10) := by decide +kernel
/-- A context with weights of T2 latched. -/
def weighted : Context := { tiled with latch := some ⟨0, 2, false, 0x13030, 0, .reset, [], [], [], []⟩, accinuse := 0 }
theorem test_tmma :
    after (fun t => ((t.ctx kB).queue.length, (t.ctx kB).accinuse)) (exec (.tmma kB 0 true 0 2 0 0 0) (runs kB (encR 0x50 0x20 0 2 0 0 0) weighted))
      = some (1, 2) := by decide +kernel
theorem test_tmmat :
    after (fun t => ((t.ctx kB).queue.length, (t.ctx kB).accinuse)) (exec (.tmmat kB 0 false 0 2 0 0 0) (runs kB (encR 0x50 0x10 0 2 0 0 0) weighted))
      = some (1, 1) := by decide +kernel
theorem test_vtrd_unused : after lastRec (exec (.vtrd kB 4 5 0 47) (runs kB (encR 0x2C 0 4 5 0 0 47) { tiled with tinuse := 0xFFFE })) = some (1, 5) := by
  decide +kernel
theorem test_vtwr_row : after lastRec (exec (.vtwr kB 0 5 4 48) (runs kB (encR 0x2D 0 0 5 4 0 48) tiled)) = some (1, 4) := by decide +kernel

/-- Memory with a feeder configuration at 0: mode 1, target 3, all else 0. -/
def feeder (w : Word) (c : Context) : State := { runs kB w c with mem := Memory.writeN [] (storeAddr 0 240) [1, 3] }

theorem test_fcfg :
    after (fun t => ((t.ctx kB).fc.affine, (t.ctx kB).fc.target)) (exec (.fcfg kB 1) (feeder (encR 0x49 0 0 1 0 0 0) fresh)) = some (true, 3) := by
  decide +kernel
/-- R163: a target of 0 is refused with cause OPERAND. -/
theorem test_fcfg_bad : after lastRec (exec (.fcfg kB 1) (runs kB (encR 0x49 0 0 1 0 0 0) fresh)) = some (2, 5) := by decide +kernel

/-! ### Witnesses of the tile statements -/

theorem witness_TileConfigurationInstructions :
    (issues (runs kB (encR 0x40 1 14 1 0 0 0) (two 0x183000001830 0)) kB (encR 0x40 1 14 1 0 0 0) ∧ (14 : BitVec 5).toNat < 16 ∧
      (14 : BitVec 5).toNat % 2 = 0 ∧ (two 0x183000001830 0).queue = [] ∧ (0x1830 : BitVec 32) &&& ~~~cfgMask = 0) ∧
    (let c := { fresh with queue := [oneOp (.vtwr 0 0 0) 1 0] }
     issues (runs kB (encR 0x40 0 15 1 0 0 0) c) kB (encR 0x40 0 15 1 0 0 0) ∧ c.queue ≠ []) ∧
    (issues (runs kB (encR 0x41 0 0 0 0 0 0xFFFF) tiled) kB (encR 0x41 0 0 0 0 0 0xFFFF) ∧ tiled.weightSources = []) ∧
    (issues (runs kB (encR 0x41 0 0 0 0 0 0xFFFF) weighted) kB (encR 0x41 0 0 0 0 0 0xFFFF) ∧ 2 ∈ weighted.weightSources) ∧
    issues (runs kB (encR 0x42 3 0 0 0 0 0) tiled) kB (encR 0x42 3 0 0 0 0 0) ∧
    (issues (feeder (encR 0x49 0 0 1 0 0 0) fresh) kB (encR 0x49 0 0 1 0 0 0) ∧ (fresh.s 1).toNat + 256 ≤ storeSize ∧
      (fresh.s 1).toNat % 64 = 0 ∧ twlUnderWay fresh = false ∧
      (∀ n, n < 32 → SMap.get? (feeder (encR 0x49 0 0 1 0 0 0) fresh).marks (storeAddr 0 (8 * n)) = none) ∧
      (fcfgParse ((feeder 0 fresh).memBytes (storeAddr 0 0) 256)).isSome = true) := by
  refine ⟨⟨witness_issues _ _ _ (by decide) rfl rfl, by decide, by decide, rfl, by decide⟩,
    ⟨witness_issues _ _ _ (by decide) rfl rfl, by decide⟩, ⟨witness_issues _ _ _ (by decide) rfl rfl, rfl⟩,
    ⟨witness_issues _ _ _ (by decide) rfl rfl, by decide⟩, witness_issues _ _ _ (by decide) rfl rfl,
    ⟨⟨by decide +kernel, by decide +kernel, by decide +kernel⟩, by decide +kernel, by decide +kernel, rfl, fun _ _ => rfl, by decide +kernel⟩⟩

/-- A router whose partition 15 holds 48 rows. -/
def handing (w : Word) (c : Context) : State :=
  { runs kB w c with routers := [(0, { Router.reset with hoffRows := setAt Router.reset.hoffRows 15 48 })] }

theorem witness_TileMovesEnterTheQueue :
    tiled.queue.length < 8 ∧
    (let e := tiled.cfg 0
     cfgFails e 0 = [] ∧ tldPair 0 (cfgFmt e) = true ∧ rowBytes 0 (memShape e false).2 ≤ (tiled.s 2).toNat ∧
      tileStoreFault (tiled.s 1) (tiled.s 2) (memShape e false).1 (rowBytes 0 (memShape e false).2) = none ∧
      rowBytes 0 (memShape e true).2 ≤ (tiled.s 3).toNat ∧ fmtBlock (cfgFmt e) = false ∧
      tileStoreFault (tiled.s 1) (tiled.s 3) (memShape e true).1 (rowBytes 0 (memShape e true).2) = none ∧ tiled.tileInUse 0 = true) ∧
    (tldPair 3 (cfgFmt (tiled.cfg 2)) = true ∧ cfgFails (tiled.cfg 2) 2 = []) ∧
    (192 ≤ (tiled.s 3).toNat ∧ tileStoreFault (tiled.s 4) (tiled.s 3) 48 192 = none ∧ tiled.accInUse 0 = true ∧ tiled.accInUse 1 = true) ∧
    (∀ n ∈ [14, 15], cfgFmt (tiled.cfg n) = 0 ∧ cfgRows (tiled.cfg n) = 48 ∧ cfgCols (tiled.cfg n) = 24) ∧
    (0 < ((handing 0 tiled).router 0).hoffRows.getD 15 0 ∧ partitionOf 15 = Ctx.B) ∧
    (∀ p ∈ [(encR 0x44 0 0 1 2 0 15, (TileOpc.tld 0 0x17EE00 96 0 false)), (encR 0x44 1 0 1 3 0 0, .tld 0 0x17EE00 192 0 true),
        (encR 0x45 0 0 0 1 2 0, .tst 0 0x17EE00 96 .plain), (encR 0x45 1 0 0 1 3 0, .tst 0 0x17EE00 192 .tr),
        (encR 0x45 2 0 0 1 2 0, .tst 0 0x17EE00 96 .add), (encR 0x46 3 0 0 4 3 0, .drain true true (.store 0x17DC00 192)),
        (encR 0x46 5 14 0 0 0 0, .drain true false (.tiles 14)), (encR 0x47 1 0 0 0 0 15, .drain true false (.handoff 15))],
      issues (runs kB p.1 tiled) kB p.1 ∧ illegalCause kB p.1 = none ∧ tstartFails tiled p.2 48 = []) := by
  refine ⟨by decide, by decide +kernel, by decide +kernel, by decide +kernel, by decide +kernel, by decide +kernel, ?_⟩
  have h : ∀ p ∈ [(encR 0x44 0 0 1 2 0 15, (TileOpc.tld 0 0x17EE00 96 0 false)), (encR 0x44 1 0 1 3 0 0, .tld 0 0x17EE00 192 0 true),
        (encR 0x45 0 0 0 1 2 0, .tst 0 0x17EE00 96 .plain), (encR 0x45 1 0 0 1 3 0, .tst 0 0x17EE00 192 .tr),
        (encR 0x45 2 0 0 1 2 0, .tst 0 0x17EE00 96 .add), (encR 0x46 3 0 0 4 3 0, .drain true true (.store 0x17DC00 192)),
        (encR 0x46 5 14 0 0 0 0, .drain true false (.tiles 14)), (encR 0x47 1 0 0 0 0 15, .drain true false (.handoff 15))],
      illegalCause kB p.1 = none ∧ tstartFails tiled p.2 48 = [] := by decide +kernel
  exact fun p hp => ⟨witness_issues _ _ _ (by decide) rfl rfl, h p hp⟩

theorem witness_WeightsAndProductsEnterTheQueue :
    (issues (runs kB (encR 0x48 0 0 2 0 0 0) tiled) kB (encR 0x48 0 0 2 0 0 0) ∧ operandFails tiled false 2 = [] ∧ usedFails tiled false 2 = []) ∧
    (issues (runs kB (encR 0x48 1 0 14 0 0 0) tiled) kB (encR 0x48 1 0 14 0 0 0) ∧ operandFails tiled true 14 = [] ∧
      usedFails tiled true 14 = [] ∧ pairFails tiled 14 = [] ∧ cfgCols (tiled.cfg 14) ≤ 24 ∧ cfgCols (tiled.cfg 15) ≤ 24) ∧
    (cfgFmt (tiled.cfg 6) = 6 ∧ operandFails tiled false 6 = [] ∧ tiled.fc.affine = true ∧
      cfgCols (tiled.cfg 6) ≤ 48 * (wClass 6 tiled.fc.target).slots) ∧
    (issues (runs kB (encR 0x50 0x10 0 2 0 0 0) weighted) kB (encR 0x50 0x10 0 2 0 0 0) ∧
      illegalCause kB (encR 0x50 (prodFn 0 true false 0) 0 2 0 0 0) = none ∧ operandFails weighted false 2 = [] ∧
      usedFails weighted false 2 = [] ∧ formStreams 0 (cfgFmt (weighted.cfg 2)) = true ∧ cfgCols (weighted.cfg 2) ≤ 48 ∧
      weighted.weightsAtIssue.map (fun v => wClass (cfgFmt v.cfg0) v.fc.target) = some (formClass 0) ∧
      tstartFails weighted (.prod { oneProduct with form := 0, transposed := true, tile := 2 }) 48 = []) ∧
    (rowBytes (cfgFmt (weighted.cfg 2)) (cfgCols (weighted.cfg 2)) ≤ (weighted.s 2).toNat ∧
      tileStoreFault (weighted.s 1) (weighted.s 2) 48 96 = none ∧ illegalCause kB (encR 0x50 (prodFn 0 false true 1) 0 2 1 2 0) = none ∧
      illegalCause kB (encR 0x50 (prodFn 0 false true 2) 0 2 0 0 0xF) = none) ∧
    (issues (runs kB (encR 0x2C 0 4 5 0 0 47) tiled) kB (encR 0x2C 0 4 5 0 0 47) ∧ effOffset tiled 5 47 = BitVec.ofNat 64 47 ∧
      vReady tiled [4, 0] = true ∧ 47 < cfgRows (tiled.cfg 0)) ∧
    issues (runs kB (encR 0x2D 0 2 5 4 0 47) tiled) kB (encR 0x2D 0 2 5 4 0 47) := by
  refine ⟨⟨witness_issues _ _ _ (by decide) rfl rfl, by decide +kernel⟩, ⟨witness_issues _ _ _ (by decide) rfl rfl, by decide +kernel⟩,
    by decide +kernel, ⟨witness_issues _ _ _ (by decide) rfl rfl, by decide +kernel⟩, by decide +kernel,
    ⟨witness_issues _ _ _ (by decide) rfl rfl, by decide +kernel⟩, witness_issues _ _ _ (by decide) rfl rfl⟩

theorem witness_InstructionFaults :
    (issues (runs kB (encR 0 0 0 0 0 0 0) fresh) kB (encR 0 0 0 0 0 0 0) ∧ illegalCause kB (encR 0 0 0 0 0 0 0) = some 1) ∧
    (effOffset (two 0x17FFF9 0) 1 0 = BitVec.ofNat 64 0x17FFF9 ∧ storeSize < 0x17FFF9 + sizeBytes .d ∧
      issues (runs kB (encR 0x06 3 3 1 0 0 0) (two 0x17FFF9 0)) kB (encR 0x06 3 3 1 0 0 0)) ∧
    ((¬ storeSize < 0x17FFF7 + sizeBytes .d) ∧ 0x17FFF7 % sizeBytes .d ≠ 0 ∧
      issues (runs kB (encR 0x07 3 0 1 2 0 0) (two 0x17FFF7 0)) kB (encR 0x07 3 0 1 2 0 0)) ∧
    (let c := { tiled with tinuse := 0xFFFE }
     c.queue.length < 8 ∧ issues (runs kB (encR 0x45 0 0 0 1 2 0) c) kB (encR 0x45 0 0 0 1 2 0) ∧
      tileStoreFault (c.s 1) (c.s 2) 48 96 = none ∧
      lowest (cfgFails (c.cfg 0) 0 ++ failIf ((c.s 2).toNat < 96) 4 0 ++ failIf (!c.tileInUse 0) 5 0) = some (5, 0)) := by
  refine ⟨⟨witness_issues _ _ _ (by decide) rfl rfl, by decide +kernel⟩,
    ⟨by decide +kernel, by decide, witness_issues _ _ _ (by decide) rfl rfl⟩,
    ⟨by decide, by decide, witness_issues _ _ _ (by decide) rfl rfl⟩,
    ⟨by decide, witness_issues _ _ _ (by decide) rfl rfl, by decide +kernel, by decide +kernel⟩⟩

/-! ### Pipes, contexts, broadcasts -/

/-- A vtwr of row 5 of T3, waiting, begun, in its row group, and done. -/
def wrOp : TileOp := oneOp (.vtwr 3 5 0xABCD) 1 0x13030
def begun : TileOp := { wrOp with started := true }
def ending : TileOp := { begun with inGroup := true }
def past : TileOp := { begun with row := 1 }

/-- Core 0's bulk context with a queue. -/
def queueOf (q : List TileOp) : State := runs kB 0 { fresh with queue := q, seq := 9 }

theorem test_tile_op_begin :
    after (fun t => (t.ctx kB).queue.map (·.started)) (exec (.tileOpBegin kB .move) (queueOf [wrOp])) = some [true] := by decide +kernel
/-- R52: a load of a tile that an earlier store reads waits. -/
theorem test_tile_op_waits :
    after (fun t => (t.ctx kB).queue.map (·.started))
      (exec (.tileOpBegin kB .feed)
        (queueOf [oneOp (.tld 2 0 96 1 false) 48 0x13030, { oneOp (.prod { oneProduct with form := 0, tile := 2 }) 48 0x13030 with seq := 1 }]))
      = some [false, false] := by decide +kernel
theorem test_row_group_begin :
    after (fun t => (t.ctx kB).queue.map (·.inGroup)) (exec (.rowGroupBegin kB .move) (queueOf [begun])) = some [true] := by decide +kernel
theorem test_row_group_complete :
    after (fun t => ((t.core 0).tileRow 3 5, (t.ctx kB).queue.map (·.row))) (exec (.rowGroupComplete kB .move) (queueOf [ending]))
      = some (0xABCD, [1]) := by decide +kernel
theorem test_tile_instruction_complete :
    after (fun t => (t.ctx kB).queue) (exec (.tileInstructionComplete kB .move) (queueOf [past])) = some [] := by decide +kernel
theorem test_vtrd_moves_a_row :
    after (fun t => (t.ctx kB).v 7)
      (exec (.rowGroupComplete kB .move)
        (let s := queueOf [{ oneOp (.vtrd 7 3 5) 1 0x13030 with started := true, inGroup := true }]
         s.setCore 0 ((s.core 0).setTileRow 3 5 0x77))) = some 0x77 := by decide +kernel

/-- A broadcast of member 0 of pond 0 with members 0 and 1, of a form, waiting at the head of its pipe. -/
def castOp (form : Nat) : TileOp :=
  { oneOp (.prod { oneProduct with form := form, mode := 2, mask := 3, tile := 2 }) 48 0x13030 with started := true }

/-- Cores 0 and 1, the two members, each with its broadcast. -/
def pond (f0 f1 : Nat) : State :=
  (queueOf [castOp f0]).setCore 1 { Core.reset with b := { fresh with queue := [castOp f1], seq := 9 } }

theorem test_pond_broadcast_agrees :
    after (fun t => ((t.ctx kB).queue.map (·.agreed), (t.ctx ⟨1, .B⟩).queue.map (·.agreed))) (exec (.pondBroadcastBegin 0 .B) (pond 0 0))
      = some ([true], [true]) := by decide +kernel
theorem test_pond_broadcast_differs :
    after (fun t => ((t.ctx kB).hold, (t.ctx ⟨1, .B⟩).hold, lastRec t)) (exec (.pondBroadcastBegin 0 .B) (pond 0 1))
      = some (.faulting 0, .faulting 0, 1, 4) := by decide +kernel

/-- Core 0 as given, event ev on its way to every core and enabled there. -/
def eventAt (x : Core) (ev : Nat) : State :=
  let s := (base.setCore 0 x).setReg (.coreFEvent 0) (BitVec.ofNat 64 (2 ^ ev))
  { s with time := { s.time with out := [(ev, [])] } }
def running : Core := { Core.reset with f := fresh, b := fresh, active := .F }
def asleep : Core := { running with f := { fresh with state := .evwait }, active := .B }

theorem test_line_event_queues :
    after (fun t => (t.core 0).events) (exec (.lineEventDelivery 0 16) (eventAt running 16)) = some [16] := by decide +kernel
theorem test_line_event_overrun :
    after (fun t => ((t.core 0).events.length, t.regBit (.coreFPend 0) 8))
      (exec (.lineEventDelivery 0 0) (eventAt { running with events := [1, 2, 3, 4] } 0)) = some (4, true) := by decide +kernel
theorem test_line_event_switches_in :
    after (fun t => ((t.core 0).f.state, (t.core 0).switch, (t.core 0).active)) (exec (.lineEventDelivery 0 1) (eventAt asleep 1))
      = some (.running, .stopping, .F) := by decide +kernel
theorem test_boundary_reached :
    after (fun t => ((t.core 0).switch, (t.core 0).stopped.length))
      (exec (.interruptBoundaryReached kB .move) (base.setCore 0 { running with switch := .stopping, stopped := [.weight, .feed] }))
      = some (.saving, 3) := by decide +kernel
theorem test_save_complete :
    after (fun t => ((t.core 0).b.state, (t.core 0).saved, (t.core 0).f.s 5))
      (exec (.saveComplete 0) (base.setCore 0 { running with switch := .saving, fEvent := some 3, fDst := 5 })) = some (.frozen, true, 3) := by
  decide +kernel
theorem test_restore_complete :
    after (fun t => ((t.core 0).b.state, (t.core 0).saved))
      (exec (.restoreComplete 0)
        (base.setCore 0 { running with switch := .restoring, active := .B, saved := true, b := { fresh with state := .frozen } }))
      = some (.running, false) := by decide +kernel
theorem test_enters_faulted :
    after (fun t => ((t.ctx kB).state, (t.ctx kB).pc)) (exec (.contextEntersFaulted kB) (runs kB 0 { fresh with hold := .faulting 7, pc := 9 }))
      = some (.faulted, 7) := by decide +kernel
theorem test_context_enable :
    after (fun t => ((t.ctx kB).state, (t.ctx kB).pc))
      (exec (.contextEnable .W kB) ((base.setReg (.ctxEntry 0 .B) 0x1FFF).setCore 0 { Core.reset with b := { Context.reset with fresh := false } }))
      = some (.running, 8191) := by decide +kernel
theorem test_context_halt :
    after (fun t => ((t.ctx kB).state, (t.ctx kB).queue.length)) (exec (.contextHalt .W kB) (queueOf [wrOp])) = some (.disabled, 0) := by decide +kernel

/-! ### Witnesses of the statements on cores -/
theorem test_resets_disable :
    after (fun t => ((t.ctx kF).state, t.ready (.field 0))) (exec (.fReset .W 0) (runs kF 0 fresh)) = some (.disabled, true) ∧
    after (fun t => (t.ctx kZ).state) (exec (.bReset .E 767) (runs kZ 0 fresh)) = some .disabled := by decide +kernel


theorem witness_RowGroupsAndCompletion :
    (((queueOf [begun]).ctx kB).running .move = some begun ∧ begun.broadcast = none ∧ groupReady (queueOf [begun]) kB begun = true ∧
      (groupFault (queueOf [begun]) kB begun).2.isNone = true ∧
      ((queueOf [begun]).core 0).badParity = [] ∧ readAll 0 (groupReads begun 0 1) (queueOf [begun]) = (queueOf [begun], none)) ∧
    (((queueOf [ending]).ctx kB).running .move = some ending ∧ pipesFinish (queueOf [ending]) kB = true ∧ ending.inGroup = true) ∧
    (pipesFinish (queueOf [past]) kB = true ∧ ((queueOf [past]).ctx kB).ranOut .move = some past ∧ clearsFree ((queueOf [past]).ctx kB) past = true) ∧
    (let o := { oneOp (.drain true true (.store 0 192)) 48 0 with started := true, row := 48 }
     ((queueOf [o]).ctx kB).ranOut .move = some o ∧ o.superseded = false) := by
  refine ⟨⟨by decide +kernel, rfl, by decide +kernel, rfl, by decide +kernel, rfl⟩, by decide +kernel, by decide +kernel, by decide +kernel⟩

theorem witness_TileOperationsBegin :
    (pipesGo (queueOf [wrOp]) kB = true ∧ ((queueOf [wrOp]).ctx kB).nextOp .move = some wrOp ∧
      mayBegin 0 ((queueOf [wrOp]).ctx kB) .move wrOp = true ∧ tstartBad ((queueOf [wrOp]).ctx kB) wrOp = false) ∧
    (let o := oneOp (.prod { oneProduct with form := 0, tile := 2 }) 48 0x13030
     ((queueOf [o]).ctx kB).nextOp .feed = some o ∧ mayBegin 0 ((queueOf [o]).ctx kB) .feed o = true) ∧
    (let o := oneOp (.prod { oneProduct with form := 0, mode := 2, mask := 1, tile := 2 }) 48 0x13030
     ((queueOf [o]).ctx kB).nextOp .feed = some o ∧ mayBegin 0 ((queueOf [o]).ctx kB) .feed o = true) ∧
    (let o := oneOp (.twl 2 false) 48 0x13030
     ((queueOf [o]).ctx kB).nextOp .weight = some o ∧ mayBegin 0 ((queueOf [o]).ctx kB) .weight o = true ∧
      sameWeights (((queueOf [o]).ctx kB).promote o) o 2 false = false ∧
      sameWeights { fresh with latch := some ⟨0, 2, false, 0x13030, 0, .reset, [], [], [], []⟩ } o 2 false = true) ∧
    (((List.range 4).findSome? fun m => readyBroadcast (pond 0 0) .B (pondCore 0 m)).map (·.map (·.1)) = some [⟨0, .B⟩, ⟨1, .B⟩] ∧
      (groupFaults [(kB, castOp 0)] (pond 0 0)).2.isNone = true ∧ (pond 0 0).faults.batch = none) ∧
    (broadcastKey (castOp 0) { oneProduct with form := 0, mode := 2, mask := 3, tile := 2 } ≠
      broadcastKey (castOp 1) { oneProduct with form := 1, mode := 2, mask := 3, tile := 2 }) := by
  decide +kernel

theorem witness_ContextSwitch :
    (let s := base.setCore 767 { running with switch := .stopping, stopped := [.weight, .feed] }
     s.working = true ∧ (s.core 767).switch = .stopping ∧ (s.core 767).b.hold ≠ .ending ∧ (s.core 767).stopped.contains .move = false ∧
      (s.core 767).b.running .move = none) ∧
    (let x := { running with switch := .saving, fEvent := some 3, fDst := 5 }
     x.switch = .saving ∧ x.b.state = .running ∧ x.b.hold = .none ∧ x.f.state = .running ∧ saveParity x = false) ∧
    (let s := base.setCore 0 { running with switch := .restoring, active := .B, saved := true, b := { fresh with state := .frozen } }
     (s.core 0).switch = .restoring ∧ (restoreB s 0).1 = true) ∧
    (let x := { running with switch := .saving, b := { fresh with hold := .faulting 7 } }
     x.b.state = .running ∧ x.b.hold = .faulting 7 ∧ x.f.state = .running ∧ saveParity x = false) := by decide +kernel

theorem witness_FaultedContextsAndLineEvents :
    (let s := runs kZ 0 { fresh with hold := .faulting 7 }
     s.live = true ∧ (s.ctx kZ).hold = .faulting 7 ∧ (s.ctx kZ).state = .running ∧ (s.ctx kZ).queue = [] ∧ (s.core 767).active = .B ∧
      (s.core 767).switch = .idle) ∧
    ((eventAt running 16).working = true ∧ onItsWay (eventAt running 16) 0 16 = true ∧ (eventAt running 16).regBit (.coreFEvent 0) 16 = true) ∧
    (({ running with events := [1, 2, 3] } : Core).events.length < 4 ∧ 4 ≤ ({ running with events := [1, 2, 3, 4] } : Core).events.length) ∧
    (asleep.f.state = .evwait ∧ onItsWay (eventAt asleep 0) 0 0 = true) ∧
    (let s := (eventAt running 16).setReg (.coreFEvent 0) 0
     onItsWay s 0 16 = true ∧ s.regBit (.coreFEvent 0) 16 = false) := by decide +kernel

theorem witness_ContextControl :
    (clusterRuns base .E = true ∧ kZ.core < 768 ∧ fieldTesting base (coreField 767) = false ∧ base.faults.inFrost = false ∧
      (base.ctx kZ).state = .disabled ∧ (base.ctx kZ).hold = .none) ∧
    (clusterRuns frozen .W = true ∧ frozen.faults.inFrost = true ∧ (frozen.ctx kB).state = .disabled) ∧
    (clusterRuns (queueOf [wrOp]) .W = true ∧ ((queueOf [wrOp]).ctx kB).state ≠ .disabled) := by decide +kernel

/-! ### Counters, waits, releases -/

def withReleases (n : Nat) : Context := { two 0x28002AAF 0 with releases := (List.range n).map fun i => ⟨i, 0, .phEnd i⟩, seq := 4 }

theorem test_sc_inc_is_held :
    after (fun t => (t.ctx kB).releases.map (·.op)) (exec (.scInc kB 0x200F02F) (runs kB (encR 0x60 0 0 0 0 0 0x200F02F) fresh))
      = some [.scInc 47 0x200F] := by decide +kernel
/-- Counter 48 is no core counter: OPERAND. -/
theorem test_sc_inc_48 : after lastRec (exec (.scInc kB 48) (runs kB (encR 0x60 0 0 0 0 0 48) fresh)) = some (2, 5) := by decide +kernel
/-- R148: four releases are held; a fifth does not issue. -/
theorem test_fifth_release_waits :
    after (fun t => ((t.ctx kB).releases.length, (t.ctx kB).pc)) (exec (.phEnd kB 1) (runs kB (encR 0x71 0 0 0 0 0 1) (withReleases 4)))
      = some (4, 0) := by decide +kernel
theorem test_sc_inc_r :
    after (fun t => (t.ctx kB).releases.map (·.op)) (exec (.scIncR kB 1 0x1000) (runs kB (encR 0x61 0 0 1 0 0 0x1000) (two (5 * 2 ^ 43 + 767 * 2 ^ 6 + 47) 0)))
      = some [.scIncR 5 767 47 1] := by decide +kernel
theorem test_sc_inc_r_bad_target :
    after lastRec (exec (.scIncR kB 1 0x1000) (runs kB (encR 0x61 0 0 1 0 0 0x1000) (two (768 * 2 ^ 6) 0))) = some (2, 5) := by decide +kernel
theorem test_rg_post :
    after (fun t => (t.ctx kB).releases.map (·.op)) (exec (.rgPost kB 1 8191) (runs kB (encR 0x64 0 0 1 0 0 8191) (two 0x10003 0)))
      = some [.rgPost 8191 3] := by decide +kernel
theorem test_ph_bgn :
    after (fun t => (t.ctx kB).phase.map (·.id)) (exec (.phBgn kB 0xFFFF) (runs kB (encR 0x70 0 0 0 0 0 0xFFFF) fresh)) = some (some 0xFFFF) := by
  decide +kernel

/-- Counter 3 of core 0 at v. -/
def counterAt (v : BitVec 32) (p : Bool) (w : Word) (c : Context) : State := (runs kB w c).setCounter 0 3 ⟨v, p⟩

/-- R205: 1 has reached 2^32 - 1 by the modulo comparison; 0 of 2^31 has not. -/
theorem test_sc_wait_wraps :
    after (fun t => ((t.ctx kB).s 4, (t.ctx kB).pc)) (exec (.scWait kB false 4 1 2 3) (counterAt 1 false (encR 0x62 0 4 1 2 0 3) (two 0xFFFFFFFF 5)))
      = some (0, 1) := by decide +kernel
theorem test_sc_wait_poisoned :
    after (fun t => ((t.ctx kB).s 4, t.regBit .syncStatus 1)) (exec (.scWait kB false 4 1 2 3) (counterAt 1 true (encR 0x62 0 4 1 2 0 3) (two 2 5)))
      = some (2, true) := by decide +kernel
theorem test_sc_rd :
    after (fun t => (t.ctx kB).s 4) (exec (.scRd kB false 4 3) (counterAt 0x80000001 false (encR 0x63 0 4 0 0 0 3) fresh)) = some 0x80000001 := by
  decide +kernel
/-- R208: a release of an increment of the own core is due in the next cycle. -/
def releasing (op : ReleaseOp) (q : List TileOp) : State := runs kB 0 { fresh with releases := [⟨5, 0, op⟩], queue := q }
theorem test_release :
    after (fun t => (t.grid.due.map fun m => (m.core, m.n, m.amount), t.incs, (t.ctx kB).releases.length))
      (exec (.releaseTakesEffect kB) (releasing (.scInc 47 3) [])) = some ([(0, 47, 3)], [], 0) := by decide +kernel
/-- An earlier tile instruction keeps it back. -/
theorem test_release_waits :
    after (fun t => (t.grid.due.length, (t.ctx kB).releases.length)) (exec (.releaseTakesEffect kB) (releasing (.scInc 47 3) [wrOp])) = some (0, 1) := by
  decide +kernel
theorem test_increment_lands :
    after (fun t => (t.counter 767 47, t.incs))
      (exec (.incrementLands [0]) { (base.setCounter 767 47 ⟨0xFFFFFFFF, false⟩) with incs := [⟨767, 47, 2, ⟨5, 0, .B, 0, 0⟩⟩] })
      = some (⟨1, false⟩, []) := by decide +kernel
/-- R209 and R211: two increments that met reach the counter as one, and are discarded as one where it is poisoned. -/
def metIncs (p : Bool) : State :=
  { (base.setCounter 9 4 ⟨10, p⟩) with incs := [⟨9, 4, 2, ⟨5, 0, .B, 9, 0⟩⟩, ⟨9, 4, 3, ⟨5, 2, .B, 0, 0⟩⟩] }
theorem test_increments_meet :
    after (fun t => ((t.counter 9 4).value, t.incs.length)) (exec (.incrementLands [0, 1]) (metIncs false)) = some (15, 0) ∧
    after (fun t => ((t.counter 9 4).value, t.incs.length, t.regBit .syncStatus 2, lastRec t)) (exec (.incrementLands [0, 1]) (metIncs true))
      = some (10, 0, true, 7, 3) := by decide +kernel
/-- A wait of 5 ns on counter 3 with target 2, begun at 0. -/
def aWait : ScWait := ⟨false, 3, 2, 5, 0, 4, 0, false⟩
def later (ns : Nat) (s : State) : State := { s with time := { s.time with elapsed := ns } }
theorem test_wait_timeout :
    after (fun t => ((t.ctx kB).s 4, (t.ctx kB).hold, t.regBit .syncStatus 0))
      (exec (.waitTimeoutExpiry (.ctx kB)) (later 5 (runs kB 0 { fresh with hold := .scWait aWait }))) = some (1, .none, true) := by decide +kernel
theorem test_wait_not_yet :
    after (fun t => (t.ctx kB).hold) (exec (.waitTimeoutExpiry (.ctx kB)) (later 4 (runs kB 0 { fresh with hold := .scWait aWait })))
      = some (.scWait aWait) := by decide +kernel
theorem test_sync_inc :
    after (fun t => t.incs.map fun m => (m.core, m.n, m.amount)) (exec (.syncInc .W 767 0x2F00000007) base) = some [(767, 47, 7)] := by decide +kernel
theorem test_sync_inc_48 : after (fun t => (t.incs.length, t.regBit .syncStatus 4)) (exec (.syncInc .E 0 0x3000000007) base) = some (0, true) := by
  decide +kernel
theorem test_sync_clr :
    after (fun t => (t.counter 0 3, t.regBit .syncStatus 4)) (exec (.syncClr .W 0 8) (base.setCounter 0 3 ⟨7, true⟩)) = some (⟨0, false⟩, false) := by
  decide +kernel
/-- Counter 8 is B's, which runs: the bit is ignored. -/
theorem test_sync_clr_running :
    after (fun t => (t.counter 0 8, t.regBit .syncStatus 4)) (exec (.syncClr .W 0 0x100) ((queueOf []).setCounter 0 8 ⟨7, true⟩)) = some (⟨7, true⟩, true) := by
  decide +kernel

/-! ### The fabric -/

/-- An entry of a slot table (R197). -/
def entryOf (plane cycle out a b c op stream beat loc tag : Nat) : BitVec 64 :=
  BitVec.ofNat 64 (plane * 2 ^ 63 + cycle * 2 ^ 53 + out * 2 ^ 50 + a * 2 ^ 47 + b * 2 ^ 44 + op * 2 ^ 42 + stream * 2 ^ 37 + beat * 2 ^ 31
    + loc * 2 ^ 30 + c * 2 ^ 27 + tag)

/-- A stream descriptor (R183) of role, kinds and bases, one beat, one buffer, no counters named. -/
def streamOf (role src tgt srcBase tgtBase : Nat) : BitVec 256 :=
  BitVec.ofNat 256 (role + src * 2 ^ 8 + tgt * 2 ^ 16 + 1 * 2 ^ 24 + 63 * 2 ^ 40 + 63 * 2 ^ 48 + 63 * 2 ^ 56 + 63 * 2 ^ 64
    + srcBase * 2 ^ 160 + tgtBase * 2 ^ 192 + 1 * 2 ^ 224 + 1 * 2 ^ 240)

/-- Router 33, in row 1, its bulk part ACTIVE with one entry, its stream 31 as given, at cycle 5 of a round of 64. -/
def fabric (e : BitVec 64) (d : BitVec 256) (ep : Endpoint) : State :=
  { base with
    grid := { base.grid with running := true, len := 64, cycle := 5, now := 100 }
    routers := [(33, { Router.reset with b := ⟨.active, 0, [e], [(31, d)]⟩, streams := [(31, ep)] })] }

/-- An AND entry to the decider of one input from port 0, and a GO entry that passes a decided go out of port 1. -/
def andEntry : BitVec 64 := entryOf 1 5 6 0 7 7 0 31 0 0 0
def goEntry : BitVec 64 := entryOf 1 5 1 6 7 7 1 31 0 0 0
/-- A vote that reaches router 33 at its port 0 now. -/
def voted (bit : Bool) (s : State) : State :=
  { s with grid := { s.grid with votes := [⟨33, 0, s.grid.now - linkDelay 33 0, false, bit⟩] } }
def target : BitVec 256 := streamOf 2 0 4 0 0x800
def source : BitVec 256 := streamOf 1 4 0 0x400 0

theorem test_round_start :
    after (fun t => (t.grid.round, t.grid.cycle)) (exec .roundStart { (fabric 0 source Endpoint.reset) with
      grid := { (fabric 0 source Endpoint.reset).grid with cycle := 63, fired := [(33, 0)] } }) = some (1, 0) := by decide +kernel
theorem test_and_entry :
    after (fun t => ((t.router 33).ep 31).decided) (exec (.voteAndEntry 33 0 0) (voted true (fabric andEntry target Endpoint.reset))) = some (some true) ∧
    after (fun t => ((t.router 33).ep 31).decided) (exec (.voteAndEntry 33 0 0) (voted false (fabric andEntry target Endpoint.reset)))
      = some (some false) := by decide +kernel
/-- R187: an input with bad parity reads 0. -/
theorem test_and_entry_parity :
    after (fun t => ((t.router 33).ep 31).decided) (exec (.voteAndEntry 33 0 1) (voted true (fabric andEntry target Endpoint.reset))) = some (some false) := by
  decide +kernel
theorem test_go_entry :
    after (fun t => (((t.router 33).ep 31).go, t.grid.votes.map fun m => (m.router, m.port, m.go, m.bit)))
      (exec (.voteGoEntry 33 0 false) (fabric goEntry target { Endpoint.reset with decided := some true })) = some (true, [(34, 3, true, true)]) := by
  decide +kernel
/-- A beat from the core store leaves for router 34 with the entry's tag. -/
theorem test_data_source :
    after (fun t => t.grid.beats.map fun m => (m.router, m.port, m.beat.tag, m.beat.data.toNat % 65536))
      (exec (.dataSlotEntry 33 ⟨0, .clean⟩)
        { (fabric (entryOf 0 5 1 4 7 7 0 31 0 0 0xBEEF) source { Endpoint.reset with sending := true, committed := 1 }) with
          mem := Memory.writeN [] (storeAddr 33 0x400) [0x34, 0x12] }) = some [(34, 3, 0xBEEF, 0x1234)] := by decide +kernel
/-- The beat that comes in at port 0 of router 33 now. -/
def arriving (tag : BitVec 16) (e : BitVec 64) : State :=
  let s := fabric e target Endpoint.reset
  { s with grid := { s.grid with beats := [⟨33, 0, s.grid.now - inputDelay 33 e 0, ⟨true, tag, 0x1234, 0, false, false⟩, false⟩] } }
theorem test_data_target :
    after (fun t => t.grid.writes.map fun w => (w.router, w.stream, w.place, w.due, w.beat.data)) (exec (.dataSlotEntry 33 ⟨0, .clean⟩)
      (arriving 7 (entryOf 0 5 4 0 7 7 0 31 0 0 7))) = some [(33, 31, 0, 102, 0x1234)] := by decide +kernel
/-- R201: a beat whose bits cannot be corrected travels on marked. -/
theorem test_data_uncorrectable :
    after (fun t => t.grid.beats.map fun m => (m.port, m.beat.uncorr, m.beat.corr)) (exec (.dataSlotEntry 33 ⟨0, .uncorrectable⟩)
      (fabric (entryOf 0 5 1 4 7 7 0 31 0 0 7) source { Endpoint.reset with sending := true, committed := 1 })) = some [(3, true, false)] := by
  decide +kernel
theorem test_grid_ctl :
    after (fun t => t.regFld .gridCtl 0 11) (exec (.gridCtl .W 1024) base) = some 1024 ∧
    after (fun t => (t.regBit .gridStatus 0)) (exec (.gridCtl .W 63) base) = some true := by decide +kernel
theorem test_grid_start : after (fun t => (t.regFld .gridStart 0 48, t.grid.startPending)) (exec (.gridStart .W 9) base) = some (9, true) := by
  decide +kernel
theorem test_b_stop : after (fun t => (t.router 33).b.state) (exec (.bStop .W 33) (fabric andEntry target Endpoint.reset)) = some .stopping := by
  decide +kernel
theorem test_f_stop_loaded :
    after (fun t => (t.router 0).f.state) (exec (.fStop .W 0) { base with routers := [(0, { Router.reset with f := ⟨.loaded, 0, [1], []⟩ })] })
      = some .empty := by decide +kernel

/-! ### Witnesses of the statements on counters, releases and the fabric -/

theorem witness_ReleasesAreHeld :
    (issues (runs kB (encR 0x60 0 0 0 0 0 0x200F02F) (withReleases 3)) kB (encR 0x60 0 0 0 0 0 0x200F02F) ∧
      illegalCause kB (encR 0x60 0 0 0 0 0 0x200F02F) = none ∧ (withReleases 3).releases.length < 4 ∧ 4 ≤ (withReleases 4).releases.length) ∧
    (issues (runs kB (encR 0x61 0 0 1 0 0 0xFFFF000) (two (5 * 2 ^ 43 + 767 * 2 ^ 6 + 47) 0)) kB (encR 0x61 0 0 1 0 0 0xFFFF000) ∧
      illegalCause kB (encR 0x61 0 0 1 0 0 0xFFFF000) = none ∧
      incTarget ((two (5 * 2 ^ 43 + 767 * 2 ^ 6 + 47) 0).s 1) = some (5, 767, 47) ∧ incTarget ((two (768 * 2 ^ 6) 0).s 1) = none) ∧
    (illegalCause kB (encR 0x64 0 0 1 0 0 8191) = none ∧ illegalCause kB (encR 0x71 0 0 0 0 0 0xFFFF) = none) ∧
    (issues (runs kB (encR 0x70 0 0 0 0 0 0xFFFF) fresh) kB (encR 0x70 0 0 0 0 0 0xFFFF) ∧ (0xFFFF : BitVec 28).toNat < 2 ^ 16) := by
  refine ⟨⟨witness_issues _ _ _ (by decide) rfl rfl, by decide +kernel⟩, ⟨witness_issues _ _ _ (by decide) rfl rfl, by decide +kernel⟩,
    by decide +kernel, ⟨witness_issues _ _ _ (by decide) rfl rfl, by decide⟩⟩

theorem witness_ReleaseTakesEffect :
    (let s := releasing (.scInc 47 3) []
     s.working = true ∧ (s.ctx kB).releases = [⟨5, 0, .scInc 47 3⟩] ∧ (s.ctx kB).queue = []) ∧
    (let s := releasing (.scIncR 5 767 47 3) []
     (s.ctx kB).releases = [⟨5, 0, .scIncR s.dev 767 47 3⟩]) ∧
    (let s := { releasing (.scInc 47 3) [] with incs := [⟨0, 2, 1, ⟨5, 0, .B, 0, 9⟩⟩] }
     s.incs.any (sameSource ⟨0, 47, 3, ⟨s.dev, 0, .B, 0, 0⟩⟩) = true ∧
      (releasing (.scInc 47 3) []).incs.any (sameSource ⟨0, 47, 3, ⟨s.dev, 0, .B, 0, 0⟩⟩) = false) ∧
    (let s := releasing (.rgPost 8191 16) []
     ((s.ring 8191).pi - (s.ring 8191).counter).toNat + 16 ≤ ringSize s 8191) ∧
    (let s := (releasing (.phEnd 7) [{ wrOp with seq := 6 }]).setReg .timePlogBase 1
     (∀ o ∈ (s.ctx kB).queue, 5 < o.seq) ∧ s.regBit .timePlogBase 0 = true ∧ (s.ctx kB).plog.length < 2) := by decide +kernel

theorem witness_WaitsAndIncrements :
    (issues (counterAt 1 false (encR 0x62 0 4 1 2 0 3) (two 2 5)) kB (encR 0x62 0 4 1 2 0 3)) ∧
    (let o : SyncObj := counterNamed base 0 false 3
     illegalCause kB (encR 0x62 0 4 1 2 0 3) = none ∧ illegalCause kB (encR 0x62 1 4 1 2 0 8191) = none ∧
      (o.value (counterAt 0x80000000 false 0 fresh) - 1).toNat < 2 ^ 31 ∧ 2 ^ 31 ≤ (o.value (counterAt 1 false 0 fresh) - 2).toNat ∧
      o.poisoned (counterAt 1 true 0 fresh) = true ∧ o.poisoned (counterAt 1 false 0 fresh) = false ∧ ((two 2 0).s 2).toNat % 2 ^ 48 = 0 ∧
      ((two 2 5).s 2).toNat % 2 ^ 48 ≠ 0) ∧
    (issues (counterAt 1 false (encR 0x63 1 4 0 0 0 8191) fresh) kB (encR 0x63 1 4 0 0 0 8191)) ∧
    (let m : IncMsg := ⟨767, 47, 2, ⟨5, 0, .B, 0, 0⟩⟩
     let s := { base with incs := [⟨767, 47, 2, ⟨5, 0, .B, 1, 0⟩⟩, m] }
     s.live = true ∧ s.incs[1]? = some m ∧ mayLand s m [1] = true ∧ (∀ e ∈ s.incs.take 1, passesFirst e m = false) ∧
      (∀ e ∈ s.grid.due, sameSource e m = false) ∧ s.counter 767 47 = ⟨0, false⟩ ∧
      (s.setCounter 767 47 ⟨9, true⟩).counter 767 47 = ⟨9, true⟩) ∧
    (mayLand (metIncs true) ⟨9, 4, 2, ⟨5, 0, .B, 9, 0⟩⟩ [0, 1] = true ∧ (metIncs true).incs[0]? = some ⟨9, 4, 2, ⟨5, 0, .B, 9, 0⟩⟩) ∧
    (let s := later 5 (runs kB 0 { fresh with hold := .scWait aWait })
     s.working = true ∧ (s.ctx kB).hold = .scWait aWait ∧ timedOut s aWait = true ∧ s.faults.batch = none ∧
      2 ^ 31 ≤ ((waitObj s 0 aWait).value s - aWait.target).toNat ∧
      ((waitObj s 0 aWait).value (s.setCounter 0 3 ⟨2, false⟩) - aWait.target).toNat < 2 ^ 31) ∧
    (let s := (later 5 base).setRing 8191 { Ring.reset with state := .running, head := some ⟨5, some (aWait, 12)⟩ }
     s.working = true ∧ (s.ring 8191).state = .running ∧ (s.ring 8191).head = some ⟨5, some (aWait, 12)⟩ ∧ timedOut s aWait = true ∧
      2 ^ 31 ≤ ((ringWaitObj s aWait).value s - aWait.target).toNat) ∧
    (let s := (later 5 base).setRing 8191 { Ring.reset with state := .running, enable := true, head := some ⟨5, some ({ aWait with target := 0 }, 12)⟩ }
     ringStarts s 8191 = true ∧ ((ringWaitObj s { aWait with target := 0 }).value s - 0).toNat < 2 ^ 31) := by
  refine ⟨⟨by decide +kernel, rfl, by decide +kernel⟩, by decide +kernel, ⟨by decide +kernel, rfl, by decide +kernel⟩, ?_⟩
  decide +kernel

theorem witness_RoundsAndVotes :
    (let s : State := { base with grid := { base.grid with running := true, len := 64, cycle := 63 } }
     s.live = true ∧ s.grid.running = true ∧ s.grid.len ≤ s.grid.cycle + 1 ∧ s.routers = []) ∧
    (let s := voted true (fabric andEntry target Endpoint.reset)
     (dueEntry s 33 0).map (·.2) = some andEntry ∧ ePlane andEntry = 1 ∧ eOp andEntry = 0 ∧ eOut andEntry = 6) ∧
    (let e := entryOf 1 5 1 0 7 7 0 31 0 1 0
     (dueEntry (fabric e target Endpoint.reset) 33 0).map (·.2) = some e ∧ eOut e ≠ 6 ∧ eLocal e = true ∧ neighbour 33 (eOut e) = some 34) ∧
    (let s := fabric goEntry target { Endpoint.reset with decided := some true }
     (dueEntry s 33 0).map (·.2) = some goEntry ∧ eOp goEntry = 1 ∧ eInA goEntry = 6 ∧ ((s.router 33).desc 31).isSome = true ∧
      Stored.slotTable 33 ∉ s.broken ∧ resetHalts s ((s.router 33).ep 31) = false ∧ votesOff s (s.router 33).b = false ∧ eOut goEntry < 4 ∧ neighbour 33 (eOut goEntry) = some 34) := by decide +kernel

/-- The last cycle of a round, no entry left: a router whose parts are ACTIVE, with a go of the round before. -/
def roundEnd : State :=
  { base with
    grid := { base.grid with running := true, len := 64, cycle := 63 }
    routers := [(33, { Router.reset with f := ⟨.active, 0, [], []⟩, b := ⟨.active, 0, [], []⟩, streams := [(31, { Endpoint.reset with go := true })] })] }

theorem roundEnd_none_due (r n : Nat) : dueEntry roundEnd r n = none := by
  have h : (roundEnd.router r).f.entries = [] ∧ (roundEnd.router r).b.entries = [] := by
    unfold State.router SMap.getD
    simp only [roundEnd, SMap.get?]
    split <;> exact ⟨rfl, rfl⟩
  simp [dueEntry, Router.entry, h.1, h.2]

theorem witness_RoundsAndVotes_round :
    (∀ r n, dueEntry roundEnd r n = none) ∧ (∀ p ∈ roundEnd.routers, ∀ q ∈ p.2.streams, q.2.haltDue = false) ∧
    (∀ p ∈ roundEnd.rings, ∀ j ∈ p.2.jobs, dKind j.desc ≠ 9) ∧
    roundEnd.live = true ∧ roundEnd.grid.running = true ∧ roundEnd.grid.len ≤ roundEnd.grid.cycle + 1 ∧
    ∃ x e, SMap.get? roundEnd.routers 33 = some x ∧ x.f.state = .active ∧ x.b.state = .active ∧ SMap.get? x.streams 31 = some e ∧ e.go = true :=
  ⟨roundEnd_none_due, by decide +kernel, by decide +kernel, by decide +kernel, rfl, by decide, _, _, rfl, rfl, rfl, rfl, rfl⟩

theorem witness_DataEntries :
    (let e := entryOf 0 5 1 4 7 7 0 31 0 0 0xBEEF
     let s := fabric e source { Endpoint.reset with sending := true, committed := 1 }
     (dueEntry s 33 0).map (·.2) = some e ∧ ePlane e = 0 ∧ eOp e = 0 ∧ blocks ((s.router 33).ep 31) = false ∧ (s.router 33).desc 31 = some source ∧
      eInA e = 4 ∧ sdSource source = true ∧ sdSrcKind source = 4 ∧ eOut e ≠ 4 ∧ edgePort 33 (eOut e) = false ∧
      neighbour 33 (eOut e) = some 34 ∧ Stored.slotTable 33 ∉ s.broken ∧ s.grid.reads = [] ∧
      (storeRead s 33 0x400 384).1.isSome = true) ∧
    (let e := entryOf 0 5 1 4 7 7 0 31 0 0 0xBEEF
     let y : BeatRead := ⟨33, 31, 0, 100, [], true⟩
     let s := fabric e source { Endpoint.reset with sending := true, committed := 1 }
     let t := { s with grid := { s.grid with reads := [y] } }
     (t.grid.reads.find? fun x => x.router = 33 && x.stream = eStream e && x.beat = eBeat e && x.due = t.grid.now) = some y ∧ y.good = true) ∧
    (let e := entryOf 0 5 4 0 7 7 0 31 0 0 7
     let s := arriving 7 e
     (dueEntry s 33 0).map (·.2) = some e ∧ eInA e < 4 ∧ edgePort 33 (eInA e) = false ∧ eOut e = 4 ∧ sdTarget target = true ∧
      sdTgtKind target = 4 ∧ blocks ((s.router 33).ep 31) = false ∧ Stored.slotTable 33 ∉ s.broken ∧
      (s.grid.beats.find? fun y => y.router = 33 && y.port = eInA e && y.launched + inputDelay 33 e (eInA e) = s.grid.now).isSome = true) := by
  decide +kernel

/-- Counter 8 of core 0 is cleared in the cycle in which an increment landed there. -/
def clearing : State := { base with grid := { base.grid with landed := [⟨0, 8, 1, ⟨5, 2, .B, 0, 0⟩⟩] } }

theorem test_clear_discards :
    after (fun t => (t.counter 0 8, t.regBit .syncStatus 2, lastRec t)) (exec (.syncClr .W 0 0x100) clearing) = some (⟨0, false⟩, true, 7, 3) := by
  decide +kernel

theorem witness_SyncRegisters :
    clusterRuns base .E = true ∧ (0x2F00000007 : Word) &&& Reg.reserved (.syncInc 767) = 0 ∧ Word.fld 0x2F00000007 32 6 ≤ 47 ∧
    47 < Word.fld 0x3000000007 32 6 ∧ (0x3000000007 : Word) &&& Reg.reserved (.syncInc 0) = 0 ∧ (0xFFFFFFFFFFFF : Word) &&& Reg.reserved (.syncClr 0) = 0 ∧
    clearable base 0 47 = true ∧ clearable (queueOf []) 0 8 = false ∧ (∀ w, (base.ctx kB).hold ≠ .scWait w) ∧
    (∃ m ∈ clearing.grid.landed, m.core = 0 ∧ m.n < 48 ∧ Word.bit 0x100 m.n = true ∧ clearable clearing 0 m.n = true) := by
  have h : clusterRuns base .E = true ∧ (0x2F00000007 : Word) &&& Reg.reserved (.syncInc 767) = 0 ∧ Word.fld 0x2F00000007 32 6 ≤ 47 ∧
      47 < Word.fld 0x3000000007 32 6 ∧ (0x3000000007 : Word) &&& Reg.reserved (.syncInc 0) = 0 ∧ (0xFFFFFFFFFFFF : Word) &&& Reg.reserved (.syncClr 0) = 0 ∧
      clearable base 0 47 = true ∧ clearable (queueOf []) 0 8 = false ∧ clearable clearing 0 8 = true := by decide +kernel
  exact ⟨h.1, h.2.1, h.2.2.1, h.2.2.2.1, h.2.2.2.2.1, h.2.2.2.2.2.1, h.2.2.2.2.2.2.1, h.2.2.2.2.2.2.2.1, fun w hw => Hold.noConfusion hw,
    ⟨_, List.mem_cons_self, rfl, by decide, by decide, h.2.2.2.2.2.2.2.2⟩⟩

theorem witness_FabricRegisters :
    ((9 : Word) &&& Reg.reserved .gridStart = 0 ∧ frozen.faults.inFrost = true ∧ clusterRuns frozen .W = true) ∧
    ((1024 : Word) &&& Reg.reserved .gridCtl = 0 ∧ Word.fld 1024 0 11 ≤ 1024 ∧ 64 ≤ Word.fld 64 0 11) ∧
    (Word.fld 63 0 11 < 64 ∧ 1024 < Word.fld 1025 0 11) ∧ (∀ x ∈ base.routers, x.2.f.state = .empty ∧ x.2.b.state = .empty) ∧
    ((fabric andEntry target Endpoint.reset).routers.any fun x => decide (x.2.b.state ≠ .empty)) = true ∧
    (((fabric andEntry target Endpoint.reset).router 33).part .B).state = .active ∧
    (({ base with routers := [(0, { Router.reset with f := ⟨.loaded, 0, [1], []⟩ })] } : State).router 0).f.state = .loaded := by decide +kernel

/-! ### Edge rings -/

/-- A descriptor (R226): kind, SFMT and TFMT, UNIT, SRC, DST, ROWS, ELEMS, SSTRIDE, DSTRIDE, SEED, INDEX, INC. -/
def mkDesc (kind fmt unit src dst rows elems ss ds seed index inc : Nat) : BitVec 512 :=
  BitVec.ofNat 512 (kind + fmt * 2 ^ 16 + fmt * 2 ^ 24 + unit * 2 ^ 48 + src * 2 ^ 64 + dst * 2 ^ 128 + rows * 2 ^ 192 + elems * 2 ^ 224
    + ss * 2 ^ 256 + ds * 2 ^ 288 + seed * 2 ^ 320 + index * 2 ^ 384 + inc * 2 ^ 448)

/-- An increment of 1 for counter 47 of core 767 of device 5. -/
def incWord : Nat := 47 + 767 * 2 ^ 6 + 1 * 2 ^ 27 + 5 * 2 ^ 43

/-- Ring r of one entry or more, running with one descriptor posted at address 0, where a descriptor stands. -/
def ringAt (r : Nat) (d : BitVec 512) : State :=
  let s := base.setRing r { Ring.reset with state := .running, enable := true, pi := 1 }
  { s with mem := Memory.writeN [] 0 (toBytes 64 d.toNat) }

/-- An address of this device, numbered 5 (R32). -/
def here (a : Nat) : Nat := 5 * 2 ^ 43 + a

def nopDesc : BitVec 512 := mkDesc 0 0 0 0 0 0 0 0 0 0 0 incWord
def copyDesc : BitVec 512 := mkDesc 1 14 0 (here 0x1000) (here 0x2000) 2 32 32 32 0 0 incWord
def sinDesc : BitVec 512 := mkDesc 2 1 3 (here 0x1000) 0 1 192 384 384 0 0 0
def soutDesc : BitVec 512 := mkDesc 3 1 3 0 (here 0x2000) 1 192 384 384 0 0 0
def gatherDesc : BitVec 512 := mkDesc 4 14 0 (here 0x1000) (here 0x2000) 2 32 0 32 0 0 0
def scatterDesc : BitVec 512 := mkDesc 5 14 0 (here 0x1000) (here 0x2000) 2 32 32 0 0 0 0
def csldDesc : BitVec 512 := mkDesc 6 1 32 (here 0x1000) 0x100 1 16 32 32 0 0 0
def csrdDesc : BitVec 512 := mkDesc 7 1 32 0x100 (here 0x1000) 1 16 32 32 0 0 0
def ildDesc : BitVec 512 := mkDesc 8 0 32 (here 0x1000) 8191 1 0 0 0 0 0 0
def sldDesc : BitVec 512 := mkDesc 9 0 32 (here 0x1000) 1 1 64 0 0 0 0 0
def chkDesc : BitVec 512 := mkDesc 11 14 15 (here 0x1000) (here 0x2000) 1 32 32 0 0 0x40 0
def waitDesc (target timeout : Nat) : BitVec 512 := mkDesc 12 0 0 (5 + 2 * 2 ^ 6) target 0 0 0 0 timeout 0 0

/-- A SPRG descriptor (R264): OP, GFMT, OFMT, COUNT, A0 to A4, for spring n. -/
def mkSprg (n op g o count a0 a1 a2 a3 a4 : Nat) : BitVec 512 :=
  BitVec.ofNat 512 (10 + n * 2 ^ 48 + op * 2 ^ 64 + g * 2 ^ 72 + o * 2 ^ 80 + count * 2 ^ 96 + a0 * 2 ^ 128 + a1 * 2 ^ 192 + a2 * 2 ^ 256
    + a3 * 2 ^ 320 + a4 * 2 ^ 384)

/-- A SNAP of 64 bytes from stack offset 0x1000 to the lake's first bytes. -/
def snapDesc : BitVec 512 := mkSprg 0 0x11 14 14 64 0x1000 lakeBase 0 0 0

/-- The state and the jobs' stages of a ring after a command, with its HOLD code and its cause. -/
def ringSays (r : Nat) (i : Instr) (s : State) : Option (RingState × List JobStage × Option Nat × Nat) :=
  after (fun t => ((t.ring r).state, (t.ring r).jobs.map (·.stage), (t.ring r).head.map (·.code), (t.ring r).cause)) (exec i s)

theorem test_nop_descriptor : ringSays 0 (.descriptorNop 0) (ringAt 0 nopDesc) = some (.running, [.done], none, 0) := by decide +kernel
theorem test_copy_requests_its_rows :
    after (fun t => (t.reqs.map fun q => (q.addr, q.len, q.isWrite), (t.ring 0).jobs.length)) (exec (.copy 0) (ringAt 0 copyDesc))
      = some ([(0x1000, 32, false), (0x1020, 32, false)], 1) := by decide +kernel
/-- The kind decides: a COPY does not start under another kind's command. -/
theorem test_other_kind : after (fun t => (t.ring 0).jobs.length) (exec (.gather 0) (ringAt 0 copyDesc)) = some 0 := by decide +kernel
/-- R231: SIN to a stream that is not configured is cause UNIT. -/
theorem test_sin_unit : ringSays 0 (.sin 0) (ringAt 0 sinDesc) = some (.error, [], none, 6) := by decide +kernel
theorem test_sout_unit : ringSays 0 (.sout 0) (ringAt 0 soutDesc) = some (.error, [], none, 6) := by decide +kernel
theorem test_gather : ringSays 0 (.gather 0) (ringAt 0 gatherDesc) = some (.running, [.reading], none, 0) := by decide +kernel
theorem test_scatter : ringSays 0 (.scatter 0) (ringAt 0 scatterDesc) = some (.running, [.reading], none, 0) := by decide +kernel
/-- R238: core 33 is not in the column of engine 0. -/
theorem test_csld_unit :
    ringSays 0 (.csld 0) (ringAt 0 (mkDesc 6 1 33 (here 0x1000) 0x100 1 16 32 32 0 0 0)) = some (.error, [], none, 6) := by decide +kernel
theorem test_csld : ringSays 0 (.csld 0) (ringAt 0 csldDesc) = some (.running, [.reading], none, 0) := by decide +kernel
/-- R238: the beats of a CSRD cross the service path in later cycles. -/
theorem test_csrd : ringSays 0 (.csrd 0) (ringAt 0 csrdDesc) = some (.running, [.reading], none, 0) := by decide +kernel
/-- R231 cause ILOAD: the last word fits at index 8191, two do not. -/
theorem test_ild : ringSays 0 (.ild 0) (ringAt 0 ildDesc) = some (.running, [.reading], none, 0) ∧
    ringSays 0 (.ild 0) (ringAt 0 (mkDesc 8 0 32 (here 0x1000) 8191 2 0 0 0 0 0 0)) = some (.error, [], none, 7) := by decide +kernel
theorem test_sld : ringSays 0 (.sld 0) (ringAt 0 sldDesc) = some (.running, [.reading], none, 0) := by decide +kernel
theorem test_sprg :
    after (fun t => ((t.ring 0).jobs.map (·.stage), (t.spring 0).arriving.length)) (exec (.sprg 0) (ringAt 0 snapDesc)) = some ([.unit], 1) := by
  decide +kernel
/-- R265: an OP not listed is RESERVED, cause 2, found at the ring. -/
theorem test_sprg_bad_op : ringSays 0 (.sprg 0) (ringAt 0 (mkSprg 0 0xFF 14 14 64 0 0 0 0 0)) = some (.error, [], none, 2) := by decide +kernel
theorem test_chk : ringSays 0 (.chk 0) (ringAt 0 chkDesc) = some (.running, [.reading], none, 0) := by decide +kernel
theorem test_wait_descriptor :
    ringSays 0 (.wait 0) (ringAt 0 (waitDesc 0 9)) = some (.running, [.done], none, 0) ∧
    ringSays 0 (.wait 0) (ringAt 0 (waitDesc 1 9)) = some (.running, [], some 5, 0) := by decide +kernel
/-- R230 and R231: a timeout of 0 fails the WAIT at once, cause TIMEOUT. -/
theorem test_wait_descriptor_timeout_0 : ringSays 0 (.wait 0) (ringAt 0 (waitDesc 1 0)) = some (.error, [], none, 12) := by decide +kernel

/-- A job of ring 0 with index 0. -/
def jobOf (d : BitVec 512) (st : JobStage) : Job :=
  { idx := 0, desc := d, stage := st, out := 0, buf := [], moved := 0, listed := false, restarts := 0, retries := 0, nan := false,
    spoiled := false }

/-- Ring 0 with a job in flight. -/
def flying (j : Job) : State := base.setRing 0 { Ring.reset with state := .running, enable := true, pi := 1, si := 1, jobs := [j] }

theorem test_descriptor_complete :
    after (fun t => ((t.ring 0).counter, (t.ring 0).jobs.length, t.incs.map fun m => (m.core, m.n, m.amount)))
      (exec (.descriptorComplete 0) (flying (jobOf nopDesc .done))) = some (1, 0, [(767, 47, 1)]) := by decide +kernel

/-- A request of ring 0 (engine 0) at stack 0. -/
def reqOf (write : Bool) (addr : Nat) (data : List Byte) : Req :=
  { id := 7, arb := memArb base addr, requester := ringRequester base 0, frame := false, isWrite := write, addr := addr, len := 4, data := data,
    ring := 0, idx := 0, place := 0, accepted := false, order := 0, tries := 0, replays := 0, since := 0, passed := false,
    starved := false }
/-- One request, its requester holding the grant of its port, its descriptor in flight. -/
def asking (q : Req) (held : Bool) : State :=
  let s := flying { jobOf copyDesc (if q.isWrite then .writing else .reading) with out := 1 }
  let s := { s with reqs := [q], nextReq := 8 }
  if held then s.setArb q.arb { Arbiter.reset with holder := some q.requester } else s

theorem test_request_accepted_write :
    after (fun t => (t.memBytes 0x1000 5)) (exec (.requestAccepted 7) (asking (reqOf true 0x1000 [1, 2, 3, 4]) true)) = some [1, 2, 3, 4, 0] := by
  decide +kernel
theorem test_request_needs_the_grant :
    after (fun t => (t.mem, t.reqs.length)) (exec (.requestAccepted 7) (asking (reqOf true 0x1000 [1, 2, 3, 4]) false)) = some ([], 1) := by
  decide +kernel
/-- The last read of a COPY is back: its writes are requested. -/
theorem test_read_data_return :
    after (fun t => t.reqs.map fun q => (q.addr, q.isWrite)) (exec (.readDataReturn 7 false) (asking { reqOf false 0x1000 [] with accepted := true } false))
      = some [(0x2000, true), (0x2020, true)] := by
  decide +kernel
/-- R407: an interface error is counted and the command replayed. -/
theorem test_interface_error :
    after (fun t => (t.reqs.map (·.replays), t.regFld (.hbmpEcc 0) 16 16))
      (exec (.readDataReturn 7 true) (asking { reqOf false 0 [] with accepted := true } false)) = some ([1], 1) := by decide +kernel
theorem test_write_back :
    after (fun t => (t.marks, t.writeBacks)) (exec (.eccWriteBack 0x40) { base with marks := [(0x40, .corr)], writeBacks := [0x40] }) = some ([], []) := by
  decide +kernel
theorem test_arbiter_grant :
    after (fun t => ((t.arb 0).holder, t.regFld (.arbGrants 0 0) 0 48)) (exec (.arbiterGrant 0) (asking { reqOf false 0 [] with requester := 0 } false))
      = some (some 0, 1) := by decide +kernel
/-- Requester 0 holds the grant at PRIO 0, and requester 1 of PRIO 3 asks. -/
def rival : State :=
  let s := ((asking { reqOf false 0 [] with requester := 1 } false).putFld (.arbPrio 0 0) 0 2 0).putFld (.arbPrio 0 1) 0 2 3
  let s := { s with reqs := s.reqs ++ [{ reqOf false 0x40 [] with id := 8, requester := 0 }] }
  s.setArb 0 { Arbiter.reset with holder := some 0 }
theorem test_arbiter_preempt :
    after (fun t => ((t.arb 0).holder, t.regFld (.arbStatus 0) 16 48)) (exec (.arbiterPreempt 0) rival) = some (some 1, 1) := by decide +kernel
theorem test_arb_clear : after (fun t => t.reg (.arbGrants 67 133)) (exec (.clear .W 67) (base.setReg (.arbGrants 67 133) 9)) = some 0 := by decide +kernel
theorem test_arb_prio : after (fun t => t.regFld (.arbPrio 0 5) 0 2) (exec (.arbPrio .W 0 5 2) base) = some 2 := by decide +kernel
theorem test_xs_cfg :
    after (fun t => t.reg (.edgeXsCfg 63 31)) (exec (.edgeXsCfg .W 63 31 0x20010000) base) = some 0 ∧
    after (fun t => t.reg (.edgeXsCfg 63 31)) (exec (.edgeXsCfg .W 63 31 0x01006000) base) = some 0x01006000 := by decide +kernel
theorem test_ring_post :
    after (fun t => (t.ring 8191).pi) (exec (.edgeRingPost .W 8191 3) (base.setReg (.edgeRingCfg 8191) (4 * 2 ^ 36))) = some 3 := by decide +kernel
/-- R223: a post of 17 to a ring of 16 entries is an overflow, cause 9. -/
theorem test_ring_overflow :
    after (fun t => ((t.ring 0).state, (t.ring 0).cause)) (exec (.edgeRingPost .W 0 17) (base.setReg (.edgeRingCfg 0) (4 * 2 ^ 36))) = some (.error, 9) := by
  decide +kernel
theorem test_ring_init :
    after (fun t => ((t.ring 0).counter, (t.ring 0).pi)) (exec (.init .W 0) (base.setRing 0 { Ring.reset with counter := 5, pi := 5, poisoned := true }))
      = some (0, 0) := by decide +kernel
theorem test_ring_enable : after (fun t => (t.ring 0).state) (exec (.enable .W 0 true) base) = some .running := by decide +kernel
theorem test_ring_resume :
    after (fun t => (t.ring 0).state) (exec (.resume .W 0) (base.setRing 0 { Ring.reset with enable := true, state := .trapped })) = some .running := by
  decide +kernel
/-- A ring in ERROR whose descriptor 0 failed at the head with SHAPE, and one whose descriptor 0 failed in flight. -/
def broken (jobs : List Job) (si : BitVec 32) : Ring :=
  { Ring.reset with state := .error, enable := true, cause := 4, failIdx := 0, si := si, pi := 1, jobs := jobs }
theorem test_ring_retry : after (fun t => (t.ring 0).state) (exec (.retry .W 0) (base.setRing 0 (broken [] 0))) = some .running := by decide +kernel
theorem test_ring_skip :
    after (fun t => ((t.ring 0).jobs.map (·.stage), (t.ring 0).si)) (exec (.skip .W 0) (base.setRing 0 (broken [] 0))) = some ([.skipped], 1) := by
  decide +kernel
theorem test_ring_reset :
    after (fun t => ((t.ring 0).state, (t.ring 0).poisoned)) (exec (.reset .W 0) (flying (jobOf copyDesc .reading))) = some (.resetting, true) := by
  decide +kernel
theorem test_resetting_complete :
    after (fun t => (t.ring 0).state) (exec (.resettingComplete 0) (base.setRing 0 { Ring.reset with state := .resetting })) = some .disabled := by
  decide +kernel

/-! ### Witnesses of the statements on rings, ports and arbiters -/

/-- What the start of ring r's head descriptor asks: the ring may start, the descriptor is of its kind, nothing holds it and it meets no cause. -/
def starts (s : State) (r kind : Nat) (d : BitVec 512) : Bool :=
  mayStart s r && dKind d = kind && !windowFull s r && s.broken.isEmpty && s.faults.batch.isNone && (match fetchHead (gathering s) r with
    | .desc x u => x = d && (earlyHold u r d).isNone && (dCause u (ringEngine r) d).isNone && (lateHold u r d).isNone
    | _ => false)

/-- Streams 3 of engine 0 that SIN and SOUT name: one from memory to the grid, one from the grid. -/
def streamed (d : BitVec 512) (fromGrid : Bool) : State := (ringAt 0 d).setReg (.edgeXsCfg 0 3) (0x01001000 + (if fromGrid then 0x80000000 else 0))

theorem witness_DescriptorsStart :
    (∀ p ∈ [(0, nopDesc), (1, copyDesc), (4, gatherDesc), (5, scatterDesc), (6, csldDesc), (7, csrdDesc), (8, ildDesc), (9, sldDesc),
        (11, chkDesc), (12, waitDesc 0 9)], starts (ringAt 0 p.2) 0 p.1 p.2 = true) ∧
    starts (streamed sinDesc false) 0 2 sinDesc = true ∧ starts (streamed soutDesc true) 0 3 soutDesc = true ∧
    (let w := waitOf (ringAt 8191 (waitDesc 1 9)) (waitDesc 1 9)
     let o := ringWaitObj (ringAt 8191 (waitDesc 1 9)) w
     starts (ringAt 8191 (waitDesc 1 9)) 8191 12 (waitDesc 1 9) = true ∧ 2 ^ 31 ≤ (o.value base - w.target).toNat ∧ o.poisoned base = false ∧
      w.timeout ≠ 0) := by decide +kernel

theorem witness_DescriptorsStart_sprg : starts (ringAt 0 snapDesc) 0 10 snapDesc = true := by decide +kernel

/-- How the descriptor at the head of ring r is held, if it is there: windows, fetch, holds and causes. -/
def headOf (s : State) (r : Nat) : Option (Option Nat × Option Nat × Option Nat) :=
  if mayStart s r && s.broken.isEmpty && s.faults.batch.isNone && s.far.isEmpty && !windowFull s r then
    match fetchHead (gathering s) r with
    | .desc d u => some (earlyHold u r d, dCause u (ringEngine r) d, lateHold u r d)
    | _ => none
  else none

/-- Ring 0 with n copies in flight before its head. -/
def behind (n : Nat) (d : BitVec 512) : State := (ringAt 0 d).modRing 0 fun x => { x with jobs := List.replicate n (jobOf copyDesc .reading) }

theorem witness_DescriptorsAreHeldOrFail :
    (windowFull (behind 8 copyDesc) 0 = true ∧ mayStart (behind 8 copyDesc) 0 = true) ∧
    (let s := (ringAt 0 0).setReg (.edgeRingCfg 0) 0x400000000
     mayStart s 0 = true ∧ windowFull s 0 = false ∧ (fetchHead (gathering s) 0 matches .absent) = true) ∧
    headOf (behind 1 (copyDesc ||| 0x100)) 0 = some (some 6, none, some 8) ∧ headOf (behind 1 copyDesc) 0 = some (none, none, some 8) ∧
    headOf (ringAt 0 sinDesc) 0 = some (none, some 6, none) ∧ headOf (ringAt 0 (waitDesc 1 0)) 0 = some (none, none, none) ∧
    (let s := { ringAt 0 copyDesc with marks := [(0, .bad 9)] }
     mayStart s 0 = true ∧ windowFull s 0 = false ∧ (fetchHead (gathering s) 0 matches .bad 10 _) = true) := by decide +kernel

theorem witness_DescriptorCompletes :
    (let s := flying (jobOf nopDesc .done)
     s.working = true ∧ s.faults.batch = none ∧ completable (settle (gathering s) 0) 0 = some (jobOf nopDesc .done) ∧
      ringRecords (settle (gathering s) 0) 0 = false) ∧
    dKind nopDesc ≠ 11 ∧ incBad nopDesc = false ∧ fld (dInc nopDesc) 27 16 = 1 ∧ fld (dInc nopDesc) 43 11 = base.dev ∧
    fld (dInc nopDesc) 6 10 = 767 ∧ fld (dInc nopDesc) 0 6 = 47 := by decide +kernel

theorem witness_MemoryRequests :
    (let q := reqOf true (lakeBase - 4) [1, 2, 3, 4]
     let s := asking q true
     (s.reqs.find? fun x => x.id = 7) = some q ∧ s.working = true ∧ (s.arb q.arb).holder = some q.requester ∧ sendable s q = true ∧
      q.addr + q.data.length ≤ lakeBase ∧
      ∀ u ∈ unitsOf q.addr q.data.length, SMap.get? s.marks u = none ∧ SMap.get? s.glitches u = none ∧ portOut s u = false) ∧
    (let q := reqOf false 0x1000 []
     sendable (asking q true) q = true ∧ ((asking q true).arb q.arb).holder = some q.requester ∧ q.isWrite = false) ∧
    (let q := { reqOf false 0x1000 [] with accepted := true, replays := 14 }
     let s := asking q false
     (s.reqs.find? fun x => x.id = 7 && x.accepted) = some q ∧ s.live = true ∧ portServes s q.addr = true ∧ portOut s q.addr = false ∧
      servedNext s q = true ∧ (oneReading (gathering s) (unitsOf q.addr q.len)).1 = [] ∧ q.replays < 15) ∧
    (let q := { reqOf false 0x1000 [] with accepted := true, tries := 1 }
     let s := { asking q false with marks := [(0x1000, .bad 9)] }
     (oneReading (gathering s) (unitsOf q.addr q.len)).1 ≠ [] ∧ portOut s q.addr = false ∧ servedNext s q = true ∧ q.tries < 2) ∧
    (let s := { base with marks := [(0x40, Mark.corr)], writeBacks := [0x40] }
     s.live = true ∧ 0x40 ∈ s.writeBacks ∧ portServes s 0x40 = true ∧ SMap.get? s.marks 0x40 = some .corr ∧ portOut s 0x40 = false ∧ s.reqs = []) := by decide +kernel

theorem witness_ArbitersGrantAndPreempt :
    arbFitted base 67 = true ∧ clusterRuns base .E = true ∧
    (let s := asking { reqOf false 0 [] with requester := 0 } false
     s.working = true ∧ grantFree s 0 = true ∧ nextGrant s 0 = some 0 ∧ arbFitted s 0 = true ∧ Stored.arbiter 0 ∉ s.broken) ∧
    (rival.working = true ∧ preempts rival 0 = true) ∧
    ((3 : Word) &&& Reg.reserved (.arbPrio 67 133) = 0 ∧ preempts (base.putFld (.arbPrio 67 133) 0 2 (Word.fld 3 0 2)) 67 = false) := by decide +kernel

theorem witness_RingControl :
    (clusterRuns base .W = true ∧ base.faults.inFrost = false ∧ (base.ring 8191).state = .disabled) ∧
    (let s := base.setReg (.edgeRingCfg 8191) (4 * 2 ^ 36)
     (16 : Word) &&& Reg.reserved (.edgeRingPost 8191) = 0 ∧ 0 < Word.fld 16 0 16 ∧
      ((s.ring 8191).pi - (s.ring 8191).counter).toNat + Word.fld 16 0 16 ≤ ringSize s 8191 ∧
      ringSize s 8191 < ((s.ring 8191).pi - (s.ring 8191).counter).toNat + Word.fld 17 0 16) ∧
    (let x := { Ring.reset with state := .running, enable := true }
     x.state = .running ∧ x.jobs = [] ∧ x.head = none ∧ x.failedJob = none) ∧
    ((broken [] 0).head = none ∧ (broken [] 0).enable = true ∧ (broken [] 0).failedJob = none ∧ (broken [] 0).cause ≠ 9 ∧
      (broken [] 0).failIdx = (broken [] 0).si ∧ errorJob (broken [] 0) = none) ∧
    (let j := jobOf copyDesc (.failed 4)
     (broken [j] 1).state = .error ∧ errorJob (broken [j] 1) = some j) ∧
    (∀ q ∈ base.reqs, q.ring ≠ 8191) ∧ (∀ q ∈ base.tags, q.spring = true ∨ q.ring ≠ 8191) ∧
    ((0x01006000 : Word) &&& Reg.reserved (.edgeXsCfg 63 31) = 0 ∧ xsCfgGood base 63 31 0x01006000 = true ∧
      xsCfgGood base 63 31 0x017FF002 = false ∧ (0x017FF002 : Word) &&& Reg.reserved (.edgeXsCfg 63 31) = 0) := by decide +kernel

/-! ### Springs, results worked from R271 to R281 -/

/-- Spring 0 with command 0 in its queue, from ring 0, and FP32 words at offsets of its stack. -/
def cmdOf (d : BitVec 512) : SpringCmd := ⟨0, 0, false, 0, d, 0, false, false⟩
def sprung (d : BitVec 512) (ws : List (Nat × List Nat)) : State :=
  let s := (flying (jobOf d .unit)).setSpring 0 { Spring.reset with queue := [cmdOf d] }
  { s with mem := ws.foldl (fun m w => Memory.writeN m (stackAddr s 0 w.1) (w.2.flatMap (toBytes 4))) [] }

/-- The words of the stack after a command, and how far it has come. -/
def stackAfter (i : Instr) (s : State) (places : List Nat) : Option (List Nat × List (Nat × Bool)) :=
  after (fun t => (places.map fun o => t.memNat (stackAddr t 0 o) 4, (t.spring 0).queue.map fun c => (c.chunk, c.finished))) (exec i s)

/-- FP32 1 to 6 and 0.5, 0.25, 0.125. -/
def f1 := 0x3F800000
def f2 := 0x40000000
def f3 := 0x40400000
def f4 := 0x40800000

theorem test_gacc :
    stackAfter (.gacc 0) (sprung (mkSprg 0 1 0 0 1 0 0x1000 0 0 0) [(0, [f1]), (0x1000, [f2])]) [0, 0x1000] = some ([f3, f2], [(1, true)]) := by
  decide +kernel
theorem test_adam :
    stackAfter (.adam 0) (sprung (mkSprg 0 2 0 0 1 0 0x1000 0x2000 0x3000 0x4000)
      [(0, [f1]), (0x3000, [f2]), (0x4000, [f1, 0, f1, 0, f1, f1, f1, 0, 0, f1])]) [0, 0x1000, 0x2000] = some ([0, f2, f4], [(1, true)]) := by
  decide +kernel
/-- The worked example of R273: w = 1, b = 0.5, gr = 0.25 give b = 0.5 and w = 0.9375. -/
theorem test_mom :
    stackAfter (.mom 0) (sprung (mkSprg 0 3 0 0 1 0 0x1000 0x2000 0x3000 0)
      [(0, [f1]), (0x1000, [0x3F000000]), (0x2000, [0x3E800000]), (0x3000, [0x3E000000, 0x3F000000, f1, 0, f1])]) [0, 0x1000]
      = some ([0x3F700000, 0x3F000000], [(1, true)]) := by decide +kernel
theorem test_cast_bf16 :
    stackAfter (.cast 0) (sprung (mkSprg 0 4 0 1 2 0 0x1000 0 0 2) [(0, [f1, f2])]) [0x1000] = some ([0x40003F80], [(1, true)]) := by decide +kernel
theorem test_lrinit_clears_e :
    stackAfter (.lrinit 0) (sprung (mkSprg 0 8 0 0 0 0 7 0 0x1000 (1 + 1 * 2 ^ 24 + 4 * 2 ^ 48)) [(0x1000, [f1])]) [0x1000]
      = some ([f1], [(1, false)]) := by decide +kernel
theorem test_lrp :
    stackAfter (.lrp 0) (sprung (mkSprg 0 9 0 0 0 0 0x1000 0x2000 0x3000 (1 + 1 * 2 ^ 24 + 4 * 2 ^ 48))
      [(0, [f1]), (0x1000, [f1]), (0x2000, [f1, f2, 0, f1])]) [0x1000, 0x3000, 0x3004, 0x300C] = some ([f2, f2, f4, f2], [(1, true)]) := by
  decide +kernel
theorem test_lrorth :
    stackAfter (.lrorth 0) (sprung (mkSprg 0 10 0 0 0 0 0 0 0 (1 + 4 * 2 ^ 48)) [(0, [f2, 0, 0, 0])]) [0, 4] = some ([f1, 0], [(1, true)]) := by
  decide +kernel
theorem test_lrq :
    stackAfter (.lrq 0) (sprung (mkSprg 0 11 0 0 0 0 0x1000 0x2000 0 (1 + 1 * 2 ^ 24 + 4 * 2 ^ 48)) [(0, [f2]), (0x1000, [f1, f2])]) [0x2000, 0x2004]
      = some ([f2, f4], [(1, true)]) := by decide +kernel
theorem test_lrres :
    stackAfter (.lrres 0) (sprung (mkSprg 0 12 0 0 0 0 0x1000 0x2000 0x3000 (1 + 1 * 2 ^ 24 + 4 * 2 ^ 48))
      [(0, [f4]), (0x1000, [f1]), (0x2000, [f3])]) [0, 0x3000] = some ([f1, f3], [(1, true)]) := by decide +kernel
/-- A GATH of 64 bytes to the lake's first bytes, named by device 5. -/
def gathDesc : BitVec 512 := mkSprg 0 0x10 14 14 64 0 0x1000 1 0 0
def gathState : State := sprung gathDesc [(0, [0xABCD]), (0x1000, [lakeBase % 2 ^ 32, (5 * 2 ^ 43 + lakeBase) / 2 ^ 32])]
theorem test_gath : after (fun t => (t.memNat lakeBase 4, (t.spring 0).queue.map (·.finished))) (exec (.gath 0) gathState) = some (0xABCD, [true]) := by
  decide +kernel
theorem test_snap :
    after (fun t => t.memNat lakeBase 4) (exec (.snap 0) (sprung snapDesc [(0x1000, [0xABCD])])) = some 0xABCD := by decide +kernel
theorem test_spring_accept :
    after (fun t => ((t.spring 0).queue.map (·.no), t.regFld (.sprgCmdno 0) 0 48))
      (exec (.springCommandAccept 0) ((base.setReg (.sprgCmdno 0) 41).setSpring 0 { Spring.reset with arriving := [cmdOf snapDesc] })) = some ([41], 42) := by
  decide +kernel
def done : State := (flying (jobOf snapDesc .unit)).setSpring 0 { Spring.reset with queue := [{ cmdOf snapDesc with finished := true }], move := some 0 }
theorem test_spring_complete :
    after (fun t => ((t.spring 0).queue.length, (t.ring 0).jobs.map (·.stage), t.regFld (.sprgDone 0) 0 48)) (exec (.springCommandComplete 0 .move) done)
      = some (0, [.done], 1) := by decide +kernel
theorem test_spring_resume :
    after (fun t => (t.spring 15).trapped) (exec (.springResume .E 15) (base.setSpring 15 { Spring.reset with trapped := true })) = some false := by
  decide +kernel
def failed (moves : Bool) : State :=
  let c := some (cmdOf snapDesc, 10)
  base.setSpring 0 { Spring.reset with queue := [cmdOf snapDesc], failC := if moves then none else c, failM := if moves then c else none }
theorem test_drop_c : after (fun t => ((t.spring 0).failC.isNone, (t.spring 0).queue.length)) (exec (.dropC .W 0) (failed false)) = some (true, 0) := by
  decide +kernel
theorem test_drop_m : after (fun t => ((t.spring 0).failM.isNone, (t.spring 0).queue.length)) (exec (.dropM .W 0) (failed true)) = some (true, 0) := by
  decide +kernel

/-! ### Witnesses of the statements on springs -/

/-- Spring 15, about to start its command. -/
def last (d : BitVec 512) : State :=
  { base with rings := [(0, { Ring.reset with state := .running, jobs := [jobOf d .unit] })], springs := [(15, { Spring.reset with queue := [cmdOf d] })] }

theorem witness_engineOn (s : State) (n : Nat) (m : Bool) (c : SpringCmd) (hw : springWorks s n = true) (hf : c.finished = false)
    (hp : snapshotsPassed (s.spring n) c = true) (hr : (s.spring n).running m = none) (ht : (s.spring n).trapped = false)
    (hh : (s.spring n).held = false) (hn : nextCmd (s.spring n) m = some c) :
    engineOn s n m c (s.setSpring n ((s.spring n).setEngine m (some c.no))) :=
  ⟨hw, hf, hp, .inr ⟨hr, ht, hh, hn, rfl⟩⟩

theorem witness_SpringComputeChunks :
    (let d := mkSprg 0 1 0 0 1 0 0x1000 0 0 0
     let s := sprung d [(0, [f1]), (0x1000, [f2])]
     let u := s.setSpring 0 ((s.spring 0).setEngine false (some 0))
     engineOn s 0 false (cmdOf d) u ∧ cOp d = 1 ∧
      ∃ bs v w, readRanges 0 (chunkReads d 0) (gathering u) = (some bs, v) ∧ writeStack v 0 (chunkWork d 0 bs).writes = (true, w)) ∧
    (let d := mkSprg 15 12 0 0 0 0 0x1000 0x2000 0x3000 (1 + 1 * 2 ^ 24 + 4 * 2 ^ 48)
     let s := { last d with marks := [(stackAddr base 15 0, Mark.bad 3)] }
     let u := s.setSpring 15 ((s.spring 15).setEngine false (some 0))
     engineOn s 15 false (cmdOf d) u ∧ ∃ v, readRanges 15 (chunkReads d 0) (gathering u) = (none, v)) := by
  refine ⟨⟨witness_engineOn _ _ _ _ (by decide +kernel) rfl (by decide +kernel) (by decide +kernel) (by decide +kernel) (by decide +kernel)
      (by decide +kernel), by decide +kernel, ?_⟩, ⟨witness_engineOn _ _ _ _ (by decide +kernel) rfl (by decide +kernel) (by decide +kernel)
      (by decide +kernel) (by decide +kernel) (by decide +kernel), ?_⟩⟩
  · have h : (readRanges 0 (chunkReads (mkSprg 0 1 0 0 1 0 0x1000 0 0 0) 0)
        (gathering ((sprung (mkSprg 0 1 0 0 1 0 0x1000 0 0 0) [(0, [f1]), (0x1000, [f2])]).setSpring 0
          (((sprung (mkSprg 0 1 0 0 1 0 0x1000 0 0 0) [(0, [f1]), (0x1000, [f2])]).spring 0).setEngine false (some 0))))).1
        = some [[0, 0, 0x80, 0x3F], [0, 0, 0, 0x40]] := by decide +kernel
    refine ⟨_, _, _, Prod.ext h rfl, Prod.ext ?_ rfl⟩
    decide +kernel
  · refine ⟨_, Prod.ext ?_ rfl⟩
    decide +kernel

theorem witness_SpringMoveChunks :
    (let s := sprung snapDesc [(0x1000, [0xABCD])]
     let u := s.setSpring 0 ((s.spring 0).setEngine true (some 0))
     engineOn s 0 true (cmdOf snapDesc) u ∧ cOp snapDesc = 0x11 ∧
      s.faults.batch = none ∧
      (let v := (readRanges 0 [(0x1000, 64)] (gathering u)).2
       (∃ rs, (readRanges 0 [(0x1000, 64)] (gathering u)).1 = some rs ∧ memDenied v lakeBase (rs.getD 0 []).length true = none ∧
        outwardFree v (cmdOf snapDesc) (rs.getD 0 []).length [lakeBase] = true ∧
        (outwardLocal v (cmdOf snapDesc) lakeBase (rs.getD 0 [])).1 = true))) ∧
    (let d := mkSprg 0 0x11 14 14 64 0x1000 (partWEnd false - 64) 0 0 0
     (memDenied (base.setReg .ctrlPart 0) (cA d 1) 64 true).isSome = true) ∧
    (let u := gathState.setSpring 0 ((gathState.spring 0).setEngine true (some 0))
     engineOn gathState 0 true (cmdOf gathDesc) u ∧ cOp gathDesc = 0x10 ∧ cmdTags gathState 0 (cmdOf gathDesc) = [] ∧
      (∃ rs, (readRanges 0 [(0x1000, 8), (0, 64)] (gathering u)).1 = some rs ∧
        let v := (readRanges 0 [(0x1000, 8), (0, 64)] (gathering u)).2
        let list := (List.range 1).map fun i => bytesAt (rs.getD 0 []) (8 * i) 8
        (∀ a ∈ list, gathEntryBad v 0 gathDesc a = false) ∧
        outwardFree v (cmdOf gathDesc) 64 ((list.filter fun a => !gathRemote v a).map fun a => addrLocal a) = true ∧ (gathWrite 0 (cmdOf gathDesc) (rs.getD 1 []) list v).1 = none)) := by
  refine ⟨⟨witness_engineOn _ _ _ _ (by decide +kernel) rfl (by decide +kernel) (by decide +kernel) (by decide +kernel) (by decide +kernel)
      (by decide +kernel), by decide +kernel, rfl, [[0xCD, 0xAB] ++ List.replicate 62 0], by decide +kernel⟩,
    by decide +kernel,
    ⟨witness_engineOn _ _ _ _ (by decide +kernel) rfl (by decide +kernel) (by decide +kernel) (by decide +kernel) (by decide +kernel)
      (by decide +kernel), by decide +kernel, by decide +kernel,
      [toBytes 8 (5 * 2 ^ 43 + lakeBase), [0xCD, 0xAB] ++ List.replicate 62 0], by decide +kernel⟩⟩

theorem witness_SpringCommands :
    (springWorks base 15 = true ∧ clusterRuns base .E = true ∧ clusterRuns frozen .W = true ∧ frozen.faults.inFrost = true) ∧
    (sameFailed (cmdOf snapDesc) none = false ∧ sameFailed (cmdOf snapDesc) (some (cmdOf snapDesc, 10)) = true ∧
      ({ Spring.reset with queue := List.replicate 31 (cmdOf snapDesc) } : Spring).queue.length < 32) ∧
    (springWorks done 0 = true ∧ (done.spring 0).running (Engine.move == .move) = some { cmdOf snapDesc with finished := true } ∧
      cmdTags done 0 (cmdOf snapDesc) = [] ∧ (done.ring 0).job 0 = some (jobOf snapDesc .unit)) ∧
    ((failed false).spring 0).failC = some (cmdOf snapDesc, 10) ∧ ((failed true).spring 0).failM = some (cmdOf snapDesc, 10) := by decide +kernel

/-! ### Links -/

/-- Link l with a state; UP with 32 credits of each channel; a route from device 5 to device 9 over link 1. -/
def linkAt (l : Nat) (x : Link) : State := base.setLink l x
def up : Link := { Link.reset with enable := true, state := .up, credits := (List.range 16).map fun v => (v, 32) }
/-- A link that trains and has its partner's INIT: device 9, link 1. -/
def trains : Link := { Link.reset with enable := true, state := .training, init := some (9, 1) }
def routed (s : State) : State := (s.setReg (.linkRoute 0 9) (2 ^ 63 + 1)).setLink 1 up

/-- A control flit with flags, ACK and NAK numbers, and one credit of VC 0 returned. -/
def ctl (flags ack nak : Nat) : BitVec 512 := mkFlit [(0, 2), (1, flags), (2, ack), (4, nak), (0x0C, 1)] []
/-- A codeword of ten control flits. -/
def cw (n : Nat) (f : BitVec 512) : Codeword := ⟨n, List.replicate 10 ⟨0, f⟩⟩
/-- Codewords 6, 7 and 8 sent and not acknowledged. -/
def sent : Link := { up with txNum := 9, replay := [cw 6 0, cw 7 0, cw 8 0] }

theorem test_codeword_transmit :
    after (fun t => ((t.link 35).txNum, (t.link 35).replay.map fun c => (c.num, c.flits.length))) (exec (.codewordTransmit 35) (linkAt 35 { up with txNum := 65535 }))
      = some (0, [(65535, 10)]) := by decide +kernel
theorem test_codeword_receive :
    after (fun t => ((t.link 0).rxNum, (t.link 0).control.length)) (exec (.codewordReceive 0 (cw 65535 (ctl 0 0 0)) .clean) (linkAt 0 { up with rxNum := 65535 }))
      = some (0, 10) := by decide +kernel
theorem test_codeword_corrected :
    after (fun t => (t.regFld (.linkFec 0) 0 32, (t.link 0).control.length)) (exec (.codewordReceive 0 (cw 3 (ctl 0 0 0)) .corrected) (linkAt 0 { up with rxNum := 3 }))
      = some (1, 10) := by decide +kernel
/-- R319: a flit that fails its CRC has the codeword asked for again. -/
theorem test_codeword_bad :
    after (fun t => ((t.link 0).nak, (t.link 0).control.length)) (exec (.codewordReceive 0 (cw 3 1) .clean) (linkAt 0 { up with rxNum := 3 })) = some (some 3, 0) := by
  decide +kernel
theorem test_control_acknowledges :
    after (fun t => ((t.link 0).replay.map (·.num), linkCredit t 0 0)) (exec (.controlFlitReceive 0) (linkAt 0 { sent with control := [ctl 0 7 0] }))
      = some ([8], 33) := by decide +kernel
theorem test_control_nak :
    after (fun t => ((t.link 0).replayAt, t.regFld (.linkFec 0) 32 16)) (exec (.controlFlitReceive 0) (linkAt 0 { sent with control := [ctl 2 6 8] }))
      = some (some 8, 1) := by decide +kernel
/-- A WRITE of 64 bytes of 01, a READ of 64 bytes at 0x1000, for a device. -/
def pkt (type dst : Nat) (body : List (BitVec 512)) : Packet :=
  { ptype := type, vc := 3, dst := dst, src := 9, frame := false, addr := 0x1000, tag := 0x10000, len := 64, hops := 1, req := 0, body := body }
def got (u : LinkUnit) : State := routed (linkAt 0 { up with received := [u] })
theorem test_write_packet :
    after (fun t => (t.memNat 0x1000 1, t.memNat 0x1040 1, (t.link 0).received.length, (t.link 1).queue.length))
      (exec (.write 0) (got (pkt 1 5 [1]).unit)) = some (1, 0, 0, 1) := by decide +kernel
theorem test_read_packet_is_answered :
    after (fun t => (t.link 1).queue.map fun u => u.2.flits) (exec (.read 0) (got (pkt 2 5 []).unit)) = some [2] := by decide +kernel
/-- A tag of ring 0's COPY, of a read or a write. -/
def tagOf (write : Bool) : TagRec := ⟨0x10000, write, false, 0, 0, 0, 64, 0, false⟩
def waiting (write : Bool) (u : LinkUnit) : State :=
  let s := routed (flying { jobOf copyDesc (if write then .writing else .reading) with out := 2 })
  { s with tags := [tagOf write], links := SMap.set s.links 0 { up with received := [u] } Link.reset }
theorem test_resp :
    after (fun t => (t.tags.length, (t.ring 0).jobs.map fun j => (j.out, j.buf))) (exec (.resp 0) (waiting false (pkt 3 5 [1]).unit)) = some (0, [(1, [(0, 1)])]) := by
  decide +kernel
theorem test_packet_passes_on :
    after (fun t => ((t.link 1).queue.map fun u => unitType u.2, t.mem)) (exec (.write 0) (got (pkt 1 9 [1]).unit)) = some ([1], []) := by decide +kernel
def syncOf (type object amount : Nat) : BitVec 512 := ({ stype := type, vc := 2, dst := 5, src := 9, hops := 1, object := object, amount := amount, source := 0 } : SyncFlit).flit
theorem test_inc_flit :
    after (fun t => t.incs.map fun m => (m.core, m.n, m.amount)) (exec (.inc 0) (got (.sync (syncOf 1 (767 * 64 + 47) 3)))) = some [(767, 47, 3)] := by decide +kernel
theorem test_ack_flit :
    after (fun t => (t.tags.length, (t.ring 0).jobs.map (·.out))) (exec (.ack 0) (waiting true (.sync (syncOf 2 0x10000 0)))) = some (0, [1]) := by decide +kernel
theorem test_unreach_flit :
    after (fun t => (t.ring 0).jobs.map (·.stage)) (exec (.unreach 0) (waiting true (.sync (syncOf 3 0x10000 0)))) = some [.failed 11] := by decide +kernel
theorem test_block_lock :
    after (fun t => ((t.link 0).state, (t.link 0).cause, t.ready (.link 0))) (exec (.blockLockTimeout 0) (linkAt 0 up)) = some (.down, 2, false) := by decide +kernel
theorem test_rto :
    after (fun t => (t.ring 0).jobs.map (·.stage)) (exec (.linkRtoExpiry 0x10000) (later 1000000 ((waiting true (.sync 0)).setReg .linkRto 1000))) = some [.failed 11] := by
  decide +kernel
theorem test_training :
    after (fun t => ((t.link 35).state, t.reg (.linkRtt 35))) (exec (.linkTrainingComplete 35 5000000 9 1) (linkAt 35 trains))
      = some (.up, 5000000) := by decide +kernel
theorem test_training_far :
    after (fun t => ((t.link 35).state, (t.link 35).cause)) (exec (.linkTrainingComplete 35 5000001 9 1) (linkAt 35 trains))
      = some (.training, 5) := by decide +kernel
theorem test_link_enable : after (fun t => (t.link 0).state) (exec (.linkCtlEnable .W 0 true) base) = some .training := by decide +kernel
theorem test_retrain : after (fun t => ((t.link 0).state, t.ready (.link 0))) (exec (.retrain .W 0) (linkAt 0 up)) = some (.training, false) := by decide +kernel

/-! ### Witnesses of the statements on links -/

theorem witness_LinkCodewordsAndControl :
    (let s := linkAt 35 { up with replay := List.replicate 3 (cw 0 0), rxNum := 65535 }
     s.live = true ∧ linkTrained s 35 = true ∧ (s.link 35).replayAt = none ∧ (s.link 35).replay.length < 1024 ∧ recalRuns s (.link 35) = false ∧
      (cw 65535 (ctl 0 0 0)).num % 65536 = (s.link 35).rxNum ∧ (cw 0 0).num % 65536 ≠ (s.link 35).rxNum ∧ (s.link 35).taking = none ∧
      (s.link 35).unchecked = []) ∧
    (∀ f ∈ (cw 65535 (ctl 0 0 0)).flits, (f.kind = 0 ∨ f.kind = 3) ∧ flitGood f.bits [] = true) ∧ flitGood 1 [] = false ∧
    (linkTrained (linkAt 0 { sent with replayAt := some 6 }) 0 = true) ∧
    (∀ p ∈ [(0, 7, 0), (2, 6, 8), (1, 0, 0)],
      ((linkAt 0 { sent with control := [ctl p.1 p.2.1 p.2.2] }).link 0).control = [ctl p.1 p.2.1 p.2.2] ∧
        ffld (ctl p.1 p.2.1 p.2.2) 1 1 = p.1 ∧ ffld (ctl p.1 p.2.1 p.2.2) 2 2 = p.2.1) ∧
    (let x := { sent with control := [ctl 2 6 8], lastNak := some 8, replays := 15 }
     let kept := x.replay.filter fun c => (c.num + 65535 - ffld (ctl 2 6 8) 2 2) % 65536 < 32768
     x.lastNak = some (ffld (ctl 2 6 8) 4 2) ∧ 15 ≤ x.replays ∧ kept.map (·.num) = [7, 8] ∧ linkTrained (linkAt 0 x) 0 = true) ∧
    sent.lastNak ≠ some (ffld (ctl 2 6 8) 4 2) ∧ sent.state = .up ∧
    (linkTrains trains = true ∧ initOf (cw 0 (initFlit base 7)) = some (5, 7)) ∧
    (let s := { linkAt 0 up with svc := { base.svc with recals := [⟨.link 0, 0, true, false, true⟩] } }
     recalRuns s (.link 0) = true) := by decide +kernel

theorem witness_LinkPackets :
    (∀ p ∈ [(1, pkt 1 5 [1]), (2, pkt 2 5 []), (1, pkt 1 9 [1]), (3, pkt 3 9 [1]), (2, { pkt 2 5 [] with addr := storeBase })],
      (pickUnit p.1 ((got p.2.unit).link 0).received) = some p.2.unit) ∧
    (got (pkt 1 5 [1]).unit).live = true ∧ (got (pkt 1 5 [1]).unit).faults.inFrost = false ∧
    (let u := (pkt 1 5 [1]).unit
     let s := gathering (freeUnit (got u) 0 u)
     let k := bridgeRequester (linkHalf 0) false
     (got u).faults.batch = none ∧ (got u).broken = [] ∧ packetMay 0 true (fun _ _ => true) (got u) u = true ∧
      memDenied s 0x1000 64 true = none ∧ (portWrite (passPort s 0x1000 64 k) 0x1000 (flitBytes 1)).1 = true) ∧
    (let u := (pkt 2 5 []).unit
     let s := gathering (freeUnit (got u) 0 u)
     packetMay 0 false (respRoom (linkHalf 0)) (got u) u = true ∧ memDenied s 0x1000 64 false = none ∧
      (portRead (passPort s 0x1000 64 (bridgeRequester (linkHalf 0) false)) 0x1000 64).1.isSome = true ∧
      (memDenied s storeBase 64 false).isSome = true ∧ s.far = []) ∧
    (let s := gathering (freeUnit (got (pkt 3 9 [1]).unit) 0 (pkt 3 9 [1]).unit)
     (pkt 3 9 [1]).dst ≠ s.dev ∧ (pkt 3 9 [1]).hops < 8 ∧ egress s (linkHalf 0) 9 9 3 = some 1) := by decide +kernel

theorem witness_LinkReturns :
    (∀ p ∈ [(3, waiting false (pkt 3 5 [1]).unit), (17, got (.sync (syncOf 1 (767 * 64 + 47) 3))), (18, waiting true (.sync (syncOf 2 0x10000 0))),
        (19, waiting true (.sync (syncOf 3 0x10000 0))), (19, got (.sync (syncOf 3 0xFFFF 1)))],
      (pickUnit p.1 (p.2.link 0).received).isSome = true ∧ p.2.live = true ∧ p.2.faults.inFrost = false) ∧
    (let s := waiting false (pkt 3 5 [1]).unit
     (s.tags.find? fun t => t.tag = 0x10000 && !t.isWrite) = some (tagOf false) ∧ (tagOf false).spring = false ∧
      ((s.ring 0).job 0).isSome = true ∧ jobAlive s 0 0 = true ∧ (tagOf false).due ≤ (flitBytes 1).length ∧
      (flitBytes 1).length < ({ tagOf false with due := 128 } : TagRec).due) ∧
    ((syncFlitOf (syncOf 1 (767 * 64 + 47) 3)).dst = base.dev ∧ (syncFlitOf (syncOf 1 (767 * 64 + 47) 3)).object % 2 ^ 16 / 64 < 768 ∧
      (syncFlitOf (syncOf 1 (767 * 64 + 47) 3)).object % 64 < 48) ∧
    (let s := waiting true (.sync (syncOf 2 0x10000 0))
     (s.tags.find? fun t => t.tag = (syncFlitOf (syncOf 2 0x10000 0)).object && t.isWrite) = some (tagOf true)) ∧
    (syncFlitOf (syncOf 3 0xFFFF 1)).object < 2 ^ 16 ∧ 2 ^ 16 ≤ (syncFlitOf (syncOf 3 0x10000 0)).object := by decide +kernel

theorem witness_LinkStates :
    (let s := linkAt 35 up
     s.live = true ∧ linkTrained s 35 = true ∧ clusterRuns s .E = true ∧ (s.link 35).state = .up ∧ (s.link 35).enable = true) ∧
    (let s := linkAt 35 trains
     (s.link 35).enable = true ∧ (s.link 35).state = .training ∧ (s.link 35).init = some (9, 1) ∧ (s.link 35).received = [] ∧ s.live = true) ∧ (base.link 0).state = .disabled ∧
    (let s := later 1000000 ((waiting true (.sync 0)).setReg .linkRto 1000)
     (s.tags.find? fun t => t.tag = 0x10000) = some (tagOf true) ∧ s.working = true ∧ (tagOf true).failed = false ∧
      (tagOf true).since + s.regFld .linkRto 0 20 * 1000 ≤ s.time.elapsed ∧ ((s.ring 0).job 0).isSome = true ∧ jobAlive s 0 0 = true) := by
  decide +kernel

/-! ### The timing chain -/

/-- Both ports locked, valid, a delay of 2 ns. -/
def ring : State :=
  let p : ChainPort := ⟨true, true, 2 * 65536, [], none, 0⟩
  { base with chain := { Chain.reset with cin := p, cout := p, bypassOpen := true } }
def leader : State := ring.setReg .chainCfg 1
/-- A message of a type from an origin after hops. -/
def msg (type origin hops value : Nat) : BitVec 256 := ({ mtype := type, hops := hops, origin := origin, ccw := false, seq := 0, value := value, corr := 0, aux := 0 } : ChainMsg).bits

theorem test_time_goes_on :
    after (fun t => (t.chain.cwHops, t.chain.tx.map fun m => ((chainMsgOf m.2).hops, (chainMsgOf m.2).corr))) (exec (.time .cin (msg 1 9 3 0) ⟨5, 0⟩) ring)
      = some (some 3, [(4, 2 * 65536 + 5)]) := by decide +kernel
theorem test_time_64_hops :
    after (fun t => (t.chain.tx.length, t.regFld .chainErr 0 16)) (exec (.time .cin (msg 1 9 64 0) ⟨5, 0⟩) ring) = some (0, 1) := by decide +kernel
theorem test_frame_goes_on :
    after (fun t => t.chain.tx.map fun m => (chainMsgOf m.2).mtype) (exec (.frame .cout (msg 2 9 3 0) 5) ring) = some [2] := by decide +kernel
theorem test_alarm :
    after (fun t => (t.regBit .chainAlarm 63, t.faults.signal.isSome)) (exec (.alarm .cin (msg 3 9 1 1)) (ring.setReg .chainCfg 2)) = some (true, true) := by
  decide +kernel
theorem test_time_send :
    after (fun t => (t.chain.tx.map (·.1), t.chain.timeDue)) (exec .chainTimeSend leader) = some ([.cout, .cin], 1024) := by decide +kernel
theorem test_alarm_tx :
    after (fun t => t.chain.tx.length) (exec (.chainAlarmTx .W 0x100) ring) = some 2 ∧
    after (fun t => t.chain.tx.length) (exec (.chainAlarmTx .W 0xFF) ring) = some 0 := by decide +kernel
theorem test_probe_send : after (fun t => (t.chain.cin.probe, t.chain.cin.probeDue)) (exec (.probeSend .cin 77) ring) = some (some 77, 16000) := by
  decide +kernel
theorem test_probe_is_answered :
    after (fun t => t.chain.tx.map fun m => (m.1, (chainMsgOf m.2).mtype, (chainMsgOf m.2).value)) (exec (.probe .cout (msg 4 9 1 0) 6) ring) = some [(.cout, 5, 6)] := by
  decide +kernel
/-- A PROBE left at 100; its ECHO with a residence of 20 comes at 4 ns more: a delay of (262144 - 20) / 2. -/
def probed : State := ring.modPort .cin fun p => { p with probe := some 100 }
theorem test_echo : after (fun t => t.chain.cin.meas) (exec (.echo .cin (msg 5 9 1 20) (100 + 4 * 65536)) probed) = some [131062] := by decide +kernel
theorem test_echo_moved :
    after (fun t => (t.chain.cin.valid, t.regBit .chainEvent 1)) (exec (.echo .cin (msg 5 9 1 0) (100 + 9 * 65536)) probed) = some (false, true) := by decide +kernel
theorem test_lock_loss : after (fun t => (t.chain.cout.lock, t.chain.cout.valid)) (exec (.chainLockLoss .cout) ring) = some (false, false) := by decide +kernel
theorem test_lock_regained :
    after (fun t => t.chain.cin.lock) (exec (.chainLockRegained .cin) { base with chain := { Chain.reset with bypassOpen := true } }) = some true := by decide +kernel
/-- A state in which both chain ports are ready, whatever their times. -/
def portsReady : State := later (Config.chainReady 0 + Config.chainReady 1 + 1) base
theorem portsReady_ready (x : ChainSide) : chainPortReady portsReady x = true := by
  have h : portsReady.time.elapsed = Config.chainReady 0 + Config.chainReady 1 + 1 := rfl
  cases x
  · exact decide_eq_true (by rw [h]; show Config.chainReady 0 < _; omega)
  · exact decide_eq_true (by rw [h]; show Config.chainReady 1 < _; omega)
theorem base_notReady (x : ChainSide) : chainPortReady base x = false := decide_eq_false (Nat.not_lt_zero _)
theorem test_bypass_open : after (fun t => t.chain.bypassOpen) (exec .bypassOpen portsReady) = some true ∧
    exec .bypassOpen base = .next base := by
  constructor
  · show after _ (stepIf _ _ _) = _
    rw [portsReady_ready, portsReady_ready]
    rfl
  · show stepIf _ _ _ = _
    rw [base_notReady, Bool.and_false, Bool.false_and, Bool.false_and]
    rfl

/-! ### Witnesses of the statements on the chain -/

theorem witness_ChainMessages :
    (chainUp ring .cin = true ∧ chainUp ring .cout = true ∧ (ring.chain.port .cin).valid = true ∧ leads ring = false ∧ leads leader = true) ∧
    (∀ p ∈ [(1, 9, 63), (1, 9, 64), (2, 9, 63), (3, 9, 1), (1, 5, 7), (1, 4, 1)],
      chainGood (msg p.1 p.2.1 p.2.2 1) = true ∧ (chainMsgOf (msg p.1 p.2.1 p.2.2 1)).mtype = p.1 ∧
        (chainMsgOf (msg p.1 p.2.1 p.2.2 1)).origin = p.2.1 ∧ (chainMsgOf (msg p.1 p.2.1 p.2.2 1)).hops = p.2.2) ∧
    (chainGood (msg 1 9 3 0 + 2 ^ 64) = false ∧ chainGood (msg 3 9 3 0 + 2 ^ 64) = false ∧ (chainMsgOf (msg 3 9 3 0 + 2 ^ 64)).mtype = 3) ∧
    timeSrc ring ≠ 3 ∧ timeSrc (ring.setReg .timeCfg 3) = 3 ∧ (ring.setReg .chainCfg 2).regBit .chainCfg 1 = true ∧
    ring.chain.usingCcw = arrivesCcw .cin ∧ ring.faults.batch = none := by decide +kernel

theorem witness_ChainPorts :
    (chainUp leader .cin = true ∧ chainUp leader .cout = true ∧ leads leader = true ∧ leader.chain.timeDue ≤ leader.time.elapsed ∧
      clusterRuns leader .E = true ∧ (0x100 : Word) &&& Reg.reserved .chainAlarmTx = 0 ∧ (0xFF : Word) &&& Reg.reserved .chainAlarmTx = 0) ∧
    ((ring.chain.port .cout).probeDue ≤ ring.time.elapsed ∧ chainGood (msg 4 9 1 0) = true ∧ (chainMsgOf (msg 4 9 1 0)).mtype = 4) ∧
    (chainGood (msg 5 9 1 20) = true ∧ (chainMsgOf (msg 5 9 1 20)).mtype = 5 ∧ (probed.chain.port .cin).probe = some 100 ∧
      apart 131072 (probed.chain.port .cin).delay ≤ 2 * 65536 ∧ 2 * 65536 < apart 262145 (probed.chain.port .cin).delay ∧ (probed.chain.port .cin).valid = true) ∧
    (let s : State := { base with chain := { Chain.reset with bypassOpen := true } }
     s.live = true ∧ s.chain.bypassOpen = true ∧ (s.chain.port .cin).lock = false) ∧ base.chain.bypassOpen = false := by decide +kernel
theorem witness_ChainPorts_bypass : portsReady.live = true ∧ portsReady.chain.bypassOpen = false ∧
    (chainPortReady portsReady .cin = true ∧ chainPortReady portsReady .cout = true) ∧ base.live = true ∧ chainPortReady base .cin = false :=
  ⟨rfl, rfl, ⟨portsReady_ready .cin, portsReady_ready .cout⟩, rfl, base_notReady .cin⟩

/-! ### Reference time -/

/-- The timebase at a time in ns under 25 Hz with 1,000 lines: a frame of 40 ms, a line of 40 µs, a slice of 625 µs. -/
def fmt25 : Word := 1000 * 2 ^ 16 + 2
def clock (ns : Nat) (s : State) : State :=
  { s with time := { s.time with ns := BitVec.ofNat 64 ns, fmt := fmt25 }, regs := (s.setReg .timeFmt fmt25).regs }
/-- The same under a source. -/
def srcOf (n : Nat) (s : State) : State := s.setReg .timeCfg (BitVec.ofNat 64 n)
/-- Frame 3 of 25 Hz is due: 120 ms. -/
def ending3 : State := let s := clock 120000000 base; { s with time := { s.time with frameAt := 80000000 * oneNs } }

theorem test_frame_start :
    after (fun t => (t.time.frame, t.time.frameAt, t.time.line, t.time.out)) (exec .frameStart ending3) = some (3, 120000000 * oneNs, 0, [(0, [])]) := by
  decide +kernel
/-- R345: a TIME_SET to 1 s steps the timebase: frame 25. -/
theorem test_frame_start_sets_time :
    after (fun t => (t.time.ns, t.time.frame, t.time.steps, t.regBit .timeEvent 3)) (exec .frameStart { ending3 with time := { ending3.time with setPending := some 1000000000 } })
      = some (1000000000, 25, 1, true) := by decide +kernel
/-- Line event 15 at line 2 and 5 ns. -/
def lined (ns : Nat) : State := let s := clock ns base; { s with time := { s.time with lev := (List.replicate 15 0) ++ [top + 2 * 2 ^ 32 + 5] } }
theorem test_line_event : after (fun t => (t.time.delivered, t.time.out)) (exec (.lineEvent 15) (lined 80005)) = some ([15], [(16, [])]) := by decide +kernel
theorem test_line_event_early : after (fun t => t.time.out) (exec (.lineEvent 15) (lined 80004)) = some [] := by decide +kernel
/-- A lock threshold of 100 ns and a step of 1 µs: TIME_CFG with HOLD_S 2. -/
def cfgTime (src : Nat) : Word := BitVec.ofNat 64 (2 * 2 ^ 32 + 2 ^ 16 + 100 * 2 ^ 8 + src)
def measured (src : Nat) (st : TimeState) (good : Nat) : State :=
  let s := base.setReg .timeCfg (cfgTime src)
  { s with time := { s.time with state := st, good := good } }
theorem test_sixteenth_measurement :
    after (fun t => (t.time.state, t.time.slew, t.regBit .timeEvent 0)) (exec (.referenceMeasurement ⟨-100, 0⟩) (measured 1 .acquiring 15))
      = some (.locked, -100 * (oneNs : Int), true) := by decide +kernel
theorem test_far_measurement :
    after (fun t => (t.time.state, t.time.good, t.time.stepPending.map fun p => p.1 / (oneNs : Int))) (exec (.referenceMeasurement ⟨1001, 3⟩) (measured 2 .locked 15))
      = some (TimeState.acquiring, 0, some 1001) := by decide +kernel
/-- R344: a reference is lost after 3 s without one. -/
theorem test_reference_loss :
    after (fun t => (t.time.state, t.regBit .timeEvent 1)) (exec .referenceLoss (later 3000000000 (measured 2 .locked 16))) = some (.holdover, true) ∧
    after (fun t => t.time.state) (exec .referenceLoss (later 2999999999 (measured 2 .locked 16))) = some .locked := by decide +kernel
theorem test_holdover_expiry :
    after (fun t => t.time.state) (exec .holdoverExpiry (later 2000000000 (measured 2 .holdover 0))) = some .free ∧
    after (fun t => t.time.state) (exec .holdoverExpiry (later 1999999999 (measured 2 .holdover 0))) = some .holdover := by decide +kernel
theorem test_pps_edge :
    after (fun t => t.time.good) (exec (.ppsEdge .W ⟨7, 0⟩) (measured 4 .acquiring 3)) = some 4 ∧
    after (fun t => t.time.good) (exec (.ppsEdge .E ⟨7, 0⟩) (measured 4 .acquiring 3)) = some 3 := by decide +kernel
theorem test_ptp : after (fun t => t.time.ptp) (exec (.ptpEventMessage .E [1]) (clock 9 (base.setReg .timeCfg 8))) = some [(.E, 9, [1])] := by decide +kernel
theorem test_time_set :
    after (fun t => t.time.setPending) (exec (.timeSet .W 5) (srcOf 4 base)) = some (some 5) ∧
    after (fun t => (t.time.setPending, t.regBit .timeEvent 5)) (exec (.timeSet .W 5) (srcOf 3 base)) = some (none, true) := by decide +kernel
theorem test_time_cfg :
    after (fun t => t.reg .timeCfg) (exec (.timeCfg .E 4) base) = some 4 ∧
    after (fun t => (timeSrc t, t.regBit .timeEvent 5)) (exec (.timeCfg .E 5) base) = some (0, true) := by decide +kernel
/-- R342: under REF_SYNC, bi-level at 25 Hz has 625 lines. -/
theorem test_time_fmt :
    after (fun t => t.reg .timeFmt) (exec (.timeFmt .W 0x02710102) (srcOf 1 base)) = some 0x02710102 ∧
    after (fun t => (t.reg .timeFmt == 0x02710104, t.regBit .timeEvent 5)) (exec (.timeFmt .W 0x02710104) (srcOf 1 base)) = some (false, true) := by decide +kernel
theorem test_time_now :
    after (fun t => ((t.cluster .E).rdata, t.reg .timeLine)) (exec (.timeNow .E) { clock 77 base with time := { (clock 77 base).time with frame := 3, line := 2 } })
      = some (77, 0x30002) := by decide +kernel
theorem test_plog_arms :
    after (fun t => (t.reg .timePlogBase, t.time.plogNext)) (exec (.timePlogBase .W 0x2001) { base with time := { base.time with plogNext := 9 } })
      = some (0x2001, 0) := by decide +kernel
theorem test_plog_base_is_kept :
    after (fun t => (t.reg .timePlogBase, t.time.plogNext)) (exec (.timePlogBase .W 0x5001) { base.setReg .timePlogBase 0x2001 with time := { base.time with plogNext := 9 } })
      = some (0x2001, 9) := by decide +kernel
/-- Two entries wait at core 767; the log is armed at 0x2000 with 4,097 entries written. -/
def logged : State :=
  let e : PlogEntry := ⟨0x11, 0x22, 0x33, 0x44, 0x55, false, false, false⟩
  let s := (base.setReg .timePlogBase 0x2001).modCtx kZ fun c => { c with plog := [e, e] }
  { s with time := { s.time with plogNext := 4097 } }
theorem test_plog_write :
    after (fun t => ((t.ctx kZ).plog.length, t.memNat 0x2020 8, t.memNat 0x2028 8, t.memNat 0x2030 4)) (exec (.phaseLogEntryWrite kZ) logged)
      = some (1, 0x11, 0x22, 0x33) ∧
    after (fun t => (t.memNat 0x2034 2, t.memNat 0x2036 2, t.memNat 0x2038 2, t.memNat 0x203C 4)) (exec (.phaseLogEntryWrite kZ) logged)
      = some (0x44, 0x55, 767, 4097) := by decide +kernel
/-- Slice 1 reversed is 32; the share is in force. -/
def shared (n ns : Nat) : State := let s := clock ns base; { s with svc := { s.svc with share := n } }
theorem test_slice_start :
    after (fun t => (t.svc.slice, t.svc.held)) (exec .sliceStart (shared 32 625000)) = some (1, true) ∧
    after (fun t => (t.svc.slice, t.svc.held)) (exec .sliceStart (shared 33 625000)) = some (1, false) := by decide +kernel
/-- The deadline is line 3. -/
def pressed (ns : Nat) : State := let s := clock ns base; { s with svc := { s.svc with deadline := top + 3 * 2 ^ 32 + 2 ^ 16 } }
theorem test_deadline_line :
    after (fun t => (t.svc.missed, t.reg .svcMargin, t.regBit .svcEvent 0)) (exec .deadlineLineBegin (pressed 120000)) = some (true, top, true) := by
  decide +kernel
/-- A quiet window of lines 2 to 5 in every frame; lake channel 7 (5,000 ns) waits. -/
def quiet (ns : Nat) (rs : List Recal) : State :=
  let s := clock ns base
  { s with svc := { s.svc with qw := top + 5 * 2 ^ 32 + 2, recals := rs } }
theorem test_quiet_window :
    after (fun t => t.svc.recals.map (·.running)) (exec .quietWindowStart (quiet 195000 [⟨.lake 7, 0, false, false, true⟩, ⟨.stack 1, 0, false, false, true⟩])) = some [true, true] ∧
    after (fun t => t.svc.recals.map (·.running)) (exec .quietWindowStart (quiet 195001 [⟨.lake 7, 0, false, false, true⟩, ⟨.stack 1, 0, false, false, true⟩])) = some [false, true] := by
  decide +kernel
theorem test_recal_due :
    after (fun t => t.svc.recals) (exec (.recalibrationDue (.stack 15)) (later 64000000 base)) = some [⟨.stack 15, 64000000, true, false, true⟩] ∧
    after (fun t => t.svc.recals) (exec (.recalibrationDue (.stack 15)) (later 63999999 base)) = some [] := by decide +kernel
def recalAt (u : RecalUnit) (run req : Bool) (ns : Nat) : State := let s := later ns base; { s with svc := { s.svc with recals := [⟨u, 0, run, req, true⟩] } }
theorem test_recal_complete :
    after (fun t => (t.svc.recals, t.regFld .ctrlReqStatus 0 3)) (exec (.recalibrationComplete (.lake 63) true) (recalAt (.lake 63) true true 9)) = some ([], 1) := by
  decide +kernel
theorem test_recal_fails :
    after (fun t => (t.ready (.link 3), t.regFld .ctrlReqStatus 0 3, t.regBit .fltStatus 15)) (exec (.recalibrationComplete (.link 3) false) (recalAt (.link 3) true true 9))
      = some (false, 4, true) := by decide +kernel
theorem test_qw_starved :
    after (fun t => t.regBit .svcEvent 2) (exec (.qwStarved (.link 3)) (recalAt (.link 3) false false 1000000001)) = some true ∧
    after (fun t => t.regBit .svcEvent 2) (exec (.qwStarved (.link 3)) (recalAt (.link 3) false false 1000000000)) = some false := by decide +kernel
theorem test_margin_clear :
    after (fun t => t.reg .svcMarginMin) (exec (.svcMarginMinClr .W top) (base.setReg .svcMarginMin 0x200000007)) = some 0xFFFFFFFF ∧
    after (fun t => t.reg .svcMarginMin) (exec (.svcMarginMinClr .W 0) (base.setReg .svcMarginMin 0x200000007)) = some 0x200000007 := by decide +kernel

/-! ### Witnesses of the statements on time and the service controls -/

theorem witness_FrameStarts :
    (ending3.live = true ∧ frameDue ending3 = true ∧ frameStartAt ending3 = 120000000 * oneNs ∧ stepDue ending3 = false ∧ Stored.timeUnit ending3.time.active ∉ ending3.broken ∧
      ending3.time.setPending = none ∧ timeSrc ending3 = 0 ∧ shareAdapt (ending3.reg .svcShareCfg) = false ∧ ending3.faults.inFrost = false) ∧
    (let s := srcOf 1 (clock 7 base)
     s.live = true ∧ frameDue s = true ∧ timeSrc s = 1 ∧ stepDue s = false ∧ s.time.setPending = none) ∧
    (let s := srcOf 3 (clock 50 base)
     let t := { s with time := { s.time with chainFrame := some (40, 9) } }
     t.live = true ∧ frameDue t = true ∧ timeSrc t = 3 ∧ stepDue t = false ∧ t.time.setPending = none) ∧
    ({ ending3 with faults := frozen.faults }.live = true ∧ { ending3 with faults := frozen.faults }.faults.inFrost = true) ∧
    (let s := { ending3 with time := { ending3.time with setPending := some 1 } }
     s.live = true ∧ frameDue s = true ∧ (s.config.elected = false ∨ s.time.active = s.config.senior)) ∧
    (let s := { ending3 with time := { ending3.time with active := .E } }
     s.live = true ∧ frameDue s = true ∧ ¬(s.config.elected = false ∨ s.time.active = s.config.senior)) ∧
    (let s := { ending3 with time := { ending3.time with stepPending := some (3 * oneNs, 0) } }
     s.live = true ∧ frameDue s = true ∧ stepDue s = true) := by decide +kernel

theorem witness_TimeReferences :
    (let s := measured 1 .acquiring 15
     s.live = true ∧ timeSrc s = 1 ∧ errSize (100 * (oneNs : Int)) ≤ lockNs s * oneNs ∧ errSize (100 * (oneNs : Int)) ≤ stepLimit s ∧
      lockNs s * oneNs < errSize (1001 * (oneNs : Int)) ∧ stepLimit s < errSize (1001 * (oneNs : Int))) ∧
    (let s := measured 4 .locked 15
     s.live = true ∧ timeSrc s = 4 ∧ s.time.active = .W ∧ discUnit s = s.time.active) ∧
    (let s := later 3000000000 (measured 2 .locked 16)
     s.live = true ∧ referenceGone s = true ∧ holdS s ≠ 0) ∧
    (let s := later 3000000000 ((measured 2 .locked 1).setReg .timeCfg 2)
     s.live = true ∧ referenceGone s = true ∧ holdS s = 0) ∧
    (let s := later 2000000000 (measured 2 .holdover 0)
     s.live = true ∧ s.time.state = .holdover ∧ holdS s ≠ 255 ∧ s.time.holdSince + holdS s * 1000000000 ≤ s.time.elapsed) ∧
    base.live = true ∧ base.ready (.mgmt .W) = true ∧ base.regBit .timeCfg 3 = false := by decide +kernel

/-- A follower under SRC 3 whose clockwise direction alone, or both, have been silent for the limit. -/
def silent (both : Bool) : State :=
  let s := later (1024 * (Config.chainSilence + 1)) ((measured 3 .locked 16).setReg .timeCfg (cfgTime 3))
  { s with chain := { Chain.reset with cwHops := some 3, ccwHops := some 4, ccwSeen := if both then 0 else 1024 * (Config.chainSilence + 1) } }

theorem dirSilent_of (s : State) (b : Bool) (n m : Nat) (ht : s.time.elapsed = m) (hm : m = 1024 * (Config.chainSilence + 1))
    (hh : (if b then s.chain.ccwHops.isSome else s.chain.cwHops.isSome) = true) (hn : (if b then s.chain.ccwSeen else s.chain.cwSeen) = n) :
    dirSilent s b = decide (m ≤ m - n) := by
  unfold dirSilent
  simp only [hh, hn, ht, ← hm, Bool.true_and]

theorem witness_TimeReferences_chain (both : Bool) :
    timeSrc (silent both) = 3 ∧ leads (silent both) = false ∧ dirSilent (silent both) false = true ∧ dirSilent (silent both) true = both ∧
      (silent both).chain.ccwHops.isSome = true ∧ (silent both).time.state = .locked := by
  have h (b : Bool) : timeSrc (silent b) = 3 ∧ leads (silent b) = false := by cases b <;> decide +kernel
  have hp : 0 < 1024 * (Config.chainSilence + 1) := Nat.mul_pos (by decide) (Nat.succ_pos _)
  refine ⟨(h both).1, (h both).2, ?_, ?_, rfl, rfl⟩
  · rw [dirSilent_of (silent both) false 0 (1024 * (Config.chainSilence + 1)) rfl rfl rfl rfl]
    generalize 1024 * (Config.chainSilence + 1) = k
    exact decide_eq_true (Nat.le_refl k)
  · rw [dirSilent_of (silent both) true (if both then 0 else 1024 * (Config.chainSilence + 1))
      (1024 * (Config.chainSilence + 1)) rfl rfl rfl rfl]
    revert hp
    generalize 1024 * (Config.chainSilence + 1) = k
    intro hp
    cases both
    · exact decide_eq_false (by simp only [Bool.false_eq_true, if_false]; omega)
    · exact decide_eq_true (Nat.le_refl k)

theorem witness_TimeRegisters :
    (∀ n ∈ [0, 1, 2, 3, 4], clusterRuns (srcOf n base) .W = true ∧ timeSrc (srcOf n base) = n) ∧
    ((7 : Word) &&& Reg.reserved .timeSet = 0 ∧ (5 : Word) &&& Reg.reserved .timeCfg = 0 ∧ (4 : Word) &&& Reg.reserved .timeCfg = 0 ∧
      fmt25 &&& Reg.reserved .timeFmt = 0 ∧ (0x2001 : Word) &&& Reg.reserved .timePlogBase = 0) ∧
    base.clusters.length = 2 ∧ base.broken = [] ∧
    (base.regBit .timePlogBase 0 = false ∧ logFits base 0x2000 = true ∧ logFits base (Word.fld 0x7FFFFFFF000 12 31 * 2 ^ 12) = false ∧
      (0x7FFFFFFF000 : Word) &&& Reg.reserved .timePlogBase = 0) ∧
    (let s := base.setReg .timePlogBase 0x2001
     s.regBit .timePlogBase 0 = true ∧ logFits s (s.regFld .timePlogBase 12 31 * 2 ^ 12) = true ∧ clusterRuns s .W = true) := by decide +kernel

theorem witness_EventsSlicesAndPhases :
    ((lined 80005).live = true ∧ levNext (lined 80005) 15 = true ∧ yieldsToFrame (lined 80005) 15 = false) ∧
    ((shared 32 625000).live = true ∧ sliceAt (shared 32 625000).time 1 ≤ (shared 32 625000).time.at) ∧
    (let s := pressed 120000
     s.live = true ∧ deadEn s.svc.deadline = true ∧ s.svc.margin = none ∧ deadLine s.svc.deadline < fmtLines s.time.fmt ∧
      lineStart s.time (deadLine s.svc.deadline) ≤ s.time.at) ∧
    (logged.working = true ∧ (logged.ctx kZ).plog.length = 2 ∧ logged.regBit .timePlogBase 0 = true ∧ portFree logged (plogAddr logged) 32 (bridgeRequester logged.time.active false) true = true ∧
      logged.broken = [] ∧ SMap.get? logged.glitches (plogAddr logged / 64 * 64) = none ∧
      portOut logged (plogAddr logged / 64 * 64) = false ∧ SMap.get? logged.marks (plogAddr logged / 64 * 64) = none) ∧
    clusterRuns base .W = true ∧ top &&& Reg.reserved .svcMarginMin = 0 := by decide +kernel

theorem witness_Recalibrations :
    (let s := later 64000000 base
     s.working = true ∧ recalFitted s (.stack 15) = true ∧ s.ready (recalFn (.stack 15)) = true ∧ (∀ x ∈ s.svc.recals, x.unit ≠ .stack 15) ∧
      SMap.getD s.svc.calLast (recalKey (.stack 15)) 0 + recalPeriod (.stack 15) ≤ s.time.elapsed) ∧
    (windowOpen (quiet 195000 [⟨.lake 7, 0, false, false, true⟩]) = true ∧ (quiet 195000 []).live = true) ∧
    (let s := recalAt (.link 35) true true 9
     s.live = true ∧ (s.svc.recals.find? fun x => x.unit = .link 35 && x.running) = some ⟨.link 35, 0, true, true, true⟩) ∧
    (let s := recalAt (.link 3) false false 1000000001
     s.live = true ∧ (s.svc.recals.find? fun x => x.unit = .link 3 && !x.running && x.due) = some ⟨.link 3, 0, false, false, true⟩ ∧
      0 + 1000000000 < s.time.elapsed) := by decide +kernel

/-! ### SHAKE256, Ed448 and images -/

/-- The first bytes of SHAKE256 of the empty message (FIPS 202). -/
theorem test_shake256 : shake256 [] 8 = [0x46, 0xB9, 0xDD, 0x2B, 0x0B, 0xA8, 0x8D, 0x13] := by decide +kernel
/-- The blank vector of RFC 8032, 7.4, its numbers read from their bytes least significant first. -/
def rfcKey : List Byte := toBytes 57 0x5BF99800A249752E038F2F49945BFCA3394E042FCC3F8A8C52A348E3F60E96C9639F8CFADD349F926CBF3E51C889BE32D6108D80CB62A5826C
def rfcPub : List Byte := toBytes 57 0x806125E8AFBE1AFAD16C0FE5F13D78D61B06C7469B7624F1ED7867E9805DA70E8A1F0EA7852434A11D6AD46A61EC87E72CFD61B4599B44D75F
theorem test_ed448 : edPublic rfcKey = rfcPub := by decide +kernel
/-- A boot image for device 5: header, three sections of which two are empty, its configuration at 0x1000, signed outside the model with the key of
the vector (Python's hashlib and the formulas of RFC 8032). -/
def mezia : List Byte :=
  (toBytes 128 0x0000000000000000000000000000000000000000000000806125E8AFBE1AFAD16C0FE5F13D78D61B06C7469B7624F1ED7867E9805DA70E8A1F0EA7852434A11D6AD46A61EC87E72CFD61B4599B44D75F000000000000000000000000000000000000000000000003000000000000110000000000000000070300000141495A4D
    ++ toBytes 128 0x0000000000000000000000000000000000000000000010000000000000000002BEC4B7B3AC2E294086B49A47491C82FCF692B5679D0105CB00F2C0D8DDC45DD72F76D56E64270CB5821BB862EA52CD3F24EB3E74EB3F3B23138DA80B2BDDB9460000000000000000000000000000000000000000000010000000000000000001
    ++ toBytes 128 0x63DE0B1F15E05812ACD5DE495A1806859A8F17A8E35663CA3718E90EDA57624B0000000000000000000000000000010000000000000010000000000000000003BEC4B7B3AC2E294086B49A47491C82FCF692B5679D0105CB00F2C0D8DDC45DD72F76D56E64270CB5821BB862EA52CD3F24EB3E74EB3F3B23138DA80B2BDDB946
    ++ toBytes 128 0x5E2F26B149520889480B0E080D28CAD7C39334C8B2789321901C04B463D9D612B9C0390503371A8091C30E36250D2E50816EF11BE3126661C4683FD49A3F1689A27BC0959EACF23EEBC4993EAD83BEF9F36A44401B6E91965B47B6415AB6E1A0684C6FBDCFDEDFFB4C655D28150D7EA901DDBB83CA5EA3A5D4EE6F2BAF5D1F54
    ++ toBytes 32 0x109FF4B07F6FEBA32C2DDE055B3C1D9F4
    ++ List.replicate 3552 0 ++ toBytes 24 0x3E8000200000000000164000000FF0000000005 ++ List.replicate 232 0)
/-- An OTP with that key in slot 0 and no floor. -/
def keyed : Sec :=
  { Sec.reset with floors := [], keys := [0x43823B38B482D41FB46658CB2EDF3B23F75EFFECC38F71E5089BAECDF01C920C11C30055B64084FC23C6440442D53D87A8B0078D99F1AFA90280C69372D2492A] }
theorem mezia_magic : checkMagic (fileRead mezia) true = true := by decide +kernel
theorem mezia_layout : checkLayout (fileRead mezia) = true := by decide +kernel
theorem mezia_key : checkKey (fileRead mezia) keyed = true := by decide +kernel
theorem mezia_sig : checkSig (fileRead mezia) = true := by decide +kernel
theorem mezia_digests : checkDigests (fileRead mezia) = true := by decide +kernel
theorem mezia_floor : checkFloor (fileRead mezia) keyed = true := by decide +kernel
theorem mezia_compat : checkCompat (fileRead mezia) base.part = true := by decide +kernel
theorem mezia_valid : imageReason (fileRead mezia) true keyed base.part = 0 := by
  simp [imageReason, mezia_magic, mezia_layout, mezia_key, mezia_sig, mezia_digests, mezia_floor, mezia_compat]

/-! ### Reset -/

def withMem (s : State) : State := { s with mem := [(5, 6)], regs := (s.setReg .ctrlPart 1).regs }
theorem test_reset_n_rise :
    after (fun t => (t.live, t.power.strap)) (exec (.resetNRise true) State.reset) = some (State.reset.power.pwrGood && State.reset.power.sysclkGood, true) := by decide +kernel
theorem test_reset_n_fall : after (fun t => (t.live, t.regs, t.mem)) (exec .resetNFall (withMem base)) = some (false, [], [(5, 6)]) := by decide +kernel
theorem test_power_fail : after (fun t => (t.live, t.regs, t.mem)) (exec .inputPowerFail (withMem base)) = some (false, [], []) := by decide +kernel
def unpowered : State := { base with power := { base.power with pwrGood := false } }
theorem test_power_up :
    after (fun t => t.live) (exec (.powerUp ⟨40000, false⟩) unpowered) = some true ∧ after (fun t => t.live) (exec (.powerUp ⟨39999, false⟩) unpowered) = some false := by decide +kernel
theorem test_sysclk_fault : after (fun t => (t.live, t.regs)) (exec .sysclkFault (withMem base)) = some (false, []) := by decide +kernel
theorem test_sysclk_good : after (fun t => t.live) (exec .sysclkGood { base with power := { base.power with sysclkGood := false } }) = some true := by decide +kernel
theorem test_devreset : after (fun t => (t.live, t.regs, t.config.accepted)) (exec (.devreset .E) (withMem base)) = some (true, [], false) := by decide +kernel

/-! ### Copies and the election -/

/-- The flash of a half, the claim it has made and the claim it has heard; not elected. -/
def thawed (h : Half) (f : List Host.Cell) (own : Claim) : State :=
  let s : State := { base with config := DevConfig.reset }
  s.modBoot h fun b => { b with flash := f, fitted := true, checked := own != .unchecked, claim := own }
/-- A header with one entry, of type CONFIG at 0x1000, and there the configuration of device 5, TIME_FMT 25 Hz. -/
def copy5 : List Host.Cell :=
  flashWrite (flashWrite (flashWrite (flashWrite [] 8 (toBytes 8 41)) 0x18 (toBytes 8 1)) 0x80 (toBytes 24 (0x1000 * 2 ^ 64 + 3)))
    0x1000 (toBytes 24 0x3E8000200000000000164000000FF0000000005)
theorem test_copy_check_blank : after (fun t => ((t.boot .E).reason, (t.boot .E).claim)) (exec (.copyCheckComplete ⟨.E, false⟩) (thawed .E [] .unchecked))
      = some (1, .none) := by decide +kernel
theorem test_heartbeat_send :
    after (fun t => ((t.boot .W).tx, (t.boot .W).hbDue)) (exec (.heartbeatSend .W) (later 7 (thawed .W [] (.seq 41)))) = some ([⟨.seq 41, false⟩], 1000007) := by
  decide +kernel
/-- West claims 41, east 41 and 42: west wins the tie; the larger wins. -/
theorem test_election :
    after (fun t => (t.config.elected, t.config.senior, t.config.devid)) (exec (.heartbeatReceive .W ⟨.seq 41, false⟩) (thawed .W copy5 (.seq 41)))
      = some (true, .W, 5) ∧
    after (fun t => (t.config.senior, t.time.active, t.regFld .timeCfg 8 8)) (exec (.heartbeatReceive .E ⟨.seq 41, false⟩) (thawed .E copy5 (.seq 42)))
      = some (.E, .E, 100) := by decide +kernel
theorem test_no_config :
    after (fun t => (t.config.noConf, t.config.accepted, t.faults.signal.isSome)) (exec (.heartbeatReceive .W ⟨.none, false⟩) (thawed .W [] .none))
      = some (true, false, true) := by decide +kernel
theorem test_silent :
    after (fun t => t.config.eqxCause) (exec (.silent .W) (later 50000000 (thawed .W [] .none))) = some 1 ∧
    after (fun t => t.config.eqxCause) (exec (.silent .W) (later 49999999 (thawed .W [] .none))) = some 0 := by decide +kernel
theorem test_lost :
    after (fun t => (t.config.eqxCause, t.faults.signal.isSome)) (exec (.lost .E) (later 3000000 base)) = some (2, true) ∧
    after (fun t => t.config.eqxCause) (exec (.lost .E) (later 2999999 base)) = some 0 := by decide +kernel
theorem test_handover :
    after (fun t => t.config.handover) (exec (.handover .W) base) = some true ∧ after (fun t => t.config.handover) (exec (.handover .E) base) = some false := by
  decide +kernel
/-- A recovery image that is no image is rejected. -/
def waitsForImage : State := let s := frozen; { s with config := { DevConfig.reset with noConf := true }, secs := [keyed, keyed] }
theorem test_bad_recovery_image : after (fun t => t.faults.inFrost) (exec (.recoveryImageWrite .W ⟨ascii "mezia", [1, 2, 3]⟩) waitsForImage) = some true := by decide +kernel

/-! ### Readiness and clusters -/

def unready : State :=
  { (base.setReg .ctrlReadyGrid 0).setReg .ctrlReadyUnit 0 with
    time := { base.time with elapsed := 2000000001 }
    power := { base.power with vset := [700, 700, 700, 700], sample := { base.power.sample with vmeas := [700, 700, 700, 700] } } }
theorem test_ready_rises :
    after (fun t => (t.ready (.field 3), t.grid.running, t.ready (.field 2))) (exec (.readyBitRise (.field 3)) unready) = some (true, true, false) := by decide +kernel
theorem test_stitch_waits : after (fun t => t.ready (.stitch 3)) (exec (.readyBitRise (.stitch 3)) unready) = some false := by decide +kernel
theorem test_thaw_deadline :
    after (fun t => lastRec t) (exec (.thawDeadlineExpiry (.field 0)) unready) = some (12, 9) ∧
    after (fun t => t.faults.seq) (exec (.thawDeadlineExpiry (.field 0)) { unready with time := { base.time with elapsed := 2000000000 } }) = some 0 := by
  decide +kernel
theorem test_mgmt_lock : after (fun t => (t.ready (.mgmt .E), t.ready (.mgmt .W), lastRec t)) (exec (.mgmtBlockLockTimeout .E) base) = some (false, true, (11, 13)) := by
  decide +kernel
theorem test_machine_check :
    after (fun t => ((t.cluster .W).inService, t.faults.signal.isSome)) (exec (.clusterMachineCheck .W false) base) = some (false, true) ∧
    after (fun t => ((t.cluster .E).inService, t.faults.signal.isSome)) (exec (.clusterMachineCheck .E true) base) = some (false, false) := by decide +kernel
theorem test_cluster_private : 
    after (fun t => (t.cluster .E).priv) (exec (.clusterAccess .E true (2 ^ 47 + sramBase + 9) 2 0x1234) base)
      = some [(sramBase + 9, 0x34), (sramBase + 10, 0x12)] ∧
    after (fun t => (t.cluster .E).priv) (exec (.clusterAccess .E true (2 ^ 47 + 9) 2 0x1234) base) = some [] := by decide +kernel
theorem test_cluster_faults :
    after (fun t => ((t.cluster .E).accessFault, lastRec t)) (exec (.clusterAccess .E true (2 ^ 63) 8 1) base) = some (true, (4, 1)) := by decide +kernel
theorem test_mgmt_frame : after (fun t => ((t.cluster .W).priv, (t.cluster .W).frames)) (exec (.mgmtFrameReceive .W [7] (2 ^ 47 + sramBase)) base)
      = some ([(sramBase, 7)], 1) := by
  decide +kernel

/-! ### Requests and security -/

def freshCore : State := { base with cores := [(3, ({ Core.reset with active := .B } : Core).setCtx .B fresh)] }
theorem test_self_test :
    after (fun t => (t.svc.tests, t.regFld .ctrlReqStatus 0 3)) (exec (.fieldSelfTest .W 3) freshCore) = some ([(3, false)], 2) ∧
    after (fun t => (t.svc.tests, t.regFld .ctrlReqStatus 0 3)) (exec (.fieldSelfTest .W 4) freshCore) = some ([], 5) := by decide +kernel
theorem test_stack_recal : after (fun t => t.svc.recals) (exec (.stackRecalibration .W 15) base) = some [⟨.stack 15, 0, true, true, false⟩] := by decide +kernel
theorem test_lake_recal : after (fun t => t.svc.recals) (exec (.lakeChannelRecalibration .E 0) freshCore) = some [⟨.lake 0, 0, false, true, false⟩] := by decide +kernel
theorem test_link_recal :
    after (fun t => t.svc.recals) (exec (.linkRecalibration .E 35) base) = some [⟨.link 35, 0, true, true, false⟩] ∧
    after (fun t => (t.svc.recals, t.regFld .ctrlReqStatus 0 3)) (exec (.linkRecalibration .E 36) base) = some ([], 5) := by decide +kernel
def testing (f : Nat) : State := { base with svc := { base.svc with tests := [(f, true)] } }
theorem test_self_test_ends :
    after (fun t => (t.svc.tests, t.regFld .ctrlReqStatus 0 3)) (exec (.selfTestComplete 2 true) (testing 2)) = some ([], 1) ∧
    after (fun t => (t.ready (.field 2), t.regFld .ctrlReqStatus 0 3)) (exec (.selfTestComplete 2 false) (testing 2)) = some (false, 4) := by decide +kernel
theorem test_ctrl_part :
    after (fun t => (t.reg .ctrlPart, t.regBit .ctrlEqx 8)) (exec (.ctrlPart .E 0xF3) (base.setReg .ctrlPart 3)) = some (0xF3, false) ∧
    after (fun t => (t.reg .ctrlPart, t.regBit .ctrlEqx 8)) (exec (.ctrlPart .E 0xF7) (base.setReg .ctrlPart 3)) = some (0xF3, true) := by decide +kernel
/-- Both engines with floor 40; the copy in use has SEQ 41 and slot 2. -/
def secured : State :=
  { base with secs := [{ keyed with floors := [40] }, { keyed with floors := [40] }], config := { base.config with seq := 41, slot := 2 } }
theorem test_sec_floor :
    after (fun t => (t.sec .E).floors) (exec (.secFloor .E 41) secured) = some [40, 41] ∧
    after (fun t => ((t.sec .E).floors, (t.sec .E).wign)) (exec (.secFloor .E 42) secured) = some ([40], true) := by decide +kernel
theorem test_revoke :
    after (fun t => ((t.sec .W).revoked, (t.sec .W).wign)) (exec (.revoke .W 8) secured) = some (8, false) ∧
    after (fun t => ((t.sec .W).revoked, (t.sec .W).wign)) (exec (.revoke .W 4) secured) = some (0, true) := by decide +kernel
/-- R382: MR3 of zeros extended with 64 bytes of zero is SHAKE256 of 128 zeros (checked with Python's hashlib). -/
theorem test_extend :
    after (fun t => ((t.sec .W).mrs.getD 3 0).toNat % 2 ^ 64) (exec (.extend .W 3) secured) = some 6231936057970755106 ∧
    after (fun t => (t.sec .W).wign) (exec (.extend .W 2) (secured.modSec .W fun x => { x with mrLock := true })) = some true := by decide +kernel
theorem test_attestation_start :
    after (fun t => ((t.sec .W).attAddr, (t.sec .W).attNonce)) (exec (.attestationStart .W (top + 0x1000)) secured) = some (0x1000, some [0, 0, 0, 0]) := by
  decide +kernel
def attesting : State := secured.modSec .W fun x => { x with attAddr := 0x1000, attNonce := some [1, 2, 3, 4] }
theorem test_attestation :
    after (fun t => ((t.sec .W).attDone, (t.sec .W).attNonce)) (exec (.attestationComplete .W) attesting) = some (true, none) ∧
    (reportBytes attesting [1, 2, 3, 4]).take 8 = [0x4B, 0x41, 0x54, 0x52, 1, 0, 5, 0] ∧
    ofBytes (((reportBytes attesting [1, 2, 3, 4]).drop 0x20).take 8) = 1 := by decide +kernel

/-! ### Witnesses of the statements on reset, boot and control -/

/-- R426: a row of its table in each of the four conditions of the module. -/
theorem test_outputs : outputs unpowered = ⟨false, none, false, .off, true, none, false, none⟩ ∧
    outputs State.reset = ⟨true, none, false, .idle, true, some false, false, none⟩ ∧
    outputs base = ⟨true, none, false, .perPort, true, some true, true, none⟩ ∧
    (let o := outputs (tick (enterFrost base)); (o.frostN, o.coolReq, o.tx)) = (some false, true, .perPort) := by decide +kernel

theorem witness_Resets :
    State.reset.power.resetN = false ∧ base.power.resetN = true ∧ base.power.pwrGood = true ∧ base.power.sysclkGood = true ∧
    unpowered.power.pwrGood = false ∧ { base with power := { base.power with sysclkGood := false } }.power.sysclkGood = false ∧ clusterRuns base .W = true := by
  decide +kernel

theorem witness_CopiesAndElection :
    (∀ p ∈ [(Half.E, thawed .E [] .unchecked), (.W, thawed .W copy5 (.seq 41)), (.W, thawed .W [] .none), (.W, later 50000000 (thawed .W [] .none)), (.E, base)],
      p.2.live = true ∧ p.2.boots.length = 2) ∧
    ((thawed .E [] .unchecked).boot .E).checked = false ∧
    (((thawed .W [] .none).cluster .W).inService = true ∧ ((thawed .W [] .none).boot .W).hbDue ≤ (thawed .W [] .none).time.elapsed) ∧
    (let s := thawed .W copy5 (.seq 41)
     s.config.handover = false ∧ s.config.elected = false ∧ s.config.noConf = false ∧ (s.boot .W).claim = .seq 41 ∧ Claim.seq 41 ≠ .unchecked ∧
      electSenior (.seq 41) (.seq 41) = some .W ∧ electSenior .none .none = none ∧ (imFind (copyRead s .W) 3).isSome = true) ∧
    (let s := { base with config := { base.config with handover := true, hoSeen := [.E] } }
     s.config.elected = true ∧ s.config.handover = true ∧ s.config.hoSeen = [otherHalf .W]) ∧
    (let s := base.modBoot .E fun b => { b with sentSenior := 2, peer := some ⟨.none, true⟩ }
     s.config.elected = true ∧ s.config.handover = false ∧ 2 ≤ (s.boot .E).sentSenior ∧ (s.boot .E).peer = some ⟨.none, true⟩ ∧
      s.faults.inFrost = false ∧ s.config.eqxCause ≠ 3) ∧
    (let s := later 50000000 (thawed .W [] .none)
     s.working = true ∧ (s.boot .W).checked = true ∧ s.config.elected = false ∧ (s.boot .W).checkedAt + 50000000 ≤ s.time.elapsed ∧
      (s.boot .W).peerAt + 50000000 ≤ s.time.elapsed) ∧
    (let s := later 3000000 base
     s.working = true ∧ s.config.elected = true ∧ (s.boot .E).peerAt + 3000000 ≤ s.time.elapsed ∧ s.config.acceptNs + 3000000 ≤ s.time.elapsed) ∧
    (clusterRuns base .W = true ∧ clusterRuns base (otherHalf .W) = true ∧ base.config.senior = .W ∧ base.config.elected = true ∧ base.config.handover = false) := by
  decide +kernel

theorem witness_CopiesAndElection_recovery :
    waitsForImage.live = true ∧ waitsForImage.boots.length = 2 ∧ romWaits waitsForImage .W = true ∧ waitsForImage.faults.batch = none ∧
    imageReason (fileRead mezia) true (waitsForImage.sec .W) waitsForImage.part = 0 :=
  ⟨by decide +kernel, by decide +kernel, by decide +kernel, by decide +kernel, mezia_valid⟩

theorem witness_Readiness :
    mayRise unready (.field 3) = true ∧ (unready.working = true ∧ late unready (.field 0) = true) ∧
    (base.live = true ∧ base.ready (.mgmt .E) = true ∧ base.clusters.length = 2) ∧
    (∀ h ∈ [Half.W, .E], (base.cluster h).inService = true ∧ base.ready (.cluster h) = true) ∧ base.config.elected = true ∧ base.config.senior = .W := by decide +kernel

theorem witness_ClusterAccesses :
    base.clusters.length = 2 ∧ clusterRuns base .E = true ∧ 2 ^ 47 / 2 ^ 43 % 2 ^ 21 = 16 ∧ (2 ^ 63 / 2 ^ 43 % 2 ^ 21 ≠ 0 ∧ 2 ^ 63 / 2 ^ 43 % 2 ^ 21 ≠ 16) ∧
    (inRegs base 0xFFC = false ∧ inRegs base storeBase = false ∧ base.faults.inFrost = false ∧ base.broken = [] ∧ base.faults.batch = none) ∧
    (within sramBase sramSize (sramBase + sramSize - 8) 8 = true ∧ within 0 romSize (romSize - 8) 8 = true ∧
      within flashBase flashSize (flashBase + flashSize - 8) 8 = true ∧ ((base.modBoot .E fun b => { b with fitted := true }).boot .E).fitted = true) ∧
    ((accessDenied base .E (storeBase + 0x17FFFC) 8 true).isSome = true) ∧
    (base.region 0xFFC = .hbm ∧ accessDenied base .E 0xFFC 8 true = none ∧ accessDenied base .E 0xFFC 8 false = none ∧
      memoryFree base .E 0xFFC 8 true = true ∧ memoryFree base .E 0xFFC 8 false = true ∧
      (portWrite (passPort base 0xFFC 8 (bridgeRequester .E false)) 0xFFC (toBytes 8 7)).1 = true ∧
      (portRead (passPort base 0xFFC 8 (bridgeRequester .E false)) 0xFFC 8).1.isSome = true) ∧
    (base.region storeBase = .store 0 0 ∧ accessDenied base .E storeBase 8 true = none) := by decide +kernel

/-- The word that has a management port send one byte of its SRAM. -/
def sendOne : Word := BitVec.ofNat 64 (1 * 2 ^ 48 + 2 ^ 47 + sramBase)

theorem test_mgmt_frame_sent :
    after (fun t => (t.cluster .E).sent) (exec (.clusterAccess .E true (2 ^ 47 + macSend) 8 sendOne) base) = some [[0]] := by decide +kernel

theorem witness_ClusterAccesses_frames :
    (Word.fld sendOne 48 16 = 1 ∧ Word.fld sendOne 0 48 / 2 ^ 47 = 1 ∧ within sramBase sramSize (Word.fld sendOne 0 48 % 2 ^ 47) 1 = true) ∧
    (base.live = true ∧ base.ready (.mgmt .E) = true ∧ (base.cluster .E).inService = true ∧ romWaits base .E = false) ∧
    ((2 ^ 47 + sramBase) / 2 ^ 47 = 1 ∧ within sramBase sramSize ((2 ^ 47 + sramBase) % 2 ^ 47) 9216 = true) ∧
    (let s := base.setReg .ctrlPart 0xFF
     let a := partWEnd false
     a / 2 ^ 47 ≠ 1 ∧ frameFree s .E a 1 true = true ∧ (portWrite (passPort s a 1 (bridgeRequester .E false)) a [7]).1 = true) ∧
    romWaits waitsForImage .W = true := by decide +kernel

theorem witness_ControlRequests :
    clusterRuns base .W = true ∧ clusterRuns frozen .W = true ∧ frozen.faults.inFrost = true ∧ base.faults.inFrost = false ∧ (∀ x ∈ base.svc.tests, x.1 ≠ 3) ∧
    (recalFitted base (.link 36) = false ∧ recalFitted base (.link 35) = true ∧ recalFitted base (.stack 15) = true ∧ recalFitted base (.lake 0) = true ∧
      (∀ x ∈ base.svc.recals, x.unit ≠ .link 35)) ∧
    (let r : Recal := ⟨.link 35, 3, false, false, true⟩
     recalOf { base with svc := { base.svc with recals := [r] } } (.link 35) = some r ∧ r.requested = false) ∧
    ((testing 2).live = true ∧ (2, true) ∈ (testing 2).svc.tests) ∧ (0xF7 : Word) &&& Reg.reserved .ctrlPart = 0 ∧
    Word.fld 0xF7 (4 * halfNum (otherHalf .E)) 4 ≠ (base.setReg .ctrlPart 3).regFld .ctrlPart (4 * halfNum (otherHalf .E)) 4 := by decide +kernel

theorem witness_SecurityEngines :
    secured.secs.length = 2 ∧ clusterRuns secured .E = true ∧ (secured.sec .E).floor = 40 ∧ secured.config.seq = 41 ∧
    ((41 : Word) &&& Reg.reserved .secFloor = 0 ∧ (40 : Nat) ≤ (41 : Word).toNat ∧ (secured.sec .E).floors.length < 16 ∧ (39 : Word).toNat < 40) ∧
    (secured.config.accepted = true → secured.config.slot ≠ 3) ∧
    ((3 : Word) &&& Reg.reserved .secExtCmd = 0 ∧ Word.fld 3 0 3 = 3 ∧ Word.fld 2 0 3 = 2 ∧ (2 : Word) &&& Reg.reserved .secExtCmd = 0) ∧
    ((secured.modSec .W fun x => { x with mrLock := true }).sec .W).mrLock = true ∧
    ((top + 0x1000) &&& Reg.reserved .secAtt = 0 ∧ Word.bit (top + 0x1000) 63 = true ∧ (secured.sec .W).attNonce = none) := by decide +kernel

theorem witness_SecurityEngines_report :
    attesting.live = true ∧ (attesting.sec .W).attNonce = some [1, 2, 3, 4] ∧ attesting.region (attesting.sec .W).attAddr = .hbm ∧
    (attestation attesting .W [1, 2, 3, 4]).length = 1248 ∧ attesting.region (0x1000 + 1248 - 1) = .hbm ∧
    reportFree attesting .W 0x1000 1248 = true ∧
    (portWrite (passPort attesting 0x1000 1248 (bridgeRequester .W false)) 0x1000 (attestation attesting .W [1, 2, 3, 4])).1 = true := by decide +kernel

/-! ### Check units -/

/-- The CRC-32 of Ethernet in P0 of unit 15: its check value over "123456789" is 0xCBF43926. -/
def params32 (s : State) : State :=
  (((s.setReg (.chkPoly 15 0) 0x04C11DB7).setReg (.chkInit 15 0) 0xFFFFFFFF).setReg (.chkXorout 15 0) 0xFFFFFFFF).setReg (.chkPctl 15 0) 0x320
/-- A CHK of 9 bytes in session 1: START, FINAL, COMPARE and GATE. -/
def chkOf (seed : Nat) : BitVec 512 := mkDesc 11 14 15 (here 0x1000) (here 0x2000) 1 9 9 0 seed 0x3C1 0
/-- Unit 15 with that descriptor at the front of its queue. -/
def checkJob (seed : Nat) (ran bad : Bool) : ChkJob := ⟨0, 0, chkOf seed, ascii "123456789", ran, bad⟩
def checking (seed : Nat) (ran : Bool) (crc : Word) : State :=
  let s := params32 (flying (jobOf (chkOf seed) .unit))
  let s := s.setChkUnit 15 { s.chkUnit 15 with queue := [checkJob seed ran false] }
  s.setSession 15 1 { s.session 15 1 with crc := crc, params := paramSet s 15 0 }
theorem test_chk_run :
    after (fun t => (crcFinal (t.session 15 1).params (t.session 15 1).crc, (t.chkUnit 15).queue.map (·.ran))) (exec (.chkDescriptorRun 15) (checking 0 false 0))
      = some (0xCBF43926, [true]) := by decide +kernel
/-- A register of 0xFFFFFFFF is 0 at the end: a match with the seed 0, and with the seed 5 the mismatch that keeps INC back. -/
theorem test_chk_result :
    after (fun t => ((t.ring 0).jobs.map fun y => (y.stage, y.moved), t.regFld (.chkCnt 15) 32 32)) (exec (.chkResult 15) (checking 0 true 0xFFFFFFFF)) = some ([(.done, 0)], 1) ∧
    after (fun t => ((t.ring 0).jobs.map fun y => (y.stage, y.moved), t.reg (.chkMisrec 15 1), t.regBit .chkStatus 15)) (exec (.chkResult 15) (checking 5 true 0xFFFFFFFF))
      = some ([(.done, 1)], 5, true) := by decide +kernel

/-- The descriptor's bytes stayed uncorrectable: its session is broken and it fails with cause 10. -/
def spoilt : State := let s := checking 5 false 0; s.setChkUnit 15 { s.chkUnit 15 with queue := [checkJob 5 false true] }
theorem test_chk_bad_bytes :
    after (fun t => ((t.session 15 1).broken, (t.ring 0).jobs.map (·.stage), lastRec t)) (exec (.chkDescriptorRun 15) spoilt)
      = some (true, [.failed 10], 8, 10) := by decide +kernel

theorem witness_CheckUnits :
    (chkWorks (checking 5 false 0) 15 = true ∧ ((checking 5 false 0).chkUnit 15).queue = [checkJob 5 false false]) ∧
    (chkWorks spoilt 15 = true ∧ (spoilt.chkUnit 15).queue = [checkJob 5 false true] ∧ (spoilt.ring 0).job 0 = some (jobOf (chkOf 5) .unit)) ∧
    (let s := checking 5 true 0xFFFFFFFF
     let v := (gathering s).setChkUnit 15 { s.chkUnit 15 with queue := [] }
     let passed := passPort v 0x2000 8 (ringRequester s 0)
     chkWorks s 15 = true ∧ s.faults.batch = none ∧ resultFree s 15 (checkJob 5 true false) = true ∧ addrLocal (dDst (chkOf 5)) = 0x2000 ∧
      (passed.ring 0).job 0 = some (jobOf (chkOf 5) .unit) ∧
      (∀ p ∈ passed.rings, ∀ z ∈ (passed.ring p.1).jobs, dKind z.desc = 11 → z.stage = .reading → z.out ≠ 0) ∧
      writesResult (chkOf 5) (s.session 15 1).broken = true ∧ chkCompare (chkOf 5) = true ∧ s.regBit (.chkMisrec0 15) 63 = false ∧
      (portWrite passed 0x2000 (toBytes 8 0)).1 = true) ∧
    (let s := (checking 5 true 0).setSession 15 1 { (checking 5 true 0).session 15 1 with broken := true }
     chkWorks s 15 = true ∧ writesResult (chkOf 5) (s.session 15 1).broken = false ∧ resultFree s 15 (checkJob 5 true false) = true) ∧
    (let s := { checking 5 true 0 with marks := [(0x2000, .bad 9)] }
     let passed := passPort ((gathering s).setChkUnit 15 { s.chkUnit 15 with queue := [] }) 0x2000 8 (ringRequester s 0)
     resultFree s 15 (checkJob 5 true false) = true ∧ (portWrite passed 0x2000 (toBytes 8 0)).1 = false) := by decide +kernel

/-! ### Faults and frost -/

def full : State := { base with faults := { base.faults with head := 0xFFFFFFFF, tail := 511 } }
theorem test_fault_queue_full :
    after (fun t => (t.faults.tail, t.reg .fltQlost, t.faults.signal)) (exec (.fltCtlEnter .E) full) = some (511, 1, some (18, 1, 0)) := by decide +kernel
theorem test_flt_enter : after (fun t => (t.faults.tail, lastRec t)) (exec (.fltCtlEnter .E) base) = some (1, (18, 1)) := by decide +kernel
theorem test_flt_qidx :
    after (fun t => (t.faults.head, t.regBit .fltStatus 19)) (exec (.fltQidx .W 511) full) = some (511, false) ∧
    after (fun t => (t.faults.head, t.regBit .fltStatus 19)) (exec (.fltQidx .W 512) full) = some (0xFFFFFFFF, true) := by decide +kernel
def signalled : State := { base with faults := { base.faults with signal := some (18, 1, 0) }, reqs := [reqOf true 0x1000 [1], { reqOf true 0x1000 [1] with accepted := true }] }
theorem test_frost_entry :
    after (fun t => (t.faults.inFrost, t.power.frostN, t.power.coolReq, t.reqs.length)) (exec .frostEntry signalled) = some (true, false, true, 1) := by decide +kernel
theorem test_frost_quiet :
    after (fun t => (t.faults.quiet, t.svc.tests)) (exec .frostQuiet { frozen with svc := { frozen.svc with tests := [(2, false)] } }) = some (true, [(2, true)]) ∧
    after (fun t => t.faults.quiet) (exec .frostQuiet { frozen with reqs := signalled.reqs }) = some false := by decide +kernel

/-! ### Power -/

/-- All dies at a temperature, all rails at 800 mV, the input at 48 V. -/
def sampleAt (t : Nat) : PowerSample := ⟨List.replicate 4 (List.replicate 24 t), List.replicate 34 t, List.replicate 4 800, 48000, 900, fixedRails⟩
theorem test_thermal_quiet : after (fun t => (t.power.coolReq, t.faults.seq, t.power.warned)) (exec (.thermalSample (sampleAt 60)) base) = some (false, 0, []) := by
  decide +kernel
/-- The last sensor of field 1 at 110 °C. -/
def hotSample : PowerSample :=
  { sampleAt 60 with sensors := setAt (sampleAt 60).sensors 1 (List.replicate 23 60 ++ [110]) }
theorem test_thermal_critical :
    after (fun t => (t.power.coolReq, lastRec t, t.faults.signal.isSome, t.power.spread)) (exec (.thermalSample hotSample) base)
      = some (true, (14, 2), true, true) := by decide +kernel
theorem test_spread_lift :
    after (fun t => t.power.lift) (exec .spreadLiftStep { base with power := { base.power with spread := true, lift := [28, 0, 0, 3] } }) = some [30, 0, 0, 3] ∧
    after (fun t => t.power.lift) (exec .spreadLiftStep { base with power := { base.power with lift := [28, 0, 0, 3] } }) = some [23, 0, 0, 0] := by decide +kernel
/-- Conditions that have held since 0, at a time in ns. -/
def limits (ns : Nat) : State :=
  let s := later ns base
  { s with power := { s.power with spreadSince := some 0, adjSince := some 0, inputSince := some 0, offSince := [(3, 0)], fixedSince := [(12, 0)] } }
theorem test_spread_timeout :
    after lastRec (exec .spreadTimeout (limits 10000000)) = some (14, 3) ∧ after (fun t => t.faults.seq) (exec .spreadTimeout (limits 9999999)) = some 0 := by
  decide +kernel
theorem test_adjacent_timeout :
    after lastRec (exec .adjacentRailTimeout (limits 200000)) = some (15, 2) ∧ after (fun t => t.faults.seq) (exec .adjacentRailTimeout (limits 199999)) = some 0 := by
  decide +kernel
theorem test_off_timeout :
    after lastRec (exec (.railOffSetpointTimeout 3) (limits 100000)) = some (15, 3) ∧ after (fun t => t.faults.seq) (exec (.railOffSetpointTimeout 2) (limits 100000)) = some 0 := by
  decide +kernel
theorem test_fixed_timeout :
    after lastRec (exec (.fixedRailTimeout 12) (limits 100000)) = some (15, 3) ∧ after (fun t => t.faults.seq) (exec (.fixedRailTimeout 12) (limits 99999)) = some 0 := by
  decide +kernel
theorem test_input_timeout :
    after lastRec (exec .inputRangeTimeout (limits 1000000)) = some (15, 4) ∧ after (fun t => t.faults.seq) (exec .inputRangeTimeout (limits 999999)) = some 0 := by
  decide +kernel

/-! ### Rails: whatever the table, goals of rails that agree lie within 860 mV -/

theorem clampRail_le (v : Nat) : clampRail v ≤ 860 := by unfold clampRail; omega

theorem getD_le {g : List Nat} (h : ∀ x ∈ g, x ≤ 860) (i : Nat) : g.getD i 0 ≤ 860 := by
  rw [List.getD_eq_getElem?_getD]
  cases e : g[i]? with
  | none => simp
  | some x => exact h x (List.mem_of_getElem? e)

theorem setAt_le {v : Nat} (hv : v ≤ 860) : ∀ (g : List Nat) (i : Nat), (∀ x ∈ g, x ≤ 860) → ∀ x ∈ setAt g i v, x ≤ 860
  | [], _, _ => by simp [setAt]
  | a :: g, 0, h => by simp [setAt] at h ⊢; exact ⟨hv, h.2⟩
  | a :: g, i + 1, h => by
    simp [setAt] at h ⊢
    exact ⟨h.1, setAt_le hv g i h.2⟩

theorem foldMax_le {g : List Nat} (h : ∀ x ∈ g, x ≤ 860) : ∀ (as : List Nat) (v : Nat), v ≤ 860 → as.foldl (fun v a => max v (g.getD a 0 - 60)) v ≤ 860
  | [], _, hv => hv
  | a :: as, v, hv => foldMax_le h as _ (Nat.max_le.2 ⟨hv, by have := getD_le h a; omega⟩)

theorem raisePass_le {g : List Nat} (h : ∀ x ∈ g, x ≤ 860) : ∀ x ∈ raisePass g, x ≤ 860 := by
  unfold raisePass
  generalize List.range 4 = fs
  induction fs generalizing g with
  | nil => exact h
  | cons f fs ih => exact ih (setAt_le (foldMax_le h _ _ (getD_le h f)) g f h)

theorem goals_le (s : State) (hl : ∀ f, f < 4 → s.power.lift.getD f 0 = 0)
    (hu : ∀ f, f < 4 → (fieldPairs.any fun q => (q.1 = f && decide (fieldVolt s.power q.1 + 60 < fieldVolt s.power q.2))
      || (q.2 = f && decide (fieldVolt s.power q.2 + 60 < fieldVolt s.power q.1))) = false) : ∀ g ∈ railGoals s, g ≤ 860 := by
  refine raisePass_le (raisePass_le fun x hx => ?_)
  obtain ⟨f, hf, rfl⟩ := List.mem_map.1 hx
  simp only [hu f (List.mem_range.1 hf), railTarget, hl f (List.mem_range.1 hf)]
  exact Nat.max_le.2 ⟨Nat.min_le_left _ _, Nat.zero_le _⟩

theorem goals_base : ∀ g ∈ railGoals base, g ≤ 860 := goals_le _ (by decide +kernel) (by decide +kernel)

theorem foldMax_ge (g : List Nat) : ∀ (as : List Nat) (v : Nat), v ≤ as.foldl (fun v a => max v (g.getD a 0 - 60)) v
  | [], _ => Nat.le_refl _
  | _ :: as, _ => Nat.le_trans (Nat.le_max_left _ _) (foldMax_ge g as _)

/-- R410: a second rail step comes 10 µs after the first at the earliest. -/
def stepped (ns : Nat) : State :=
  { base with power := { base.power with railAt := some 0 }, time := { base.time with elapsed := ns } }
theorem test_rail_step_is_spaced : exec .railStep (stepped 9999) = .next (stepped 9999) ∧ spaced (stepped 10000) (some 0) 10000 = true := by
  have h : ((stepped 9999).live && spaced (stepped 9999) (stepped 9999).power.railAt 10000) = false := by decide +kernel
  refine ⟨?_, by decide +kernel⟩
  show stepIf _ _ _ = _
  rw [h]
  rfl

/-- Rails that disagree: the lower, at 860 mV, must go higher than a rail may. -/
def torn : State := { base with power := { base.power with vset := [860, 860, 860, 860], sample := { sampleAt 60 with vmeas := [700, 800, 800, 800] } } }
theorem le_setAt {v : Nat} : ∀ (g : List Nat) (i j : Nat), (i = j → 865 ≤ v) → 865 ≤ g.getD j 0 → 865 ≤ (setAt g i v).getD j 0
  | [], _, _, _, h => by simp at h
  | a :: g, 0, 0, hv, _ => by simpa [setAt] using hv rfl
  | a :: g, 0, j + 1, _, h => by simpa [setAt] using h
  | a :: g, i + 1, 0, _, h => by simpa [setAt] using h
  | a :: g, i + 1, j + 1, hv, h => by
    have := le_setAt g i j (fun e => hv (by omega)) (by simpa using h)
    simpa [setAt] using this

theorem le_raisePass {g : List Nat} (h : 865 ≤ g.getD 0 0) : 865 ≤ (raisePass g).getD 0 0 := by
  unfold raisePass
  generalize List.range 4 = fs
  induction fs generalizing g with
  | nil => exact h
  | cons f fs ih => exact ih (le_setAt g f 0 (fun e => Nat.le_trans (by rw [e]; exact h) (foldMax_ge _ _ _)) h)

theorem goals_torn : ∃ g ∈ railGoals torn, 860 < g := by
  have h : 865 ≤ (railGoals torn).getD 0 0 := by
    refine le_raisePass (le_raisePass ?_)
    exact Nat.le_max_right (railTarget torn 0) 865
  rw [List.getD_eq_getElem?_getD] at h
  cases e : (railGoals torn)[0]? with
  | none => rw [e] at h; simp at h
  | some x => rw [e] at h; exact ⟨x, List.mem_of_getElem? e, by simp at h; omega⟩

theorem witness_FaultQueue :
    (full.faults.tail - full.faults.head = 512 ∧ base.faults.tail - base.faults.head ≠ 512) ∧ clusterRuns full .W = true ∧
    (full.faults.tail - (511 : Word).truncate 32).toNat ≤ 512 ∧ 512 < (full.faults.tail - (512 : Word).truncate 32).toNat ∧
    full.faults.batch = none ∧ base.broken = [] ∧ Stored.routes .E ∈ ({ base with broken := [.routes .E] } : State).broken := by decide +kernel

theorem witness_Frost :
    signalled.live = true ∧ signalled.faults.signal.isSome = true ∧ signalled.faults.inFrost = false ∧ signalled.power.coolReq = false ∧
    frozen.live = true ∧ frozen.faults.inFrost = true ∧ frozen.faults.quiet = false ∧ frostDone frozen = true := by decide +kernel

/-- Rails that agree, set to 700 mV. -/
def settled : State := { base with power := { base.power with vset := [700, 700, 700, 700] } }
theorem witness_PowerAndRails_rails :
    (settled.live = true ∧ spaced settled settled.power.railAt 10000 = true ∧ settled.faults.batch = none ∧ ∀ g ∈ railGoals settled, g ≤ 860) ∧
    (torn.live = true ∧ torn.faults.inFrost = false ∧ spaced torn torn.power.railAt 10000 = true ∧ ∃ g ∈ railGoals torn, 860 < g) :=
  ⟨⟨by decide +kernel, rfl, rfl, goals_le _ (by decide +kernel) (by decide +kernel)⟩, by decide +kernel, rfl, rfl, goals_torn⟩

theorem witness_PowerAndRails :
    (base.live = true ∧ base.faults.inFrost = false ∧ critLevel 1 ≤ tempOf (cleanSample base.part.l1t hotSample) 1 ∧ tempOf base.power.sample 1 < critLevel 1 ∧
      warnLevel base 1 < tempOf (cleanSample base.part.l1t hotSample) 1 ∧ 20 < fieldSpread (cleanSample base.part.l1t hotSample)) ∧
    (∀ i, i < 38 → tempOf (cleanSample base.part.l1t (sampleAt 60)) i + 5 ≤ warnLevel base i) ∧
    (let q := cleanSample base.part.l1t { sampleAt 60 with vmeas := [800, 876, 800, 800], inputMv := 39999 }
     q.inputMv < 40000 ∧ 75 < railSpread { base.power with sample := q }) ∧
    (let s := limits 10000000
     s.live = true ∧ lasted s s.power.spreadSince 10000000 = true ∧ lasted s s.power.adjSince 200000 = true ∧
      lasted s (SMap.get? s.power.offSince 3) 100000 = true ∧ lasted s s.power.inputSince 1000000 = true ∧
      lasted s (SMap.get? s.power.fixedSince 12) 100000 = true ∧ spaced s s.power.liftAt 1000000 = true) ∧
    (let s := { base with power := { base.power with railAt := some 0 } }
     spaced s s.power.railAt 10000 = false) := by decide +kernel

/-! ### Registers and scan -/

theorem test_register_read :
    after (fun t => ((t.cluster .E).rdata, (t.cluster .E).accessFault)) (exec (.registerRead .E (Reg.fltIen).addr 8) (base.setReg .fltIen 0x55)) = some (0x55, false) := by
  decide +kernel
/-- R30: a window with no block. -/
theorem test_register_no_block :
    after (fun t => ((t.cluster .E).accessFault, lastRec t)) (exec (.registerWrite .E 0x7F013000000 8 0) base) = some (true, (4, 1)) := by decide +kernel
theorem test_register_size :
    after (fun t => ((t.cluster .E).accessFault, lastRec t)) (exec (.registerRead .E (Reg.fltIen).addr 4) base) = some (true, (4, 3)) := by decide +kernel
/-- R10: a write of 1 to a reserved bit has no effect that the spec gives. -/
theorem test_register_reserved :
    faultOf (exec (.registerWrite .W (Reg.timeCfg).addr 8 top) base) = some (.reservedBitWritten (Reg.timeCfg).addr) := by decide +kernel
theorem test_register_clears :
    after (fun t => t.reg .timeEvent) (exec (.registerWrite .W (Reg.timeEvent).addr 8 2) (base.setReg .timeEvent 7)) = some 5 := by decide +kernel

theorem witness_RegisterAccesses :
    (clusterRuns base .W = true ∧ base.clusters.length = 2) ∧
    (∀ r ∈ [Reg.fltIen, .timeCfg, .timeEvent], inRegs base r.addr = true ∧ r.addr % 8 = 0 ∧ Reg.ofAddr r.addr = some r ∧ regFitted base r = true) ∧
    inWindows 0x7F000000000 = true ∧ inWindows 0x7F013000000 = true ∧ inRegs base 0x7F013000000 = false ∧ base.faults.batch = none ∧
    (inRegs base 0x7F000000FF8 = true ∧ Reg.ofAddr 0x7F012FFFFF8 = none ∧ inRegs base 0x7F012FFFFF8 = true) ∧ top &&& (Reg.timeCfg).reserved ≠ 0 ∧
    (Reg.timeEvent, Reg.timeIen) ∈ interruptRegs ∧ (2 : Word) &&& (Reg.timeEvent).reserved = 0 ∧ (2 : Word) &&& (Reg.timeIen).reserved = 0 := by decide +kernel

/-- The three controllers at Shift-DR with BYPASS. -/
def shifting : State := { base with scan := ⟨.shDr, [[true], [false], [true]], List.replicate 3 (List.replicate 4 true), none⟩ }
theorem test_scan_shifts :
    after (fun t => (t.scan.tap, t.scan.shift, t.scan.tdo)) (exec (.boundaryScan false false) shifting) = some (.shDr, [[false], [true], [false]], some false) ∧
    after (fun t => (t.scan.tap, t.scan.tdo)) (exec (.boundaryScan true false) shifting) = some (.ex1Dr, none) := by decide +kernel

theorem witness_BoundaryScan :
    shifting.power.pwrGood = true ∧ shifting.scan.tap = .shDr ∧ shifting.scan.shift = [[true], [false], [true]] ∧ (∀ x ∈ shifting.scan.ir, isBypass x = true) ∧
    shifting.scan.ir.length = 3 := by decide +kernel

/-- The premises of the invariants hold after reset, and an idle step from there answers a next state. -/
theorem witness_invariants :
    State.reset.memOk = true ∧ (State.reset.faults.tail - State.reset.faults.head).toNat ≤ 512 ∧ State.reset.pending = [] ∧ State.reset.faults.batch = none ∧
    step State.reset = .next (tick State.reset) ∧ frozen.faults.inFrost = true ∧ step frozen = .next (tick frozen) :=
  ⟨by decide +kernel, by decide +kernel, rfl, rfl, rfl, rfl, rfl⟩

/-! ### What the checks of WellFormed refuse -/

/-- Each number one beyond its range. -/
def badTerms : List Instr :=
  [.nop ⟨768, .B⟩, .pondBroadcastBegin 192 .B, .lineEventDelivery 0 17, .saveComplete 768, .registerWrite .W 0x7F000000000 3 0, .registerWrite .W 0x6FFFFFFFFF8 8 0,
    .registerWrite .W 0x80000000000 8 0, .incrementLands [3, 3], .voteAndEntry 768 0 0, .waitTimeoutExpiry (.ring 8192), .waitTimeoutExpiry (.ctx ⟨768, .F⟩), .copy 8192]
  ++ [.eccWriteBack 0x40000000000, .arbiterGrant 68, .arbPrio .W 0 134 0, .edgeXsCfg .W 64 0 0, .edgeXsCfg .W 0 32 0, .gacc 16, .write 36,
    .codewordReceive 0 ⟨0, []⟩ .clean, .codewordReceive 0 ⟨65536, List.replicate 10 ⟨0, 0⟩⟩ .clean, .linkTrainingComplete 36 0 0 0, .linkTrainingComplete 0 0 2048 0, .linkTrainingComplete 0 0 0 36, .incrementLands []]
  ++ [.lineEvent 16, .ptpEventMessage .W [], .qwStarved (.link 36), .qwStarved (.stack 16), .qwStarved (.lake 64), .mgmtFrameReceive .W [] 0, .clusterAccess .W true 0 3 0]
  ++ [.readyBitRise (.field 4), .readyBitRise (.stitch 4), .readyBitRise (.stack 16), .readyBitRise (.spring 16), .readyBitRise (.lake 64), .readyBitRise (.link 36),
    .readyBitRise (.chk 16), .fieldSelfTest .W 64, .selfTestComplete 4 true, .chkResult 16]
  ++ [.thermalSample { sampleAt 60 with sensors := [] }, .thermalSample { sampleAt 60 with watts := 65536 }, .railOffSetpointTimeout 4, .fixedRailTimeout 13]
theorem test_wf_refuses : (badTerms.all fun i => !i.wf) = true ∧ (Instr.registerRead .W 0x80000000000 8).wf = false ∧ (Instr.recalibrationDue (.link 36)).wf = false := by decide +kernel
/-- The same at the ends of their ranges. -/
def goodTerms : List Instr :=
  [.nop ⟨767, .F⟩, .pondBroadcastBegin 191 .B, .lineEventDelivery 767 16, .registerWrite .W 0x7FFFFFFFFF8 8 0, .copy 8191, .arbPrio .W 67 133 0, .edgeXsCfg .E 63 31 0, .gacc 15,
    .linkTrainingComplete 35 0 2047 35, .incrementLands [3, 2], .codewordReceive 0 ⟨65535, List.replicate 10 ⟨0, 0⟩⟩ .clean, .lineEvent 15, .qwStarved (.lake 63), .readyBitRise (.stitch 3),
    .thermalSample (sampleAt 255), .fixedRailTimeout 12]
theorem test_wf_accepts : goodTerms.all Instr.wf = true := by decide +kernel

end Sys2Proof.Tests
end

section
/-! Proofs about one step of the queue: what `step` answers with a command at the front and with none waiting. -/

namespace Sys2Proof.Machine

open Sys2Proof

/-- The front command is carried out with the rest of the queue as what still waits (log entry 36). -/
theorem step_of_pending_cons {s : State} {c : Instr} {rest : List Instr} (h : s.pending = c :: rest) :
    step s = exec c { s with pending := rest } := by
  simp only [step, h]

/-- With no command waiting, a step is a cycle of the grid clock (R9, log entry 36). -/
theorem step_of_pending_nil {s : State} (h : s.pending = []) : step s = .next (tick s) := by
  simp only [step, h]

/-- Settles O56, by the two cases of the queue. The state that a command sees does not depend on the queue it was taken from: the
second update of `pending` overwrites the first. -/
theorem stepTakesTheFrontCommand : Obligations.StepTakesTheFrontCommand := by
  unfold Obligations.StepTakesTheFrontCommand
  constructor
  · intro c rest s
    exact step_of_pending_cons rfl
  · intro s hempty
    exact step_of_pending_nil hempty

end Sys2Proof.Machine
end

section
/-! Proofs about the vector instructions (R154): the words of the lane operations are legal at every width that R154 names, an
issued one reads its lanes and writes their results, and so each operation is its function of the lanes. -/

namespace Sys2Proof.Machine

open Sys2Proof

/-! ### Widths and legal words -/

/-- The widths of R154 are 0, 1 and 2. -/
theorem toNat_le_two_of_width {w : BitVec 2} (hw : w ≠ 3) : w.toNat ≤ 2 := by bv_omega

/-- FN holds an operation's code over its width (R154). -/
theorem fn_div_four (w : BitVec 2) (code : Nat) : (4 * code + w.toNat) / 4 = code := by omega

/-- An operation on the lanes of two registers is legal (R154): FN[7:2] is one of 0 to 4. -/
theorem illegalCause_twoLanes (k : CtxAt) {w : BitVec 2} (hw : w ≠ 3) {code : Nat} (hcode : code ≤ 4) (d a b : BitVec 5) :
    illegalCause k (encR 0x24 (4 * code + w.toNat) d a b 0 0) = none := by
  have hwidth := toNat_le_two_of_width hw
  have hcode6 : code ≤ 6 := by omega
  have hcode5 : ¬ 5 ≤ code := by omega
  have hmod : w.toNat % 4 ≠ 3 := by omega
  refine illegalCause_encR k _ _ d a b 0 0 (by omega) (by omega) fun word hop hfn _ _ _ hc hx => ?_
  simp [illegalCause, reservedIf, hop, hfn, hc, hx, fn_div_four, hcode6, hcode5, hmod]

/-- A transcendental operation is legal (R132, R154): FN[7:2] is one of 0 to 3. -/
theorem illegalCause_transcendental (k : CtxAt) {w : BitVec 2} (hw : w ≠ 3) {code : Nat} (hcode : code ≤ 3) (d a : BitVec 5) :
    illegalCause k (encR 0x29 (4 * code + w.toNat) d a 0 0 0) = none := by
  have hwidth := toNat_le_two_of_width hw
  have hmod : w.toNat % 4 ≠ 3 := by omega
  refine illegalCause_encR k _ _ d a 0 0 0 (by omega) (by omega) fun word hop hfn _ _ hb hc hx => ?_
  simp [illegalCause, reservedIf, hop, hfn, hb, hc, hx, fn_div_four, hcode, hmod]

/-- vfma is legal with any four registers (R154). -/
theorem illegalCause_vfma (k : CtxAt) {w : BitVec 2} (hw : w ≠ 3) (d a b c : BitVec 5) :
    illegalCause k (encR 0x25 w.toNat d a b c 0) = none := by
  have hwidth := toNat_le_two_of_width hw
  refine illegalCause_encR k _ _ d a b c 0 (by omega) (by omega) fun word hop hfn _ _ _ _ hx => ?_
  simp [illegalCause, reservedIf, hop, hfn, hx, hwidth]

/-- vsum is legal with any two registers (R154). -/
theorem illegalCause_vsum (k : CtxAt) {w : BitVec 2} (hw : w ≠ 3) (d a : BitVec 5) :
    illegalCause k (encR 0x26 w.toNat d a 0 0 0) = none := by
  have hwidth := toNat_le_two_of_width hw
  refine illegalCause_encR k _ _ d a 0 0 0 (by omega) (by omega) fun word hop hfn _ _ hb hc hx => ?_
  simp [illegalCause, reservedIf, hop, hfn, hb, hc, hx, hwidth]

/-! ### Registers that wait for no vtrd (R145) -/

/-- Where none of some registers waits for a vtrd, none of fewer does. -/
theorem vReady_of_subset {c : Context} {ms ns : List (BitVec 5)} (h : vReady c ns = true) (hsub : ms ⊆ ns) :
    vReady c ms = true :=
  List.all_eq_true.mpr fun n hn => List.all_eq_true.mp h n (hsub hn)

/-- A context that issues a legal word, and whose registers of it are ready, goes on to the result. -/
theorem issue_ready {s : State} {k : CtxAt} {word : Word} {ns : List (BitVec 5)} (h : issues s k word)
    (hlegal : illegalCause k word = none) (hready : vReady (s.ctx k) ns = true) (result : State → State) :
    issue k word s (fun t => waitUntil (vReady (t.ctx k) ns) t (result t)) = .next (result s) := by
  rw [issue_of_issues h hlegal, hready]
  rfl

/-! ### What an issued lane operation writes -/

section
variable {k : CtxAt} {w : BitVec 2} {d a b c : BitVec 5} {s : State}

/-- An issued operation on the lanes of two registers writes its function of them, lane by lane. -/
theorem vec2_of_issues {code : Nat} (f : Nat → Nat → Nat × NFlags) (hcode : code ≤ 4) (hw : w ≠ 3)
    (hready : vReady (s.ctx k) [d, a, b] = true) (h : issues s k (encR 0x24 (4 * code + w.toNat) d a b 0 0)) :
    vec2 k 0x24 code w d a b f s =
      .next (writeVec k 0x24 w d (List.zipWith f (lanes w ((s.ctx k).v a)) (lanes w ((s.ctx k).v b))) s) :=
  issue_ready h (illegalCause_twoLanes k hw hcode d a b) hready _

/-- An issued transcendental operation writes its function of each lane. -/
theorem vec1_of_issues {code : Nat} (f : Nat → Nat × NFlags) (hcode : code ≤ 3) (hw : w ≠ 3)
    (hready : vReady (s.ctx k) [d, a] = true) (h : issues s k (encR 0x29 (4 * code + w.toNat) d a 0 0 0)) :
    vec1 k 0x29 code w d a f s = .next (writeVec k 0x29 w d ((lanes w ((s.ctx k).v a)).map f) s) :=
  issue_ready h (illegalCause_transcendental k hw hcode d a) hready _

/-- An issued vfma writes the fused product and sum of each three lanes (R121). -/
theorem execVfma_of_issues (hw : w ≠ 3) (hready : vReady (s.ctx k) [d, a, b, c] = true)
    (h : issues s k (encR 0x25 w.toNat d a b c 0)) :
    execVfma k w d a b c s =
      .next (writeVec k 0x25 w d
        (((lanes w ((s.ctx k).v a)).zip ((lanes w ((s.ctx k).v b)).zip (lanes w ((s.ctx k).v c)))).map fun p =>
          (laneFmt w).fmaBits p.1 p.2.1 p.2.2) s) :=
  issue_ready h (illegalCause_vfma k hw d a b c) hready _

/-- An issued vsum writes the sum of R130 to lane 0 and +0 to the others. -/
theorem execVsum_of_issues (hw : w ≠ 3) (hready : vReady (s.ctx k) [d, a] = true)
    (h : issues s k (encR 0x26 w.toNat d a 0 0 0)) :
    execVsum k w d a s =
      .next (writeVec k 0x26 0 d (treeSum (sumLanes w ((s.ctx k).v a)) :: List.replicate 47 (0, 0)) s) :=
  issue_ready h (illegalCause_vsum k hw d a) hready _

end

/-- Settles O5, one operation after the other: each arm of `exec` is an operation on the lanes of one or two registers, vfma or
vsum, and an issued one of each kind writes its function of the lanes. -/
theorem vectorLaneOperations : Obligations.VectorLaneOperations := by
  unfold Obligations.VectorLaneOperations
  rintro k w d a b c s _ _ _ hw rfl rfl rfl hready
  have htwo : vReady (s.ctx k) [d, a, b] = true := vReady_of_subset hready (by simp)
  have hone : vReady (s.ctx k) [d, a] = true := vReady_of_subset hready (by simp)
  refine ⟨?vadd, ?vsub, ?vmul, ?vmin, ?vmax, ?vexp, ?vlog2, ?vrsqrt, ?vtanh, ?vfma, ?vsum⟩
  case vadd => exact vec2_of_issues (laneFmt w).addBits (by decide) hw htwo
  case vsub => exact vec2_of_issues (laneFmt w).subBits (by decide) hw htwo
  case vmul => exact vec2_of_issues (laneFmt w).mulBits (by decide) hw htwo
  case vmin => exact vec2_of_issues ((laneFmt w).minMax false) (by decide) hw htwo
  case vmax => exact vec2_of_issues ((laneFmt w).minMax true) (by decide) hw htwo
  case vexp => exact vec1_of_issues (transc (laneFmt w) 0) (by decide) hw hone
  case vlog2 => exact vec1_of_issues (transc (laneFmt w) 1) (by decide) hw hone
  case vrsqrt => exact vec1_of_issues (transc (laneFmt w) 2) (by decide) hw hone
  case vtanh => exact vec1_of_issues (transc (laneFmt w) 3) (by decide) hw hone
  case vfma => exact execVfma_of_issues hw hready
  case vsum => exact execVsum_of_issues hw hone

end Sys2Proof.Machine
end
